-- ==== Sys2Proof/Word.lean ====
section
/-! DEFINITION. The word types of the Kalton-9 (00_scope R3, R4; 02 R45) and the type of a sparse map. -/

namespace Sys2Proof

abbrev Byte := BitVec 8
abbrev Half := BitVec 16
/-- A lane, x register or element word (01 R20). -/
abbrev Word := BitVec 32
/-- A scalar register s0–s63 (14 R313). -/
abbrev DWord := BitVec 64
/-- A virtual address (19 R390). -/
abbrev VAddr := BitVec 52
/-- A set of engines of a gang, bit e for engine e (13 R292). -/
abbrev Mask := BitVec 16
/-- A 32-byte sector of device memory (10 R229). -/
abbrev SectorData := BitVec 256

/-- A sparse map from numbers to values: keys strictly rising, and no entry equal to the value an
unlisted key has (the default is an argument of every operation of `Machine/Sparse.lean`). -/
abbrev Sp (α : Type) := List (Nat × α)

end Sys2Proof
end

