-- ==== Sys2Proof/Config.lean ====
section
/-! DEFINITION. What an implementation of the Kalton-9 fixes and the manual leaves open (the free
values: opaque, without a body), and the figures of the module that the manual states. -/

namespace Sys2Proof.Config

/-- Free value number n of a run: every choice the manual leaves open (which of several allowed
events happens next, a stale or a fresh view) is taken from it. Log entry 5. -/
opaque freeNat : Nat → Nat

/-- The special functions' result bits before the bound of R124 is applied. Log entry 8. -/
opaque freeRcp : BitVec 32 → BitVec 32
opaque freeRsq : BitVec 32 → BitVec 32
opaque freeEx2 : BitVec 32 → BitVec 32
opaque freeLg2 : BitVec 32 → BitVec 32
opaque freeTanh : BitVec 32 → BitVec 32

/-- The data another module answers a copy read with, byte i of piece number n (19 R402). Log entry 14. -/
opaque freeRemote : Nat → Nat → BitVec 8

/-- The region offset the module measures at start number n for region r (22 R436 step 8). -/
opaque freeRoff : Nat → Nat → BitVec 64

/-- Where in the near DRAM of an S-die the memory begins that Barista takes for itself: save areas and stack spill regions (21
R417, R418; 13 R304). Argument: the S-die. Log entry 22. -/
opaque freeSaveBase : Nat → Nat

/-- The grade of the module: a K9-850, or else a K9-900 (00 R1). Log entry 21. -/
opaque isK9850 : Bool

/-- Far memory populated on the module, in bytes: all four E-dies at 384 GiB (01 R16, 08 R191, R192). Log entry 21. -/
def farBytes : Nat := 1536 * 2 ^ 30

/-- Enabled gangs per G-die of the grade (00 R1, 01 R13, R32). -/
def gradeGangs : Nat := if isK9850 then 850 else 900

/-- The escape wait where system software has set one, 16 to 4,095 cycles; no register of it is given (15 R358). Log entry 88. -/
opaque freeEscapeWait : Option Nat

/-- The budgets that system software has set in place of the default, in flits per window of 256 cycles: argument 4 · port + class; no
register of them is given (15 R359). Log entry 88. -/
opaque freeBudget : Nat → Option Nat

/-- The flits that a slice's request queue takes in a window of 256 cycles, which no rule gives (15 R359). Log entry 88. -/
opaque freePortFlits : Nat → Nat

/-- Which of several teams of a record on a gang a kind 1 address names, for the team of that number (15 R353). Log entry 115. -/
opaque freeTeamOn : Nat → Nat → Nat

/-- Whether the waits of 02 R60 that 15 R355 does not name, those on a full command queue apart, count for the Stall cause: R60 treats
every condition of its list alike, R355 names six. Log entry 95. -/
opaque freeStallAlike : Bool

/-- The number of this module among the joined modules (19 R402). Log entry 21. -/
opaque moduleNo : Nat

end Sys2Proof.Config
end

