-- ==== Sys2Proof/Syntax.lean ====
section
/-! DEFINITION. The instructions of the Zenja slots and the steps and events of the module: one
constructor of `Instr` per row of the opcode table (02, 03 R80–R84, 05, 06, 11, 14; 95). -/

namespace Sys2Proof

/-- One of the two program counter slots of a gang (13 R292). -/
inductive PathSlot where | A | B
  deriving DecidableEq, Repr

abbrev SReg := BitVec 6
/-- An x register named in a T slot or as a cursor. -/
abbrev XReg := BitVec 4
abbrev PReg := BitVec 3
abbrev MReg := BitVec 3
abbrev CReg := BitVec 5
abbrev DReg := BitVec 3

/-- A source in the V space (02 R45, R46): a register, a queue head, or special 40 + n. -/
inductive VSrc where
  | reg (r : BitVec 5) | queue (k : BitVec 3) | spec (n : BitVec 3)
  deriving DecidableEq, Repr
/-- A destination in the V space: a register or zero (02 R46). -/
inductive VDst where
  | reg (r : BitVec 5) | zero
  deriving DecidableEq, Repr
/-- A source in the X space; special 41 (lane) is not one of them (05 R139). -/
inductive XSrc where
  | reg (r : BitVec 4) | queue (k : BitVec 3) | spec (n : BitVec 3)
  deriving DecidableEq, Repr
inductive XDst where
  | reg (r : BitVec 4) | zero
  deriving DecidableEq, Repr
/-- The second operand of XADD to XSHR, XPFX, XADV: an X-space source or a 6-bit immediate (05 R140, R142). -/
inductive XB where
  | src (x : XSrc) | imm (n : BitVec 6)
  deriving DecidableEq, Repr
/-- The source of XMOV: X space or S space (05 R140). -/
inductive XMovSrc where
  | x (a : XSrc) | s (a : SReg)
  deriving DecidableEq, Repr
/-- A tile of the T space (02 R45). -/
inductive Tile where
  | m (r : MReg) | c (r : CReg)
  deriving DecidableEq, Repr
/-- Tile direction with the index or rotation that goes with it (02 R47, 05 R134, 11 R256). -/
inductive Dir where | row | col | diag
  deriving DecidableEq, Repr
/-- The fill of GSHF and GBCST (05 R137). -/
inductive Fill where
  | s (r : SReg) | imm (n : BitVec 6)
  deriving DecidableEq, Repr

/-- Format codes 0–9 and 15 (04 R86). -/
inductive Fmt where
  | f32 | bf16 | f16 | e4m3 | e5m2 | i8 | i32 | h4 | lq2 | e8m0 | tab
  deriving DecidableEq, Repr
/-- Rounding codes (04 R98). -/
inductive Rnd where | rne | rtz | rdn | rup
  deriving DecidableEq, Repr
/-- Condition codes of the S slot (14 R316). -/
inductive Cond where | eq | ne | lt | ge | ltu | geu
  deriving DecidableEq, Repr
/-- Conditions of VCMPF (05 R123). -/
inductive FCond where | eq | ne | lt | le | gt | ge | uno | ord
  deriving DecidableEq, Repr
/-- Conditions of VCMPI (05 R125). -/
inductive ICond where | eq | ne | lt | le | gt | ge | ltu | leu | gtu | geu
  deriving DecidableEq, Repr
/-- Reduction operators of VRED, GRED and GSCAN (05 R133). -/
inductive RedOp where | add | min | max | iadd | imin | imax | umin | umax | and | or | xor
  deriving DecidableEq, Repr
/-- PLOG operators on two predicates (05 R126). -/
inductive PlogOp where | and | or | xor | andn
  deriving DecidableEq, Repr
/-- The operands of a PLOG form. -/
inductive PlogSrc where
  | bin (op : PlogOp) (a b : PReg) | not (a : PReg) | mov (a : PReg) | fromv (a : VSrc)
  deriving DecidableEq, Repr
/-- The forms of EPSET (05 R127). -/
inductive EpsetSrc where
  | set (a : VSrc) | and (a : VSrc) | all
  deriving DecidableEq, Repr
/-- Scopes (02 R43, 10 R231). -/
inductive Scope where | engine | gang | team | die | package
  deriving DecidableEq, Repr
/-- AMO operators (11 R264). -/
inductive AmoOp where | add | and | or | xor | smin | smax | umin | umax | swap
  deriving DecidableEq, Repr
/-- SRED operators (11 R283). -/
inductive SredOp where | add | min | max | and | or
  deriving DecidableEq, Repr
/-- Counters WAITR selects (11 R280). -/
inductive Ctr where | tile | join | pred | copy | store
  deriving DecidableEq, Repr
/-- Access sizes of LDS and STS (11 R263). -/
inductive Size where | b | h | w | d
  deriving DecidableEq, Repr
/-- QID selectors (14 R333). -/
inductive QidSel where | team | nteam | gang | vdie | loc
  deriving DecidableEq, Repr
/-- GMSK forms (14 R328). -/
inductive GmskSel where
  | cond (c : Cond) (a b : XSrc) | path | act | ret
  deriving DecidableEq, Repr
/-- GOFF forms (14 R327). -/
inductive GoffSel where
  | cond (c : Cond) (a b : XSrc) | all
  deriving DecidableEq, Repr
/-- QTOP forms (14 R334). -/
inductive QtopSel where
  | gangs (a : SReg) | dies | diam
  deriving DecidableEq, Repr
/-- Control registers (14 R336). -/
inductive Csr where
  | lc (k : BitVec 2) | lnk | abase | cyc | roff | rgn | ctx | stkd | spare | pdecl | peff
  deriving DecidableEq, Repr
/-- XLDC fields (05 R142). -/
inductive XField where | col | row | w0 | w1
  deriving DecidableEq, Repr
/-- Stride codes (05 R141): 8, 4 or 16 bytes. -/
inductive Stride where | s8 | s4 | s16
  deriving DecidableEq, Repr
/-- ADRN layouts (06 R167). -/
inductive Layout where | tup | rm | cm | blk
  deriving DecidableEq, Repr
/-- ARD forms (06 R169). -/
inductive ArdSel where
  | key (xa : XReg) | st | occ | cfg | spl | org | sres | sover
  deriving DecidableEq, Repr
/-- AWR forms (06 R169). -/
inductive AwrSel where
  | key (xa xb : XReg) | st (xa : XReg) | org (xa : XReg) | sres (xa : XReg) | sover (xa : XReg)
  deriving DecidableEq, Repr

/-- What a register parity error hits (08 R208): a register class and number of engine e, or of the sequencer. -/
inductive RegName where
  | s (r : Nat) | x (e r : Nat) | v (e r : Nat) | p (e r : Nat) | m (e r : Nat) | q (e k : Nat)
  deriving DecidableEq, Repr

/-- Where an error is found (08 R208, 22 R427). -/
inductive ErrSite where
  | spad (g e gran : Nat) | acc (g e ent : Nat) | reg (g : Nat) (r : RegName)
  | l1 (g line : Nat) | icache (pair unit : Nat) | spareReg (pair : Nat)
  | shared (slice bank way sector : Nat) | near (sdie sector : Nat) | far (edie chan sector : Nat)
  | core (n : Nat) | port (n : Nat)
  deriving DecidableEq, Repr

/-- An access at a home slice: access k of transaction id of gang g, or an access of a control core (10 R249). -/
inductive HomeReq where
  | txn (g id k : Nat)
  | left (n : Nat)
  | core (pa : BitVec 48) (key : BitVec 6) (data : List Byte)
  deriving DecidableEq, Repr

/-- What a copy piece asks of its remote home: its bytes, a write of data, or a cache command (11 R271, R277). -/
inductive PieceOp where
  | read | write | flush | drop
  deriving DecidableEq, Repr
/-- A copy piece arriving from another module (19 R402, R403), of `len` bytes; a write brings its data. -/
structure RemotePiece where
  src : BitVec 10
  iwin : BitVec 6
  off : BitVec 48
  len : Nat
  op : PieceOp
  data : List Byte
  deriving DecidableEq, Repr

/-- The bytes that a core writes to a device window (08 R200): 1, 2, 4 or 8 of them, the low ones of val. -/
structure DevWrite where
  size : Nat
  val : DWord
  deriving DecidableEq, Repr

/-- How far a start attempt runs (22 R436, R437): to hand-off, to a failure at step k, or it is still in step k. -/
inductive StartOutcome where
  | handOff | failsAt (k : Nat) | inStep (k : Nat)
  deriving DecidableEq, Repr

/-- The reasons of an immediate off by the management controller (22 R441). -/
inductive TripCause where
  | power | die (region : Nat) | inlet (face : Bool)
  deriving DecidableEq, Repr

/-- Instructions of the slots and steps of the module. Constructors stand in the order of the
opcode table, but for its last rows and the rows without an operand, which stand at the end. -/
inductive Instr where
  -- bundles, landings and the memory and T side
  | delayOnly (delay : BitVec 6) (pop : BitVec 8)
  | resultLand (g : Nat)
  | interlockedResultWrite (g id : Nat)
  | l1Fill (g id : Nat)
  | storeAck (g id : Nat)
  | tInstrBegin (g e id : Nat)
  | tInstrComplete (g e id : Nat)
  | keyedPlacement (g e bank : Nat)
  | patrolScrub (g : Nat)
  | sageQueuePush (g e : Nat)
  | copyCommandStart (t : Nat)
  | copyPiece (t cmd off : Nat)
  | copyCommandComplete (t cmd : Nat)
  | copyCounterFall (g : Nat)
  | copyQueuePush (t cmd : Nat)
  | cpygEntryTake (t cmd e : Nat)
  | homeWritePerform (r : HomeReq)
  | homeRead (r : HomeReq)
  | replicaCreate (slice line : Nat)
  | replicaDrop (slice line : Nat)
  | lineEviction (slice line : Nat)
  | keySlotWrite (sdie : Nat) (slot : BitVec 6) (dw : BitVec 2) (v : DWord)
  | correctableError (site : ErrSite)
  | freezeEnd (g : Nat)
  | uncorrectableError (site : ErrSite)
  | deferredTrap (g : Nat)
  | thymeRoundResult (ctx ch v : Nat)
  | sbcDelivery (ctx ch v : Nat)
  | preemptSignalIssue (ctx : Nat) (teams : List Nat)
  | preemptCapture (g : Nat)
  | thymeVoteError (node : Nat) (majority : Bool)
  | barrierPhaseComplete (t b : Nat)
  | barrierWaiterResume (t b : Nat)
  | spareGrant (pair : Nat)
  | spareHandoverEnd (g : Nat)
  | pathResolve (g : Nat) (p : PathSlot)
  | gangFinish (g : Nat)
  | trapEntry (g : Nat)
  | partnerStop (g : Nat)
  | resumeCommand (die gang : Nat)
  | haltCommand (die gang : Nat)
  | stepCommand (die gang : Nat)
  | watchdogExpiry (g : Nat)
  | recordSubmitWindow (core bank : Nat) (v : DWord)
  | recordAccept (bank : Nat)
  | overflowReturn (bank : Nat)
  | tagDecrement (bank tag amount : Nat)
  | dispatchSelect (die : Nat)
  | teamStart (t : Nat)
  | teamSwitch (g : Nat)
  | switchThresholdExpiry (g : Nat)
  | quantumExpiry (g : Nat)
  | migrationSend (src dst : Nat)
  | contextActivate (ctx : Nat)
  | contextEnd (ctx : Nat) (cause : BitVec 8) (va : DWord) (loc : BitVec 24)
  | unmapCommand (ctx : Nat) (v : DWord)
  | unmapComplete (ctx : Nat)
  | faultRetry (die n : Nat)
  | faultAbort (die n : Nat)
  | remotePieceArrival (p : RemotePiece)
  | linkFlitError (link fails : Nat)
  | deviceRegisterWrite (core : Nat) (pa : BitVec 48) (v : DevWrite)
  | startCommand (o : StartOutcome)
  | restartCommand (o : StartOutcome)
  | clearLastingMark (uclass uidx : Nat)
  | startAttemptRetry (o : StartOutcome)
  | firmwareImageUpdate (version : DWord) (digestOk : Bool)
  | powerWarning (power : BitVec 16)
  | overlimitTrip (cause : TripCause) (reading : BitVec 16)
  -- S slot
  | add (rd ra rb : SReg) | sub (rd ra rb : SReg) | and (rd ra rb : SReg) | or (rd ra rb : SReg)
  | xor (rd ra rb : SReg) | andn (rd ra rb : SReg) | shl (rd ra rb : SReg) | shr (rd ra rb : SReg)
  | sar (rd ra rb : SReg)
  | min (u : Bool) (rd ra rb : SReg) | max (u : Bool) (rd ra rb : SReg)
  | cmp (c : Cond) (rd ra rb : SReg)
  | sel (rd ra rb rc : SReg) | popc (rd ra : SReg) | clz (rd ra : SReg)
  | mul (rd ra rb : SReg) | mulh (u : Bool) (rd ra rb : SReg)
  | div (u : Bool) (rd ra rb : SReg) | rem (u : Bool) (rd ra rb : SReg)
  | addi (rd ra : SReg) (imm : BitVec 28) | li (rd : SReg) (imm : BitVec 32) | lih (rd : SReg) (imm : BitVec 32)
  | br (c : Cond) (ra rb : SReg) (off : BitVec 24) | jmp (off : BitVec 24) | jmpr (ra : SReg)
  | call (off : BitVec 24) | loop (k : BitVec 2) (off : BitVec 24)
  | trap (code : BitVec 16)
  | gif (c : Cond) (long : Bool) (xa xb : XSrc) (off : BitVec 24) | gelse (off : BitVec 24)
  | goff (s : GoffSel)
  | gany (c : Cond) (rd : SReg) (xa xb : XSrc) | gall (c : Cond) (rd : SReg) (xa xb : XSrc)
  | gcnt (c : Cond) (rd : SReg) (xa xb : XSrc) | gmsk (s : GmskSel) (rd : SReg)
  | enq (ra rb : SReg) | recd (ra : SReg) | prio (ra : SReg) | qid (s : QidSel) (rd : SReg)
  | csrr (rd : SReg) (c : Csr) | csrw (c : Csr) (ra : SReg)
  | qtop (s : QtopSel) (rd : SReg) | qdie (rd ra rb : SReg)
  | lds (sz : Size) (rd ra : SReg) (off : BitVec 26) | sts (sz : Size) (rd ra : SReg) (off : BitVec 26)
  | amo (op : AmoOp) (dbl : Bool) (rd ra rb : SReg) | cas (dbl : Bool) (rd ra rb rc : SReg)
  -- X slot
  | xli (xd : XDst) (imm : BitVec 32) | xmov (xd : XDst) (a : XMovSrc)
  | xadd (xd : XDst) (a : XSrc) (b : XB) | xsub (xd : XDst) (a : XSrc) (b : XB)
  | xmul (xd : XDst) (a : XSrc) (b : XB) | xand (xd : XDst) (a : XSrc) (b : XB)
  | xxor (xd : XDst) (a : XSrc) (b : XB) | xshl (xd : XDst) (a : XSrc) (b : XB)
  | xshr (xd : XDst) (a : XSrc) (b : XB) | xpopc (xd : XDst) (a : XSrc)
  | xpfx (xd : XDst) (a b : XSrc) | xsel (xd : XDst) (a b c : XSrc)
  | xldc (f : XField) (xd : XDst) (a : XSrc) | xadv (st : Stride) (xd : XDst) (a : XSrc) (b : XB)
  | xhash (lg : BitVec 4) (xd : XDst) (a : XSrc)
  | xcmpa (rowA rowB : Bool) (sa sb : Stride) (xa xb : XReg) (xd : XDst)
  -- V slots
  | vaddf (d : VDst) (a b : VSrc) (tab : Bool) (rnd : Rnd) (sat : Bool) (p : PReg)
  | vsubf (d : VDst) (a b : VSrc) (tab : Bool) (rnd : Rnd) (sat : Bool) (p : PReg)
  | vmulf (d : VDst) (a b : VSrc) (tab : Bool) (rnd : Rnd) (sat : Bool) (p : PReg)
  | vfmaf (d : VDst) (a b c : VSrc) (tab : Bool) (rnd : Rnd) (sat : Bool) (p : PReg)
  | vminf (d : VDst) (a b : VSrc) (tab : Bool) (p : PReg)
  | vmaxf (d : VDst) (a b : VSrc) (tab : Bool) (p : PReg)
  | vcmpf (c : FCond) (d : PReg) (a b : VSrc) (tab : Bool) (p : PReg)
  | vrcp (d : VDst) (a : VSrc) (tab : Bool) (p : PReg) | vrsq (d : VDst) (a : VSrc) (tab : Bool) (p : PReg)
  | vex2 (d : VDst) (a : VSrc) (tab : Bool) (p : PReg) | vlg2 (d : VDst) (a : VSrc) (tab : Bool) (p : PReg)
  | vtanh (d : VDst) (a : VSrc) (tab : Bool) (p : PReg)
  | vaddi (d : VDst) (a b : VSrc) (sat : Bool) (p : PReg) | vsubi (d : VDst) (a b : VSrc) (sat : Bool) (p : PReg)
  | vmuli (d : VDst) (a b : VSrc) (sat : Bool) (p : PReg) | vmulhi (u : Bool) (d : VDst) (a b : VSrc) (p : PReg)
  | vand (d : VDst) (a b : VSrc) (p : PReg) | vor (d : VDst) (a b : VSrc) (p : PReg)
  | vxor (d : VDst) (a b : VSrc) (p : PReg)
  | vshl (d : VDst) (a b : VSrc) (p : PReg) | vshr (d : VDst) (a b : VSrc) (p : PReg)
  | vsar (d : VDst) (a b : VSrc) (p : PReg)
  | vmini (u : Bool) (d : VDst) (a b : VSrc) (p : PReg) | vmaxi (u : Bool) (d : VDst) (a b : VSrc) (p : PReg)
  | vcmpi (c : ICond) (d : PReg) (a b : VSrc) (p : PReg)
  | vmov (d : VDst) (a : VSrc) (p : PReg) | vli (d : VDst) (imm : BitVec 32) | vbcs (d : VDst) (sa : SReg) (p : PReg)
  | vsel (d : VDst) (a b : VSrc) (pc : PReg) (p : PReg) | vrot (d : VDst) (a : VSrc) (n : BitVec 4) (p : PReg)
  | plog (d : PReg) (s : PlogSrc) (p : PReg) | epset (s : EpsetSrc)
  | vcvt (dst src : Fmt) (d : VDst) (a : VSrc) (rnd : Rnd) (sat : Bool) (p : PReg)
  | vqnt (dst : Fmt) (d : VDst) (a b : VSrc) (rnd : Rnd) (sat : Bool) (p : PReg)
  | vdqn (src : Fmt) (d : VDst) (a b : VSrc) (rnd : Rnd) (sat : Bool) (p : PReg)
  | vred (op : RedOp) (d : VDst) (a : VSrc) (rnd : Rnd) (sat : Bool) (p : PReg)
  | vperm (d : VDst) (a b : VSrc) (e : BitVec 5) (p : PReg)
  | vpld (xa : XSrc)
  | vtrd (f : Fmt) (d : VDst) (t : Tile) (dir : Dir) (idx : BitVec 4) (g : BitVec 3) (p : PReg)
  | vtwr (f : Fmt) (t : Tile) (a : VSrc) (dir : Dir) (idx : BitVec 4) (g : BitVec 3) (p : PReg)
  | gshf (d : VDst) (a b : VSrc) (fill : Fill) (p : PReg) | gpsh (d : VDst) (a b : VSrc) (p : PReg)
  | gred (op : RedOp) (d : VDst) (a : VSrc) (rnd : Rnd) (sat : Bool) (p : PReg)
  | gbcst (d : VDst) (a : VSrc) (n : BitVec 4) (fill : Fill) (p : PReg)
  | gscan (op : RedOp) (ex : Bool) (d : VDst) (a : VSrc) (rnd : Rnd) (sat : Bool) (p : PReg)
  -- T slot
  | mma (fa fb : Fmt) (c : CReg) (a b : MReg) (rb : BitVec 2)
  | mmag (fa fb : Fmt) (c : CReg) (a : MReg) (x : XReg) (g : Fin 17) (rb : BitVec 2)
  | tzero (t : Tile) | ttrn (f : Fmt) (td ta : Tile) (dir : Dir) (rot : BitVec 4)
  | tdec (fa fb : Fmt) (md ma : MReg) | cbld (xa : XReg) | fmtw (xa : XReg) (e : BitVec 4) | shset (xa : XReg)
  | acfg (xa xb : XReg) | join (fa fb : Fmt) (xd xa xb xo : XReg) | jins (f : Fmt) (xd xa : XReg)
  | adrn (lay : Layout) (f : Fmt) (xd xa xb : XReg) | afold (c : CReg) (xa : XReg) | aspl (xd : XReg)
  | ard (s : ArdSel) (xd : XReg) | awr (s : AwrSel)
  | pred (f : Fmt) (xd xa : XReg) | pchk (f : Fmt) (xd xa xe : XReg)
  -- L and W slots
  | ldv (d : VDst) (xa : XSrc) (byp : Bool) (p : PReg)
  | ldm (t : Tile) (xa : XSrc) (dir : Dir) (idx : BitVec 4) (byp : Bool) (p : PReg)
  | ldg (d : VDst) (xa : XSrc) (vb : VSrc) (byp : Bool) (p : PReg)
  | ldmk (m : MReg) (xa xb : XSrc) (rb : BitVec 2) (byp : Bool)
  | ldx (d : VDst) (xa xb : XSrc) (byp : Bool) (p : PReg)
  | ldb (q3 : Bool) (xa : XSrc) (n : BitVec 4) (byp : Bool)
  | ldw (src dst : Fmt) (m : MReg) (xa xs : XSrc) (row : BitVec 4) (byp : Bool)
  | stv (va : VSrc) (xa : XSrc) (byp : Bool) (p : PReg)
  | stm (t : Tile) (xa : XSrc) (dir : Dir) (idx : BitVec 4) (byp : Bool) (p : PReg)
  | stg (vb : VSrc) (xa : XSrc) (vc : VSrc) (byp : Bool) (p : PReg)
  | stmk (m : MReg) (xa xc : XSrc) (rb : BitVec 2) (byp : Bool)
  | stx (vb : VSrc) (xa xc : XSrc) (byp : Bool) (p : PReg)
  -- C slot
  | dset (d : DReg) (n : BitVec 3) (sa : SReg)
  | cpy (d : DReg) (sa sb : SReg) (cls : BitVec 2) (bar : Option (BitVec 4))
  | cpyg (d : DReg) (sa : SReg) (mask : Mask) (cls : BitVec 2) (bar : Option (BitVec 4))
  | cpsh (d : DReg) (sa sb : SReg) (nb : Option SReg) (cls : BitVec 2) (bar : Option (BitVec 4))
  | cmc (d : DReg) (sa sb : SReg) (mask : Mask) (cls : BitVec 2) (bar : Option (BitVec 4))
  | cprf (d : DReg) (cls : BitVec 2) (bar : Option (BitVec 4))
  | cfls (d : DReg) (cls : BitVec 2) (bar : Option (BitVec 4))
  | cinv (d : DReg) (cls : BitVec 2) (bar : Option (BitVec 4))
  | cfil (d : DReg) (sa sb : SReg) (cls : BitVec 2) (bar : Option (BitVec 4))
  -- Y slot
  | wait (ts tj tc tt : BitVec 6) | waitr (c : Ctr) (sa : SReg)
  | bari (b : BitVec 4) (sa : SReg) | bara (b : BitVec 4) | barw (b : BitVec 4) | barx (b : BitVec 4)
  | syna (sc : Scope) (ch : BitVec 6) | synw (sc : Scope) (ch : BitVec 6)
  | sbc (sc : Scope) (ch : BitVec 6) (sa : SReg) | sbcRd (sc : Scope) (ch : BitVec 6) (sd : SReg)
  | sred (op : SredOp) (sc : Scope) (ch : BitVec 6) (sd sa : SReg)
  | fence (sc : Scope) | acq (sc : Scope) | rel (sc : Scope)
  | acqr (sd sa : SReg) | time (cyc : Bool) (sd : SReg)
  -- later rows of the table
  | bundleFetch (g : Nat) (p : PathSlot)
  | apertureLoadReturn (g id : Nat)
  | escapeWaitExpiry (pkt : Nat)
  | dieTemperatureWarning (region : Nat) (reading : BitVec 16)
  -- rows without an operand (they stand last: the compiler numbers constructors with fields first)
  | preemptSignalDelivery | packageTimeTick | priorityAgeing | stopCommand | immediateOff | clearStepRecord
  | stopGraceExpiry | controlCoreStopAck | mainPowerLoss | ret | bkpt | exit
  | gend | gsplit | yield | fencei | vpldSwap | aclr
  | budgetWindowRefill | errorLogClear
  deriving DecidableEq, Repr

/-- The slot a slot instruction stands in (02 R33); V0 and V1 share one instruction set but for the
cross-engine forms. Events stand in no slot. -/
inductive SlotKind where | s | x | v | t | l | w | c | y
  deriving DecidableEq, Repr

/-- A decoded bundle (02 R33–R36). -/
structure Bundle where
  delay : BitVec 6
  pop : BitVec 8
  s : Option Instr
  x : Option Instr
  v0 : Option Instr
  v1 : Option Instr
  t : Option Instr
  l : Option Instr
  w : Option Instr
  c : Option Instr
  y : Option Instr
  deriving DecidableEq, Repr

end Sys2Proof
end

