-- ==== Sys2Proof/Machine/State.lean ====
section
/-! DEFINITION. The state of the Kalton-9 module as plain data: every register, memory, queue, table and
pending action the manual names, and the state after reset (the module before its first start, 22 R440). -/

namespace Sys2Proof.Machine

/-- No meaning of this model ends in a fault: every instruction and step the manual describes either has its
effect, waits, takes the trap the manual names, or ends its context. The one constructor marks an internal
inconsistency that no definition of the model raises; raising it would be safe (the run stops). -/
inductive Fault where
  | never
  deriving DecidableEq, Repr

/-- Why there is no meaning. `notModelled` is raised by the dispatch for a constructor without a meaning; it is
safe, the run stops by name. -/
inductive Refusal where
  | notModelled (mnemonic : String)
  deriving DecidableEq, Repr

/-! Exposed-latency results (02 R55–R59, 21 R421). -/

/-- What one slot result writes. Lists pair an engine number with its part. -/
inductive Wr where
  | s (r : Nat) (v : DWord)
  | x (r : Nat) (es : List (Nat × Word))
  | v (r : Nat) (es : List (Nat × Half × BitVec 512))
  | p (r : Nat) (es : List (Nat × Half × Half))
  | line (t : Tile) (dir : Dir) (idx : Nat) (es : List (Nat × Half × BitVec 512))
  | group (t : Tile) (dir : Dir) (idx : Nat) (es : List (Nat × Nat × Nat × Half × BitVec 512)) -- width, group, mask, lanes
  | rows (m : Nat) (es : List (Nat × List (Nat × BitVec 512)))
  | ep (es : List (Nat × Bool))
  | lc (k : Nat) (v : Word)
  | shape (es : List (Nat × Word))
  | patLoad (es : List (Nat × BitVec 4096 × BitVec 4096)) -- bits written, value
  | patSwap (es : List Nat)
  | qpush (k : Nat) (es : List (Nat × List Word))
  | lnk (v : VAddr)
  | abase (v : VAddr)
  | spad (es : List (Nat × List (Nat × Word)))
  deriving DecidableEq, Repr

/-- A result in flight: it lands in gang cycle `land`. The list that holds it is in issue order, so that of
two results landing together the later one wins (R59). -/
structure Flight where
  land : Nat
  path : PathSlot
  w : Wr
  txn : Option Nat       -- an aperture load's: the transaction that brings its data
  t0 : Nat               -- gang cycle of its issue
  deriving DecidableEq, Repr

/-- A scratchpad word that a store has replaced (10 R233, R243): engine, address, what it held, what it was given, the paths that
have the store behind them in program order (both, where a GIF divided the path since), and the paths whose copies may still read
the word as it was: no release orders the store before them. -/
structure OldWord where
  eng : Nat
  addr : Nat
  old : Word
  new : Word
  owners : List PathSlot
  seen : List PathSlot
  deriving DecidableEq, Repr

/-- Where an interlocked value comes from (02 R58). -/
inductive IlkSrc where
  | at (cycle : Nat) (v : DWord)   -- written in a known gang cycle
  | mem (txn : Nat)                -- when the home responds
  | sred (ch num : Nat)             -- when the result of the round of that number takes effect
  | sbc (ch : Nat)                 -- when the latch is fresh
  deriving DecidableEq, Repr

structure Ilk where
  id : Nat
  path : PathSlot
  both : Bool           -- issued before a GIF divided its path: both paths' (10 R232)
  ended : Bool          -- its path has ended: no path's, until the merge at its pair entry (10 R237)
  order : Nat          -- its bundle's issue cycle, path and slot: of two that land together the later one stands (R59)
  reg : Nat
  src : IlkSrc
  deriving DecidableEq, Repr

/-! Memory transactions of a gang (08 R195, 11 R255, R263–R265, R286). -/

/-- The operation of an access at its home (10 R241): read, write, or read and write in one step. -/
inductive AccOp where
  | read | write (v : BitVec 512)
  | amo (op : AmoOp) (b : DWord) | cas (b c : DWord) | acqr
  deriving DecidableEq, Repr

/-- One access to device memory, translated at issue. -/
structure Acc where
  va : Nat
  pa : Nat
  len : Nat
  key : Nat
  cls : Nat
  byp : Bool
  op : AccOp
  rdTick : Nat          -- tick in which its translation was read (19 R394, R395)
  tag : Option Nat      -- team of the path's narrow-release tag (10 R244)
  eng : Nat
  lane : Nat
  done : Bool
  got : BitVec 512
  bad : Bool            -- met poison or an unpopulated address
  deriving DecidableEq, Repr

inductive TxnKind where
  | lds (reg size : Nat) (va : Nat)
  | sts
  | rmw (reg size : Nat)
  | acqr (reg : Nat)
  | apLoad (dst : VDst) (t bank : Nat)   -- issue cycle and bank stall (11 R254)
  | apStore
  | enq (die bank : Nat)
  | recd (die bank tag : Nat)
  deriving DecidableEq, Repr

structure Txn where
  id : Nat
  path : PathSlot
  kind : TxnKind
  accs : List Acc
  due : Option Nat      -- aperture load: the gang cycle its last data returns
  after : Nat           -- reads with a smaller id return first (10 R238)
  prior : List Nat      -- transactions before it in program order (10 R232)
  since : Nat           -- the gang's transactions with a smaller id were issued before its bundle (08 R194)
  t0 : Nat              -- gang cycle of its issue
  opc : BitVec 8        -- opcode and slot of its instruction (21 R419)
  slot : BitVec 4
  deriving DecidableEq, Repr

/-! T instructions (06 R145–R148). -/

/-- A finite binary number, an infinity or a NaN: the exact values of 04. -/
inductive FVal where
  | nan
  | inf (neg : Bool)
  | fin (neg : Bool) (m : Nat) (e : Int)
  deriving DecidableEq, Repr

/-- A placement sent to its table bank (07 R175–R178): relative key, product number, exact value, and the first gang
cycle in which the bank may serve it. -/
structure Pend where
  key : Word
  num : Nat
  v : FVal
  ready : Nat
  deriving DecidableEq, Repr

/-- A JOIN, JINS or ASPL in progress (06 R164–R166, 07 R181). -/
structure JoinRun where
  a : Nat               -- cursor of A (JINS: of the stream)
  b : Nat
  ga : Nat              -- group extents, 0 outside a group
  gb : Nat
  next : Nat            -- next product or tuple to form; ASPL: entries already taken
  total : Nat           -- ASPL: entries to process
  pend : List Pend
  refused : Option Nat
  finished : Bool
  code : Nat
  ready : Nat           -- gang cycle from which the join unit moves on (R176)
  last : Nat            -- gang cycle of the last placement, or of the finish
  banks : List Nat      -- table banks that have served a placement in this gang cycle
  spilt : Bool          -- the ring has been written in this gang cycle
  single : Bool         -- products go one at a time (R178)
  sent : Option Nat     -- gang cycle in which the last product was sent
  resumed : Bool        -- saved placements are placed before anything is formed (R181)
  deriving DecidableEq, Repr

/-- What a T instruction writes in its engine at its completion. -/
inductive TWr where
  | x (r : Nat) (v : Word)
  | mrow (m row : Nat) (v : BitVec 512)
  | acc (entry : Nat) (v : Word)
  | cb (v : List Byte)
  | fmtt (e : Nat) (v : BitVec 256)
  | spad (a : Nat) (v : List Byte)
  | clearKeyed
  | config (xa xb : Word)
  | vacate (slots : List Nat)
  | slot (n : Nat) (key v : Word)
  | spill (key v : Word)
  | spillFull (b : Bool)
  | origin (v : Word)
  | sres (v : Word)
  | sover (b : Bool)
  | predMask (ne : Nat) (v : BitVec 4096)
  | shape (v : Word)
  deriving DecidableEq, Repr

/-- A PRED or PCHK in progress (07 R187): gang cycle of its begin, moved by its waits; PCHK's sb; the row it began at, with res
and nrep before it; the rows it evaluates, each with its gang cycle, its number, and res and nrep after it; and whether it stops at
poisoned data after them (21 R412). -/
structure SageRun where
  start : Nat
  sb : List Word
  init : Nat × Word × Nat
  rows : List (Nat × Nat × Word × Nat)
  bad : Bool
  deriving DecidableEq, Repr

/-- A T instruction in one engine: the values read at issue, and its progress. Engine 16 stands for an
instruction without an active engine (06 R145). -/
structure TOp where
  id : Nat
  eng : Nat
  ins : Instr
  path : PathSlot
  pc : VAddr
  t0 : Nat              -- gang cycle of the issue
  xa : Word
  xb : Word
  xc : Word
  rows : Nat
  cols : Nat
  k : Nat
  fa : Fmt              -- formats after selection through fmtt (04 R107)
  fb : Fmt
  ea : BitVec 256       -- selected fmtt entries
  eb : BitVec 256
  tbl : List (BitVec 64) -- group table or descriptor
  begun : Bool
  done : Option Nat
  out : Option (List TWr) -- results, once computed
  snapM : Sp (BitVec 512)  -- tile rows, scratchpad and accumulators as the issue left them (R147)
  snapSpad : List Host.Cell
  snapAcc : Sp Word
  join : Option JoinRun
  sage : Option SageRun
  pushes : List (Nat × Word) -- PRED, PCHK: indices to push, each with the gang cycle it is ready in
  pushAt : Nat               -- the first gang cycle in which the next push may be made (02 R52)
  hits : List (Nat × Nat × Nat) -- elements that VTWR and L-slot results have written since the issue (05 R135): row of
                                -- the m registers or 65536 + accumulator word, first bit, width
  deriving DecidableEq, Repr

/-! Engines (01 R20, 06 R149). -/

/-- A slot of the keyed table that is not empty (06 R163). -/
inductive KSlot where
  | occ (key v : Word) | vacated
  deriving DecidableEq, Repr

/-- The register state of one engine for the team that runs. -/
structure Engine where
  v : Sp (BitVec 512)
  x : Sp Word
  p : Sp Half
  m : Sp (BitVec 512)      -- key 16 r + row: a row of 64 bytes
  ep : Bool
  rows : Nat
  cols : Nat
  k : Nat
  row0 : Half
  col0 : Half
  cb : Sp Byte
  fmtt : Sp (BitVec 256)
  pat : Sp (BitVec 4096)   -- banks 0 and 1
  patBank : Bool
  q0 : List Word
  q1 : List Word
  q2 : List Word
  q3 : List Word
  cfgA : Word              -- xa and xb of the last ACFG
  cfgB : Word
  ringHead : Nat
  ringTail : Nat
  spillCount : Nat
  spillFull : Bool
  predMask : BitVec 4096
  sres : Word
  sover : Bool
  deriving DecidableEq, Repr

/-- What stays in an engine whatever team runs: scratchpad and accumulator file (21 R418), the keyed slots that
lie in the accumulator file, and the poison marks (08 R208). -/
structure EngineHw where
  spad : List Host.Cell
  acc : Sp Word
  slots : Sp KSlot         -- key 8192 · (admission slot) + table slot
  spadBad : List Nat       -- poisoned granules
  accBad : List Nat        -- poisoned 64-bit entries
  regBad : List RegName    -- registers whose parity fails
  deriving DecidableEq, Repr

/-! Paths and gangs (13). -/

inductive Entering where | none | uniform | diverged
  deriving DecidableEq, Repr

/-- Why a path did not issue when it last tried (02 R60, 15 R355): a counter that a WAIT or WAITR tests (that of the copies apart),
a barrier phase, a round of a channel, an interlocked Thyme result in a register, an empty queue, another condition of R60, a full
command queue, a not-present fault. -/
inductive Hold where
  | none | wait | copy | barrier | synw (ch : Nat) | thyme (reg : Nat) | queue | other | full | fault
  deriving DecidableEq, Repr

structure Path where
  live : Bool
  pc : VAddr
  lnk : VAddr
  mask : Mask
  entering : Entering
  elig : Nat               -- first gang cycle its next bundle may issue, the delay apart
  onspare : Bool
  parked : Bool            -- arrived at a pair entry
  resolveAt : Option Nat   -- issue cycle of the bundle that emptied the mask (R305)
  tag : Bool               -- narrow-release tag (10 R244)
  acqId : Nat              -- reads with a smaller id return before later accesses (10 R238)
  own : List Nat           -- transactions before the path's next access in program order (10 R232)
  eligPhases : Option (Sp Nat) -- barrier phases open when its next bundle became eligible (11 R281)
  barPhase : Sp Nat        -- phase recorded per barrier (11 R281)
  barOpen : Option (Nat × Nat) -- barrier and phase a waiting BARW or BARX waits for
  barResume : Option Nat   -- main cycle in which it resumes
  barx : Bool              -- the waiting bundle's BARX has arrived
  trapped : Bool
  hold : Hold
  refetch : Bool           -- the next fetch follows a FENCEI
  waited : Bool            -- the delay of the next bundle has been counted already (21 R420)
  deriving DecidableEq, Repr

/-- A DSET not yet in effect for every path (11 R268). -/
structure DsetPend where
  path : PathSlot
  d : Nat
  n : Nat
  v : Word
  t : Nat
  left : Nat
  deriving DecidableEq, Repr

/-- A trap that waits for its entry, or a deferred cause (21 R411, R412, R419). -/
structure Cause where
  cause : BitVec 8
  va : VAddr
  pc : VAddr
  emask : Mask
  code : BitVec 16
  opc : BitVec 8
  slot : BitVec 4
  deferred : Bool
  path : PathSlot
  src : Option Nat := none -- the T instruction that met it
  deriving DecidableEq, Repr

/-- A line of a sequencer's L1 (08 R195): line number, way, 64 bytes. -/
structure L1Line where
  line : Nat
  way : Nat
  data : BitVec 512
  deriving DecidableEq, Repr

/-- A Thyme result held for a gang: a round's, with its reduced value if it carried one, or a broadcast. -/
inductive Held where
  | round (ch num : Nat) (v : Option Word)
  | sbc (ch : Nat) (v : DWord)
  deriving DecidableEq, Repr

/-- Why a gang saves itself (21 R418). -/
inductive Reason where | switch | preempt | trap | halt | partner
  deriving DecidableEq, Repr

/-- What a path that has ended leaves to the merge at its pair entry, the entry at this place from the bottom of the stack: its
transactions, its acquires and its interlocked results precede what the merged path does (10 R232, R237, R238). -/
structure Ended where
  place : Nat
  own : List Nat
  acqId : Nat
  ilks : List Nat
  deriving DecidableEq, Repr

/-- Run state of a gang: no team runs; it runs; it has stopped and drains before it saves (21 R413, R309);
it is halted (R425); its last path has ended (14 R325). -/
inductive GangRun where
  | idle | run | stopped (r : Reason) | halted | finishing
  deriving DecidableEq, Repr

structure Gang where
  -- hardware that no team owns
  hw : Sp EngineHw
  l1 : List L1Line
  frozen : Nat             -- main cycles of freeze left (08 R209)
  freezes : Nat            -- freezes detected meanwhile
  gc : Nat                 -- gang cycles
  run : GangRun
  team : Option Nat
  stopReq : Option Reason  -- a stop at the next boundary
  stopAt : Nat             -- gang cycle from which nothing issues
  stepLeft : Option (List PathSlot) -- a step command: the paths that still issue their one bundle (21 R425)
  spare : Bool             -- holds the spare sequencer
  spareReq : Bool          -- a request is recorded
  spareAskAt : Nat         -- main cycle of the request
  spareLost : Nat          -- main cycle in which a spare it released last became free (R306)
  spareFreeAt : Option Nat -- gang cycle in which a released spare becomes free
  handoverEnd : Option Nat
  preempted : Bool         -- bit 8 of the reason word: a pre-emption arrived during a trap; of a gang that halts, before it stood
  incoming : Option Nat    -- the parked team a switch has chosen for this gang (15 R355)
  -- context of the running team
  a : Path
  b : Path
  turn : PathSlot          -- slot with first choice (R296)
  lastIssue : Nat          -- gang cycle after the last issue, or the first one since start or resume (15 R355)
  idleCount : Nat          -- issue-free gang cycles that count for the watchdog (21 R416)
  s : Sp DWord
  lc : Sp Word
  abase : VAddr
  d : Sp (BitVec 256)
  dsets : List DsetPend
  ntile : Nat
  njoin : Nat
  npred : Nat
  ncopy : Nat
  nstore : Nat
  q4 : List Word
  q5 : List Word
  q6 : List Word
  q7 : List Word
  stack : List (BitVec 256) -- on-chip entries, top first (R303)
  spilled : Nat
  ended : List Ended       -- paths ended at pair entries still open
  stkb : Nat
  retired : Mask
  latch : Sp DWord
  fresh : BitVec 64
  div : Nat                -- gang cycle in which the divider is free
  divSpare : Nat
  netAt : Nat              -- 1 + the gang cycle the cross-engine network was last used in (05 R136)
  flight : List Flight
  oldWords : List OldWord  -- words of the scratchpads that a copy may still read as they were (10 R233, R243)
  relGc : Nat × Nat        -- gang cycle of the last release of slot A and of slot B that orders its stores before copies
  gifGc : Nat              -- 1 + the gang cycle of the last GIF that divided a path: stores issued before it are both paths'
  ilks : List Ilk
  txns : List Txn
  tops : List TOp
  copySeq : Nat            -- copy commands issued
  cpySeq : Nat             -- CPYs issued (11 R273)
  cause : Option Cause
  defCause : Option Cause
  exitPc : VAddr           -- address of the EXIT that ended the last path (R412)
  exitPath : PathSlot
  wrote : List (Nat × Nat) -- interlocked results written in this gang cycle: register and order (02 R59)
  popped : List (Nat × Nat) -- queues popped in this gang cycle, each with its engine (16: the gang's own) (02 R52)
  heldThyme : List Held     -- Thyme results held by a freeze or while stopped (09 R210, R228)
  nextId : Nat
  eng : Sp Engine
  deriving DecidableEq, Repr

/-- Instruction cache of a gang pair (08 R197) and its spare sequencer (13 R306). -/
structure Pair where
  icache : Sp (BitVec 512)  -- 64-byte fetch units by physical address / 64
  refetch : Sp Bool         -- key 2 · unit + gang: to be fetched again by that gang (14 R337)
  spareBusy : Nat           -- main cycle from which the spare that a gang released before its team left is free (13 R308)
  deriving DecidableEq, Repr

/-! Copies (11 R266–R278). -/

inductive CopyOp where
  | cpy | cpyg | cpsh | cmc | cprf | cfls | cinv | cfil
  deriving DecidableEq, Repr

structure Copy where
  id : Nat
  gang : Nat
  path : PathSlot
  seq : Nat                -- issue number in its gang
  op : CopyOp
  desc : BitVec 256
  la : Word
  lb : Word
  pat : DWord
  mask : Mask
  n : Nat                  -- CPYG: rows per engine
  cls : Nat
  bar : Option Nat
  slice : Option Nat       -- CPY of a two-gang team: its number k
  started : Bool
  nextOff : Nat            -- offset of the first piece not complete
  ahead : List Nat         -- later pieces already complete
  held : Option Nat        -- offset of the piece a fault holds
  rows : Sp (List Word)    -- CPYG: entries taken, per engine
  dropped : List Nat       -- CPYG: engines from which it takes no further entry (14 R325)
  stop : Bool              -- stopped by an error
  finished : Bool
  begunAt : Nat            -- main cycle in which it started
  qbuf : List Word         -- words pushed in this cycle (02 R52)
  deriving DecidableEq, Repr

structure Barrier where
  target : Nat
  count : Nat
  phase : Nat
  due : Bool               -- the count has reached the target in this cycle
  ends : List (Nat × Nat)  -- phases completed of late, each with the main cycle of its last arrival
  deriving DecidableEq, Repr

inductive TeamRun where
  | admitted | starting | parked | running | trapped | finished
  deriving DecidableEq, Repr

structure Team where
  bits : BitVec 512        -- record image
  die : Nat
  bank : Nat
  recId : Nat
  ctx : Nat
  num : Nat
  nteam : Nat
  vdie : Nat
  gangs : List Nat
  slot : Nat
  spBase : Nat
  spLen : Nat
  accBase : Nat
  accSteps : Nat
  pdecl : Nat
  peff : Nat
  run : TeamRun
  since : Nat              -- tick in which it was parked
  readySince : Option Nat
  ranAt : Nat              -- tick in which it last started to run
  stopCyc : Nat            -- main cycle of the trap a partner stops after
  bars : Sp Barrier
  copies : List Copy
  saved : Sp Gang          -- parts of a parked gang's context the manual gives no layout for (21 R418)
  savedOk : List Nat       -- gangs saved or resumed
  done : List Nat          -- gangs finished
  startFault : Bool
  deriving DecidableEq, Repr

/-! Barista (15). -/

inductive RecState where | waiting | ready | running
  deriving DecidableEq, Repr

structure Rec where
  id : Nat
  bits : BitVec 512
  st : RecState
  acc : Nat                -- acceptance tick
  readySince : Nat
  eff : Nat
  tag : Nat                -- tag in this bank: 0 after a migration (R356)
  next : Nat               -- next team or tile step
  doneN : Nat              -- teams completed
  redo : List Nat          -- tile steps of discarded teams, to start again (15 R351)
  pins : List Nat          -- a pinned GRID: the gang each team's s0 word names (15 R340, R442)
  place : Nat              -- its place in the overflow ring (R348)
  deriving DecidableEq, Repr

/-- A record on its way into a bank: from an ENQ of a gang (transaction id) or a control core (15 R345, R348). -/
structure Arrival where
  bits : BitVec 512
  gang : Option (Nat × Nat)
  core : Option (Nat × Nat) -- control core that submitted it, and a number among its records on their way to the bank
  held : List Nat          -- addresses whose absent pages hold the pinned s0 words' read (R442)
  deriving DecidableEq, Repr

/-- A decrement on its way to a tag counter (15 R343): from a completed record, or from a REC of a gang's
transaction. -/
structure Dec where
  tag : Nat
  amount : Nat
  src : Nat                -- G-die it comes from
  gang : Option (Nat × Nat)
  after : Option Nat       -- a completed record: its teams' writes are performed first (17 R370)
  deriving DecidableEq, Repr

structure Bank where
  recs : List Rec
  ring : List Rec
  tags : Sp Int
  stage : Sp Byte          -- key 64 · core + byte
  arr : List Arrival
  decs : List Dec
  deriving DecidableEq, Repr

/-- A fault that waits without an entry (19 R398), and the team it holds. -/
structure FaultWait where
  img : BitVec 256
  team : Nat
  deriving DecidableEq, Repr

structure GDie where
  enabled : Nat
  lone : List Nat          -- enabled gangs without a partner, in logical order (22 R429, R432)
  bad : List Nat           -- physical pairs out of service
  banks : Sp Bank
  lastSel : Nat
  waits : List FaultWait
  owners : Sp Nat          -- the team that each entry of the fault buffer holds
  deriving DecidableEq, Repr

/-! Shared level (08 R198–R203, 10 R242–R245). Keys: 32 · (physical address / 32) + slice. -/

structure SlSector where
  line : Bool              -- dirty
  key : Nat
  data : BitVec 256
  poison : Bool
  cls : Nat                -- cacheability class of the access that brought it (R194)
  deriving DecidableEq, Repr

/-- A team-private version of a sector: key as above plus the team. -/
structure Priv where
  sector : Nat
  slice : Nat
  team : Nat
  key : Nat
  data : BitVec 256
  cls : Nat
  byp : Bool               -- its copies carry the bypass hint (08 R204)
  poison : Bool
  cmds : List Nat          -- copy commands whose pieces it holds (10 R243)
  deriving DecidableEq, Repr

/-- A narrow-release record, oldest first. -/
structure NTag where
  slice : Nat
  sector : Nat
  team : Nat
  deriving DecidableEq, Repr

/-- A cached page table entry of an agent (19 R394). -/
structure TlbEnt where
  agent : Nat
  pa : Nat
  ent : DWord
  tick : Nat
  deriving DecidableEq, Repr

structure Unmap where
  ctx : Nat
  start : Nat
  page : Nat
  npg : Nat
  next : List DWord        -- commands that wait until this one completes
  deriving DecidableEq, Repr

/-! Thyme (09). -/

/-- An arrival: its path, none once that path has ended or merged into the other one (R215). -/
structure Arrive where
  team : Nat
  gang : Nat
  path : Option PathSlot
  val : Option (SredOp × Word)
  deriving DecidableEq, Repr

/-- A round: open while `due` is none; otherwise complete and its result takes effect in tick `due`. -/
structure Round where
  ctx : Nat
  ch : Nat
  vd : Nat
  arrs : List Arrive
  joined : List (Nat × Nat) -- members, (team, gang), whose arrival has counted (R215)
  members : List (Nat × Nat) -- members awaited when it completed
  due : Option Nat
  num : Nat
  deriving DecidableEq, Repr

structure Sbc where
  ctx : Nat
  ch : Nat
  vd : Nat
  v : DWord
  key : Nat                -- order of delivery: 2^20 · (first tick due) + source (R220)
  due : Nat
  deriving DecidableEq, Repr

structure Signal where
  teams : List Nat
  due : Nat
  deriving DecidableEq, Repr

/-- A packet in the fabric (15 R358): its network, request or response; where it stands and where it goes, as sites of the grid; of
a request that a response follows under its number, the site that awaits the response; the cycles it has been blocked on adaptive
channels; whether it is on the escape channels; its class and the main cycle it was sent in (R359). -/
structure Pkt where
  id : Nat
  resp : Bool
  site : Nat
  dst : Nat
  back : Option Nat
  waited : Nat
  escape : Bool
  cls : Nat
  born : Nat
  deriving DecidableEq, Repr

/-- Errors counted against a unit (22 R427, R428): ticks of correctable errors, newest first; lasting mark; of a memory unit the
frames in which errors were found since its last retirement (R429). -/
structure UnitErr where
  ticks : List Nat
  lasting : Bool
  frames : List Nat
  deriving DecidableEq, Repr

inductive Irq where
  | reject (ctx : Nat) | ctxEnd (ctx : Nat) | fault (die : Nat) | trap (die gang : Nat) | errlog | stop | power
  deriving DecidableEq, Repr

/-- The management controller (22 R436–R441). -/
structure Mgmt where
  side : Nat               -- 0 off, 1 starting, 2 running, 3 stopping, 4 stopped at a failed step
  step : Nat
  start : Nat
  record : Nat             -- failed step, 0 if none
  altRun : Bool            -- the attempt runs the record's alternative
  retry : Bool             -- the next attempt begins by itself
  diag : Bool              -- steps 4 to 9 for diagnosis only (step 3's alternative)
  image : DWord
  pending : Option DWord
  imageOk : Bool
  power : Bool             -- main supply present
  grace : Nat              -- tick at which the grace time ends
  restart : Option StartOutcome -- a restart stops first; how its attempt will go
  absentNear : List Nat    -- S-dies whose near DRAM is unpopulated
  deadLinks : List Nat
  halfRate : List Nat
  retiredCores : List Nat  -- control cores not started (22 R429)
  retiredNodes : List Nat  -- Thyme nodes taken out of service: G-die 0-19, or 32 + S-die (22 R429)
  coresEdies : Nat         -- E-dies whose control cores run, as a bit set
  temps : Sp Nat           -- last reading of each die, by region (22 R440)
  lastEvents : List (BitVec 16) -- Redfish events raised: kinds
  deriving DecidableEq, Repr

/-- What a frame of remote-window traffic carries: a piece of a copy command, or what the remote home answers it with. -/
inductive FrameKind where
  | piece (op : PieceOp) | done | refused | failed
  deriving DecidableEq, Repr
/-- A frame of remote-window traffic sent through the scale-out ports (01 R30; 19 R402): target module, the incoming window of
the piece, the sender, and the piece or the answer to it. -/
structure Frame where
  module : Nat
  iwin : Nat
  src : Nat
  kind : FrameKind
  off : Nat
  len : Nat
  data : List Byte
  deriving DecidableEq, Repr

/-- An AMO or CAS of a gang that has finished, still on its way to its home: a finish does not wait for it (14 R325). It keeps
the number and the order of its transaction. -/
structure LeftAcc where
  ctx : Nat
  team : Nat
  recId : Nat
  gang : Nat
  id : Nat
  after : Nat
  prior : List Nat
  since : Nat
  acc : Acc
  deriving DecidableEq, Repr

/-- A write or a read of a spilled stack entry that the fabric carries (13 R304; 15 R359, class 3): its gang, the address of its
slot, and whether it is a readback. The stack itself has changed already: the transfer takes no issue cycle. -/
structure Flow where
  id : Nat
  gang : Nat
  pa : Nat
  back : Bool
  deriving DecidableEq, Repr

/-- The issue in progress (02 R48, R60): what every slot of one bundle reads. -/
structure Cur where
  gang : Nat
  path : PathSlot
  pc : VAddr
  len : Nat
  slot : Nat
  mask : Mask
  entering : Entering
  stall : Nat              -- the bundle's bank-conflict stall (02 R57)
  go : Bool                -- every slot of the bundle may issue: the checks are over and the slots take effect
  base : Option Nat        -- in a path's chance: where the free values begin that its checks and its effects share
  deriving DecidableEq, Repr

structure State where
  tick : Nat
  sub : Nat                -- place of the main cycle within its tick
  roff : Sp DWord          -- region offsets: P - cyc (09 R223)
  mem : List Host.Cell
  memBad : List Nat        -- poisoned sectors
  sl : Sp SlSector
  repl : List (Nat × Nat)  -- replicas: line, slice
  replBad : List (Nat × Nat) -- poisoned sectors of replicas: sector, slice (08 R208)
  readers : List (Nat × Nat) -- lines and the G-dies that have read them (08 R202)
  frames : List Frame      -- frames sent to other modules, oldest first
  left : List LeftAcc      -- oldest first
  priv : List Priv
  ntag : List NTag
  dev : Sp DWord           -- device windows by (address - 0xF000_0000_0000) / 8
  keys : Sp (BitVec 256)   -- key 64 · S-die + slot
  badWays : List (Nat × Nat × Nat)
  tlb : List TlbEnt
  unmaps : List Unmap
  pkts : List Pkt
  budget : Sp Nat          -- flits spent in this window, key 4 · port + class: slices 0–19, near DRAM 20–39, far 40–43 (15 R359)
  flows : List Flow        -- transfers of spilled stack entries, oldest first (13 R304)
  turns : Sp Nat           -- by port: the class it served last (15 R359)
  units : Sp UnitErr       -- key 2^24 · region + 2^16 · uclass + uidx
  irqs : List Irq
  inputs : List Instr
  free : Nat
  signals : List Signal
  sbcs : List Sbc
  rounds : List Round
  teams : Sp Team
  nextTeam : Nat
  gangs : Sp Gang
  pairs : Sp Pair
  dies : Sp GDie
  mgmt : Mgmt
  cur : Cur
  served : Bool            -- this cycle's choice of asynchronous events is over
  tried : List (Nat × PathSlot) -- paths that had their chance in this cycle
  deriving DecidableEq, Repr

/-! Values at team start (06 R149, 13 R294). -/

def Path.free : Path :=
  { live := false, pc := 0, lnk := 0, mask := 0, entering := .none, elig := 0, onspare := false, parked := false,
    resolveAt := none, tag := false, acqId := 0, own := [], eligPhases := none, barPhase := [], barOpen := none, barResume := none, barx := false,
    trapped := false, hold := .none, refetch := false, waited := false }

def Engine.start : Engine :=
  { v := [], x := [], p := [], m := [], ep := true, rows := 64, cols := 255, k := 255, row0 := 0, col0 := 0,
    cb := [], fmtt := [], pat := [], patBank := false, q0 := [], q1 := [], q2 := [], q3 := [], cfgA := 0, cfgB := 0,
    ringHead := 0, ringTail := 0, spillCount := 0, spillFull := false, predMask := 0, sres := 0, sover := false }

def EngineHw.clear : EngineHw :=
  { spad := [], acc := [], slots := [], spadBad := [], accBad := [], regBad := [] }

def Gang.start : Gang :=
  { hw := [], l1 := [], frozen := 0, freezes := 0, gc := 0, run := .idle, team := none, stopReq := none, stopAt := 0,
    stepLeft := none, spare := false, spareReq := false, spareAskAt := 0, spareLost := 0, spareFreeAt := none,
    handoverEnd := none, preempted := false, incoming := none, a := Path.free, b := Path.free, turn := .A, lastIssue := 0, idleCount := 0, s := [],
    lc := [], abase := 0, d := [], dsets := [], ntile := 0, njoin := 0, npred := 0, ncopy := 0, nstore := 0,
    q4 := [], q5 := [], q6 := [], q7 := [], stack := [], spilled := 0, ended := [], stkb := 0, retired := 0, latch := [],
    fresh := 0, div := 0, divSpare := 0, netAt := 0, flight := [], oldWords := [], relGc := (0, 0), gifGc := 0, ilks := [], txns := [], tops := [], copySeq := 0, cpySeq := 0,
    cause := none, defCause := none, exitPc := 0, exitPath := .A, wrote := [], popped := [], heldThyme := [], nextId := 0, eng := [] }

def Pair.clear : Pair := { icache := [], refetch := [], spareBusy := 0 }

def Bank.clear : Bank := { recs := [], ring := [], tags := [], stage := [], arr := [], decs := [] }

/-- DESIGN CHOICE (log entry 89): which physical gangs of a die test good is not given; all 480 pairs do, so those beyond the
grade's count are spares (01 R14). -/
def GDie.clear : GDie := { enabled := Config.gradeGangs, lone := [], bad := [], banks := [], lastSel := 0, waits := [], owners := [] }

def Barrier.clear : Barrier := { target := 0, count := 0, phase := 0, due := false, ends := [] }

def UnitErr.clear : UnitErr := { ticks := [], lasting := false, frames := [] }

def Mgmt.off : Mgmt :=
  { side := 0, step := 0, start := 0, record := 0, altRun := false, retry := false, diag := false, image := 0,
    pending := none, imageOk := true, power := true, grace := 0, restart := none, absentNear := [], deadLinks := [],
    halfRate := [], retiredCores := [], retiredNodes := [], coresEdies := 0, temps := [], lastEvents := [] }

/-- The module before its first start: the main side is off, no context is active, no team admitted (22 R440
state 0; log entries 1, 3). The device windows read 0, but for the stated defaults: stop grace time 10 s and
power warning threshold 4,200 (R440). -/
def State.reset : State :=
  { tick := 0, sub := 0, roff := [], mem := [], memBad := [], sl := [], repl := [], replBad := [], readers := [], frames := [], left := [], priv := [], ntag := [],
    dev := [(0x0A000003, 10), (0x0A000004, 4200)],
    keys := [], badWays := [], tlb := [], unmaps := [], pkts := [], budget := [], flows := [], turns := [], units := [], irqs := [],
    inputs := [], free := 0, signals := [], sbcs := [], rounds := [], teams := [], nextTeam := 0, gangs := [],
    pairs := [], dies := [], mgmt := Mgmt.off,
    cur := { gang := 0, path := .A, pc := 0, len := 0, slot := 0, mask := 0, entering := .none, stall := 0, go := false, base := none },
    served := false, tried := [] }

end Sys2Proof.Machine
end

