-- ==== Sys2Proof/Machine/Sparse.lean ====
section
/-! DEFINITION. Sparse maps in their one canonical form: keys strictly rising, no entry equal to the default.
Memory (00 R4), scratchpads and register files are kept in it. -/

namespace Sys2Proof.Machine

/-- The value listed at a key, if any. -/
def spFind {α : Type} (m : Sp α) (k : Nat) : Option α := m.lookup k

/-- What a key reads as, unlisted keys reading as the default. -/
def spGet {α : Type} (d : α) (m : Sp α) (k : Nat) : α := (spFind m k).getD d

/-- List a value at a key. -/
def spPut {α : Type} : Sp α → Nat → α → Sp α
  | [], k, v => [(k, v)]
  | (j, w) :: r, k, v =>
    if k < j then (k, v) :: (j, w) :: r else if k = j then (k, v) :: r else (j, w) :: spPut r k v

/-- Remove a key. -/
def spDel {α : Type} (m : Sp α) (k : Nat) : Sp α := m.filter (fun c => c.1 != k)

/-- Write a value: a value equal to the default is not listed. -/
def spSet {α : Type} [DecidableEq α] (d : α) (m : Sp α) (k : Nat) (v : α) : Sp α :=
  if v = d then spDel m k else spPut m k v

/-- Remove all keys of a range. -/
def spClear {α : Type} (m : Sp α) (base len : Nat) : Sp α :=
  m.filter (fun c => decide (c.1 < base) || decide (base + len ≤ c.1))

/-- Write a list of values at rising keys from a base. -/
def spSetList {α : Type} [DecidableEq α] (d : α) (m : Sp α) (base : Nat) : List α → Sp α
  | [] => m
  | v :: vs => spSetList d (spSet d m base v) (base + 1) vs

/-- The values of a range of keys. -/
def spRead {α : Type} (d : α) (m : Sp α) (base len : Nat) : List α :=
  (List.range len).map (fun i => spGet d m (base + i))

/-- Every key lies below every key of the rest, and no entry is the default. -/
def spWf {α : Type} [DecidableEq α] (d : α) : Sp α → Bool
  | [] => true
  | (j, w) :: r => decide (w ≠ d) && r.all (fun c => decide (j < c.1)) && spWf d r

/-- Keys strictly rising. -/
def spSorted {α : Type} : Sp α → Bool
  | [] => true
  | (j, _) :: r => r.all (fun c => decide (j < c.1)) && spSorted r

end Sys2Proof.Machine
end

