-- ==== Sys2Proof/WellFormed.lean ====
section
/-! DEFINITION. The static conditions an instruction meets whatever encoding it comes from: format
combinations, register conditions and fields that a form leaves at 0 (02 R44–R47, R62; 04 R110; 05
R121–R137; 06 R143; 11 R256–R262). -/

namespace Sys2Proof

/-- Element width in bits of a format, LQ2 counted by its 16-bit index (04 R86, 05 R134). -/
def Fmt.width : Fmt → Nat
  | .f32 | .i32 => 32
  | .bf16 | .f16 | .lq2 => 16
  | .e4m3 | .e5m2 | .i8 | .e8m0 => 8
  | .h4 => 4
  | .tab => 32

/-- Groups of 16 elements in a 64-byte tile row (05 R134). -/
def Fmt.groups (f : Fmt) : Nat := 32 / f.width

/-- The k of an implemented MAC-array combination, or none (04 R110). -/
def macK : Fmt → Fmt → Option Nat
  | .bf16, .bf16 => some 32
  | .f16, .f16 => some 32
  | .e4m3, .e4m3 => some 64
  | .e4m3, .e5m2 => some 64
  | .e5m2, .e4m3 => some 64
  | .e5m2, .e5m2 => some 64
  | .e4m3, .lq2 => some 64
  | .e5m2, .lq2 => some 64
  | .h4, .h4 => some 128
  | _, _ => none

/-- A pair that decodes without trap 0x02: a combination of R110, or one that the format table decides. -/
def macOk (fa fb : Fmt) : Bool := fa == .tab || fb == .tab || (macK fa fb).isSome

/-- Value formats of JOIN and JINS (06 R164). -/
def Fmt.joinOk : Fmt → Bool
  | .f32 | .bf16 | .f16 | .e4m3 | .e5m2 | .tab => true
  | _ => false
/-- Output formats of ADRN (06 R167). -/
def Fmt.drainOk : Fmt → Bool
  | .f32 | .bf16 | .f16 | .tab => true
  | _ => false
/-- Activation formats of PRED and PCHK (06 R170). -/
def Fmt.sageOk : Fmt → Bool
  | .f32 | .bf16 | .tab => true
  | _ => false
/-- Formats VCVT accepts as destination (05 R129). -/
def Fmt.cvtDstOk (f : Fmt) : Bool := f != .lq2
/-- Formats VCVT accepts as source (05 R129). -/
def Fmt.cvtSrcOk (f : Fmt) : Bool := f != .lq2 && f != .tab
def Fmt.qntOk (f : Fmt) : Bool := f != .lq2 && f != .e8m0
/-- LDW sources and destinations (11 R262). -/
def Fmt.ldwSrcOk : Fmt → Bool
  | .f32 | .bf16 | .f16 | .e4m3 | .e5m2 | .h4 | .lq2 | .tab => true
  | _ => false
def Fmt.ldwDstOk : Fmt → Bool
  | .bf16 | .f16 | .e4m3 | .e5m2 | .h4 => true
  | _ => false

def Tile.isC : Tile → Bool
  | .c _ => true
  | .m _ => false

/-- The tile and format of VTRD, VTWR and TTRN: an accumulator tile holds 32-bit elements (05 R135, 06 R156). -/
def tileFmtOk (t : Tile) (f : Fmt) : Bool := f == .tab || !t.isC || f.width == 32
def groupOk (f : Fmt) (g : BitVec 3) : Bool := f == .tab || g.toNat < f.groups

/-- rnd and sat of a reduction: rnd for add only, sat for add and iadd (05 R132, R137). -/
def redModOk (op : RedOp) (rnd : Rnd) (sat : Bool) : Bool :=
  (op == .add || rnd == .rne) && (op == .add || op == .iadd || !sat)

/-- An X-space source is not special 41, lane (05 R139, 14 R315). -/
def XSrc.ok : XSrc → Bool
  | .spec n => n != 1
  | _ => true
def XB.ok : XB → Bool
  | .src x => x.ok
  | .imm _ => true
def XMovSrc.ok : XMovSrc → Bool
  | .x a => a.ok
  | .s _ => true

def EpsetSrc.ok : EpsetSrc → Bool
  | .set (.queue _) | .and (.queue _) => false
  | _ => true

def Csr.writable : Csr → Bool
  | .lc _ | .lnk | .abase => true
  | _ => false

/-- The conditions an instruction of a slot meets; an event has none of its own. -/
def wf : Instr → Bool
  | .gif _ _ a b _ | .gany _ _ a b | .gall _ _ a b | .gcnt _ _ a b => a.ok && b.ok
  | .gmsk (.cond _ a b) _ => a.ok && b.ok
  | .goff (.cond _ a b) => a.ok && b.ok
  | .csrw c _ => c.writable
  | .xmov _ a => a.ok
  | .xadd _ a b | .xsub _ a b | .xmul _ a b | .xand _ a b | .xxor _ a b | .xshl _ a b | .xshr _ a b => a.ok && b.ok
  | .xpopc _ a | .xldc _ _ a => a.ok
  | .xpfx _ a b => a.ok && b.ok
  | .xsel _ a b c => a.ok && b.ok && c.ok
  | .xadv _ _ a b => a.ok && b.ok
  | .xhash lg _ a => a.ok && (lg == 0 || (4 ≤ lg.toNat && lg.toNat ≤ 12))
  | .epset s => s.ok
  | .vcvt d s _ _ _ _ _ => d.cvtDstOk && s.cvtSrcOk
  | .vqnt d _ _ _ _ _ _ => d.qntOk
  | .vdqn f _ _ _ _ _ _ => f.cvtDstOk
  | .vred op _ _ rnd sat _ | .gred op _ _ rnd sat _ | .gscan op _ _ _ rnd sat _ => redModOk op rnd sat
  | .vpld a => a.ok
  | .vtrd f _ t _ _ g _ => tileFmtOk t f && groupOk f g
  | .vtwr f t _ _ _ g _ => tileFmtOk t f && groupOk f g
  | .mma fa fb _ _ _ _ | .mmag fa fb _ _ _ _ _ => macOk fa fb
  | .ttrn f td ta dir rot => tileFmtOk td f && tileFmtOk ta f && (dir == .diag || rot == 0)
  | .tdec fa fb _ _ => (fa == .lq2 || fa == .tab) && (fb == .e4m3 || fb == .tab)
  | .join fa fb xd xa xb xo =>
      fa.joinOk && fb.joinOk && xd != xa && xd != xb && xd != xo && xa != xb && xa != xo && xb != xo
  | .jins f _ _ => f.joinOk
  | .adrn lay f _ _ xb => f.drainOk && (lay != .tup || xb == 0)
  | .pred f _ _ => f.sageOk
  | .pchk f xd _ xe => f.sageOk && xd != xe
  | .ldv _ a _ _ | .ldm _ a _ _ _ _ | .ldg _ a _ _ _ => a.ok
  | .ldmk _ a b _ _ | .ldx _ a b _ _ => a.ok && b.ok
  | .ldb _ a _ _ => a.ok && (match a with | .queue _ => false | _ => true)
  | .ldw s d _ a xs _ _ => s.ldwSrcOk && d.ldwDstOk && a.ok && xs.ok
  | .stv _ a _ _ | .stm _ a _ _ _ _ | .stg _ a _ _ _ => a.ok
  | .stmk _ a c _ _ | .stx _ a c _ _ => a.ok && c.ok
  | _ => true

end Sys2Proof
end

