-- ==== Sys2Proof/Machine/Float.lean ====
section
/-! DEFINITION. Number formats, exact values, rounding and conversion, and the sums of tensor instructions (04).
An exact finite value is (−1)^neg · m · 2^e. -/

namespace Sys2Proof.Machine

/-- A binary floating-point format (R87): exponent bits, fraction bits, bias, and whether it has infinities. -/
structure FParam where
  ebits : Nat
  mbits : Nat
  bias : Nat
  hasInf : Bool
  deriving DecidableEq, Repr

def fparam : Fmt → FParam
  | .bf16 => ⟨8, 7, 127, true⟩
  | .f16 => ⟨5, 10, 15, true⟩
  | .e4m3 => ⟨4, 3, 7, false⟩
  | .e5m2 => ⟨5, 2, 15, true⟩
  | _ => ⟨8, 23, 127, true⟩

/-- Bits of the largest finite magnitude (R87, R88). -/
def FParam.maxBits (p : FParam) : Nat :=
  if p.hasInf then (2 ^ p.ebits - 1) * 2 ^ p.mbits - 1 else 2 ^ (p.ebits + p.mbits) - 2

/-- The canonical NaN of a format (R89). -/
def FParam.nanBits (p : FParam) : Nat :=
  if p.hasInf then (2 ^ p.ebits - 1) * 2 ^ p.mbits + 2 ^ (p.mbits - 1) else 2 ^ (p.ebits + p.mbits) - 1

/-- The value of an encoding (R88). -/
def fpVal (p : FParam) (bits : Nat) : FVal :=
  let f := bits % 2 ^ p.mbits
  let e := bits / 2 ^ p.mbits % 2 ^ p.ebits
  let neg := bits / 2 ^ (p.mbits + p.ebits) % 2 = 1
  let qmin : Int := 1 - (p.bias : Int) - (p.mbits : Int)
  if e = 0 then .fin neg f qmin
  else if e = 2 ^ p.ebits - 1 ∧ p.hasInf then (if f = 0 then .inf neg else .nan)
  else if e = 2 ^ p.ebits - 1 ∧ f = 2 ^ p.mbits - 1 then .nan
  else .fin neg (2 ^ p.mbits + f) (qmin + (e : Int) - 1)

/-- An integer as an exact value. -/
def intVal (n : Int) : FVal := .fin (decide (n < 0)) n.natAbs 0

/-- The signed integer of the low w bits. -/
def sext (w bits : Nat) : Int :=
  let b := bits % 2 ^ w
  if b < 2 ^ (w - 1) then (b : Int) else (b : Int) - (2 ^ w : Nat)

/-- The value of an element of a format (R88, R90, R91, R95); LQ2 elements are decoded before (R93). -/
def fmtVal (f : Fmt) (bits : Nat) : FVal :=
  match f with
  | .i8 => intVal (sext 8 bits)
  | .i32 => intVal (sext 32 bits)
  | .h4 =>
    let n := sext 4 bits
    .fin (decide (n < 0)) (2 * n + 1).natAbs (-1)
  | .e8m0 => if bits % 256 = 255 then .nan else .fin false 1 ((bits % 256 : Nat) - 127 : Int)
  | .f32 | .bf16 | .f16 | .e4m3 | .e5m2 | .lq2 | .tab => fpVal (fparam f) bits

def f32v (w : Word) : FVal := fpVal (fparam .f32) w.toNat

def FVal.isNan : FVal → Bool | .nan => true | _ => false
def FVal.isInf : FVal → Bool | .inf _ => true | _ => false
def FVal.isZero : FVal → Bool | .fin _ m _ => m == 0 | _ => false
def FVal.sign : FVal → Bool | .nan => false | .inf n => n | .fin n _ _ => n
def FVal.abs : FVal → FVal | .nan => .nan | .inf _ => .inf false | .fin _ m e => .fin false m e
def FVal.neg : FVal → FVal | .nan => .nan | .inf n => .inf (!n) | .fin n m e => .fin (!n) m e

/-- The exact product; an infinity times a zero is NaN. -/
def FVal.mul : FVal → FVal → FVal
  | .nan, _ => .nan
  | _, .nan => .nan
  | .inf s, .inf t => .inf (s != t)
  | .inf s, .fin t m _ => if m = 0 then .nan else .inf (s != t)
  | .fin s m _, .inf t => if m = 0 then .nan else .inf (s != t)
  | .fin s m e, .fin t n f => .fin (s != t) (m * n) (e + f)

/-- The signed mantissa of a finite value over the exponent base e0 (e0 not above its own). -/
def FVal.over (e0 : Int) : FVal → Int
  | .fin s m e => let k : Int := (m * 2 ^ (e - e0).toNat : Nat); if s then -k else k
  | _ => 0

/-- The least exponent of a list of values. -/
def minExp : List FVal → Int
  | [] => 0
  | [.fin _ _ e] => e
  | .fin _ _ e :: r => min e (minExp r)
  | _ :: r => minExp r

/-- The exact sum of finite values; an exact zero is +0. -/
def dySum (vs : List FVal) : FVal :=
  let e0 := minExp vs
  let n := vs.foldl (fun a v => a + v.over e0) (0 : Int)
  .fin (decide (n < 0)) n.natAbs e0

/-- The IEEE sum as an exact value: the sign of an exact zero follows the rounding direction. -/
def FVal.add (rnd : Rnd) : FVal → FVal → FVal
  | .nan, _ => .nan
  | _, .nan => .nan
  | .inf s, .inf t => if s = t then .inf s else .nan
  | .inf s, .fin .. => .inf s
  | .fin .., .inf t => .inf t
  | .fin s m e, .fin t n f =>
    match dySum [.fin s m e, .fin t n f] with
    | .fin u k g =>
      if k = 0 then (if m = 0 ∧ n = 0 ∧ s = t then .fin s 0 0 else .fin (rnd == .rdn) 0 0) else .fin u k g
    | v => v

/-- Compare exact values: a < b (false with a NaN). Zeros are equal. -/
def FVal.lt : FVal → FVal → Bool
  | .nan, _ => false
  | _, .nan => false
  | .inf s, .inf t => s && !t
  | .inf s, .fin .. => s
  | .fin .., .inf t => !t
  | .fin s m e, .fin t n f =>
    let e0 := min e f
    decide ((FVal.fin s m e).over e0 < (FVal.fin t n f).over e0)

def FVal.eq (a b : FVal) : Bool := !a.isNan && !b.isNan && !a.lt b && !b.lt a
def FVal.le (a b : FVal) : Bool := a.lt b || a.eq b

/-- Whether a truncated magnitude n with remainder r of d is rounded up in magnitude (R98). -/
def roundsUp (rnd : Rnd) (neg : Bool) (n r d : Nat) : Bool :=
  match rnd with
  | .rne => decide (d < 2 * r) || (decide (2 * r = d) && n % 2 == 1)
  | .rtz => false
  | .rdn => neg && r != 0
  | .rup => !neg && r != 0

/-- The magnitude m · 2^e rounded to a multiple of 2^q, as a count of 2^q. -/
def quantize (rnd : Rnd) (neg : Bool) (m : Nat) (e q : Int) : Nat :=
  if q ≤ e then m * 2 ^ (e - q).toNat
  else
    let d := 2 ^ (q - e).toNat
    let n := m / d
    if roundsUp rnd neg n (m % d) d then n + 1 else n

/-- floor(log2) of a non-zero magnitude m · 2^e. -/
def fexp (m : Nat) (e : Int) : Int := (m.log2 : Int) + e

/-- The result of an overflow (R99). -/
def overflowBits (p : FParam) (rnd : Rnd) (sat neg : Bool) : Nat :=
  let big := if p.hasInf then p.maxBits + 1 else p.nanBits
  if sat then p.maxBits
  else match rnd, neg with
    | .rne, _ => big
    | .rtz, _ => p.maxBits
    | .rdn, false => p.maxBits
    | .rdn, true => big
    | .rup, false => big
    | .rup, true => p.maxBits

/-- Round to a floating-point format with gradual underflow (R89, R98, R99). The NaN of an E4M3 overflow is the
canonical one, sign 0. -/
def fpRound (p : FParam) (rnd : Rnd) (sat : Bool) (v : FVal) : Nat :=
  let sbit := 2 ^ (p.ebits + p.mbits)
  match v with
  | .nan => p.nanBits
  | .inf neg =>
    if sat then p.maxBits + (if neg then sbit else 0)
    else if p.hasInf then p.maxBits + 1 + (if neg then sbit else 0)
    else p.nanBits
  | .fin neg m e =>
    let s := if neg then sbit else 0
    if m = 0 then s
    else
      let qmin : Int := 1 - (p.bias : Int) - (p.mbits : Int)
      let q := max (fexp m e - (p.mbits : Int)) qmin
      let bits := (q - qmin).toNat * 2 ^ p.mbits + quantize rnd neg m e q
      if p.maxBits < bits then
        let b := overflowBits p rnd sat neg
        if b = p.nanBits then b else b + s
      else bits + s

/-- Round to FP32 without saturation. -/
def round32 (rnd : Rnd) (v : FVal) : Word := BitVec.ofNat 32 (fpRound (fparam .f32) rnd false v)

/-- The exact value rounded to an integer (R100). -/
def roundInt (rnd : Rnd) (neg : Bool) (m : Nat) (e : Int) : Int :=
  let n : Int := quantize rnd neg m e 0
  if neg then -n else n

/-- Conversion to INT8 or INT32 (R100). -/
def toInt (w : Nat) (rnd : Rnd) (sat : Bool) (v : FVal) : Nat :=
  let hi : Int := (2 ^ (w - 1) : Nat) - 1
  let lo : Int := -((2 ^ (w - 1) : Nat) : Int)
  match v with
  | .nan => 0
  | .inf neg => ((if neg then lo else hi) % (2 ^ w : Nat)).toNat
  | .fin neg m e =>
    let n := roundInt rnd neg m e
    let n := if sat then (if hi < n then hi else if n < lo then lo else n) else n
    (n % (2 ^ w : Nat)).toNat

/-- floor and ceiling of v − 1/2, with v = k · 2^e. -/
def halfFloor (k e : Int) : Int :=
  if 0 ≤ e then k * (2 ^ e.toNat : Nat) - 1
  else let d : Int := (2 ^ (-e).toNat : Nat); (2 * k - d) / (2 * d)
def halfCeil (k e : Int) : Int :=
  if 0 ≤ e then k * (2 ^ e.toNat : Nat)
  else let d : Int := (2 ^ (-e).toNat : Nat); -((d - 2 * k) / (2 * d))

def clampH4 (n : Int) : Nat := ((if 7 < n then 7 else if n < -8 then -8 else n) % 16).toNat

/-- Conversion to H4 (R101). -/
def toH4 (rnd : Rnd) (v : FVal) : Nat :=
  match v with
  | .nan => 0
  | .inf neg => if neg then 8 else 7
  | .fin neg m e =>
    let k : Int := if neg then -(m : Int) else m
    let mag (n : Nat) : Nat := let c := min n 7; if neg then 15 - c else c
    match rnd with
    | .rne =>
      let fl := quantize .rtz false m e 0
      let isInt := if 0 ≤ e then true else m % 2 ^ (-e).toNat == 0
      if m = 0 then mag 0
      else if isInt then mag (if fl % 2 = 0 then fl else fl - 1)
      else mag fl
    | .rtz => mag (halfFloor m e).toNat
    | .rdn => clampH4 (halfFloor k e)
    | .rup => clampH4 (halfCeil k e)

/-- Conversion to E8M0 (R102). -/
def toE8 (rnd : Rnd) (v : FVal) : Nat :=
  match v with
  | .nan => 255
  | .inf _ => 255
  | .fin _ m e =>
    if m = 0 then 0
    else
      let q := fexp m e
      let one := m == 2 ^ m.log2
      let up := match rnd with
        | .rtz => false
        | .rdn => false
        | .rup => !one
        | .rne => decide (3 * 2 ^ m.log2 ≤ 2 * m)
      let x : Int := (if up then q + 1 else q) + 127
      if x < 0 then 0 else if 254 < x then 254 else x.toNat

/-- Conversion of an exact value to a format, as the element's bits (R99–R103). -/
def convert (f : Fmt) (rnd : Rnd) (sat : Bool) (v : FVal) : Nat :=
  match f with
  | .i8 => toInt 8 rnd sat v
  | .i32 => toInt 32 rnd sat v
  | .h4 => toH4 rnd v
  | .e8m0 => toE8 rnd v
  | .f32 | .bf16 | .f16 | .e4m3 | .e5m2 | .lq2 | .tab => fpRound (fparam f) rnd sat v

/-- An LQ2 element (R93): byte j of the codebook entry of the index, its sign flipped under the index. -/
def lq2Byte (cb : Sp Byte) (index j : Nat) : Nat :=
  let t := (spGet 0 cb (8 * (index / 256 % 256) + j)).toNat
  if index / 2 ^ j % 2 = 1 then t ^^^ 0x80 else t

/-- A zero with the sign of a subnormal result (R111). -/
def flushKeepSign (w : Word) : Word :=
  if w.extractLsb' 23 8 = 0 then w &&& 0x80000000 else w

def nan32 : Word := 0x7FC00000

/-- The truncated products' exact sum, rounded once (R111), for a list with a non-zero member. -/
def truncSum (ps : List FVal) : Word :=
  let nz := ps.filter (fun p => !p.isZero)
  let emax := nz.foldl (fun a p => match p with | .fin _ m e => max a (fexp m e) | _ => a)
    (match nz with | .fin _ m e :: _ => fexp m e | _ => 0)
  let step := emax - 40
  let qs := nz.map (fun p => match p with
    | .fin s m e => if e < step then FVal.fin s (quantize .rtz s m e step) step else .fin s m e
    | v => v)
  flushKeepSign (round32 .rne (dySum qs))

/-- The s of R111 for finite products. -/
def prodSum (ps : List FVal) : Word :=
  if ps.all FVal.isZero then (if ps.all FVal.sign && !ps.isEmpty then 0x80000000 else 0)
  else truncSum ps

def ieeeAdd (rnd : Rnd) (a b : Word) : Word := round32 rnd (FVal.add rnd (f32v a) (f32v b))

/-- One element of a tensor instruction (R111). -/
def macElement (c : Word) (ps : List FVal) : Word :=
  if (f32v c).isNan || ps.any FVal.isNan then nan32
  else if ps.any (fun p => p == .inf true) && ps.any (fun p => p == .inf false) then nan32
  else if ps.any FVal.isInf then ieeeAdd .rne c (if ps.any (fun p => p == .inf true) then 0xFF800000 else 0x7F800000)
  else flushKeepSign (ieeeAdd .rne c (prodSum ps))

/-- dot_mac of PRED (06 R171). -/
def dotMac (ps : List FVal) : Word :=
  if ps.any FVal.isNan then nan32
  else if ps.any (fun p => p == .inf true) && ps.any (fun p => p == .inf false) then nan32
  else if ps.any FVal.isInf then (if ps.any (fun p => p == .inf true) then 0xFF800000 else 0x7F800000)
  else prodSum ps

/-- The exact sum of non-negative terms, an infinity or a NaN if one is among them (06 R172). -/
def sumUp (vs : List FVal) : Word :=
  if vs.any FVal.isNan then nan32
  else if vs.any FVal.isInf then 0x7F800000
  else round32 .rup (dySum vs)

end Sys2Proof.Machine
end

