-- ==== Sys2Proof/Decode.lean ====
section
/-! DEFINITION. Decoding bundles and slots (02 R33–R47, R62; 03 R80–R84) and, after it, the encoder. -/

namespace Sys2Proof

/-- Why a bundle is illegal (02 R54, R62). -/
inductive DecErr where
  | headerReserved | paddingNonzero | unassignedOpcode | reservedField | reservedOperand | operandClass
  | specialDestination | tileDirection | reservedFormat | reservedHint | reservedScope | bidxWithoutBar
  | immediateRange | undefinedFn | sameRegister | truncated
  | illegalCombination
  | queueDestination | queueConsumed
  deriving DecidableEq, Repr

/-- The trap cause of a decoding error (02 R54, R62; 21 R411). -/
def DecErr.cause : DecErr → BitVec 8
  | .illegalCombination => 0x02
  | .queueDestination | .queueConsumed => 0x06
  | _ => 0x01

/-- The error with the lowest cause, the first of those (02 R63). -/
def pickErr (es : List DecErr) : Option DecErr :=
  match es.find? (fun e => e.cause = 0x01) with
  | some e => some e
  | none =>
    match es.find? (fun e => e.cause = 0x02) with
    | some e => some e
    | none => es.head?

/-- An instruction, unless one of the checks failed. -/
def build (errs : List (List DecErr)) (i : Instr) : Except DecErr Instr :=
  match pickErr errs.flatten with
  | some e => .error e
  | none => .ok i

/-- A field that has to be 0 (02 R44). -/
def zf {n : Nat} (b : BitVec n) : List DecErr := if b = 0 then [] else [.reservedField]
/-- A condition that has to hold. -/
def need (c : Bool) (e : DecErr) : List DecErr := if c then [] else [e]

/-! Operand codes (02 R45, R46). -/

def vsrc (c : BitVec 6) : VSrc :=
  if c < 32 then .reg (c.setWidth 5) else if c < 40 then .queue (c.setWidth 3) else .spec (c.setWidth 3)
def vsrcE (c : BitVec 6) : List DecErr := need (c < 48) .reservedOperand
def vdst (c : BitVec 6) : VDst := if c < 32 then .reg (c.setWidth 5) else .zero
def vdstE (c : BitVec 6) : List DecErr :=
  if c < 32 || c = 40 then [] else if c < 40 then [.queueDestination]
  else if c < 48 then [.specialDestination] else [.reservedOperand]
def xsrc (c : BitVec 6) : XSrc :=
  if c < 32 then .reg (c.setWidth 4) else if c < 40 then .queue (c.setWidth 3) else .spec (c.setWidth 3)
def xsrcE (c : BitVec 6) : List DecErr :=
  need (c < 16 || (32 ≤ c && c < 48 && c != 41)) .reservedOperand
def xdst (c : BitVec 6) : XDst := if c < 16 then .reg (c.setWidth 4) else .zero
def xdstE (c : BitVec 6) : List DecErr :=
  if c < 16 || c = 40 then [] else if 32 ≤ c && c < 40 then [.queueDestination]
  else if 40 < c && c < 48 then [.specialDestination] else [.reservedOperand]
/-- A cursor field that the instruction writes (05 R139). -/
def xcurE (c : BitVec 6) : List DecErr :=
  if c < 16 then [] else if 32 ≤ c && c < 40 then [.queueDestination] else [.operandClass]
def pregE (c : BitVec 6) : List DecErr := need (c < 8) .operandClass
def tile (c : BitVec 6) : Tile := if c < 8 then .m (c.setWidth 3) else .c ((c - 8).setWidth 5)
def tileE (c : BitVec 6) : List DecErr := need (c < 40) .operandClass
def mregE (c : BitVec 6) : List DecErr := need (c < 8) .operandClass
def cregE (c : BitVec 6) : List DecErr := need (8 ≤ c && c < 40) .operandClass
def creg (c : BitVec 6) : CReg := (c - 8).setWidth 5
def xtE (c : BitVec 6) : List DecErr := need (40 ≤ c && c < 56) .operandClass
def xt (c : BitVec 6) : XReg := (c - 40).setWidth 4

def fmtOf (c : BitVec 4) : Fmt :=
  match c.toNat with
  | 1 => .bf16 | 2 => .f16 | 3 => .e4m3 | 4 => .e5m2 | 5 => .i8 | 6 => .i32 | 7 => .h4 | 8 => .lq2
  | 9 => .e8m0 | 15 => .tab | _ => .f32
def fmtE (c : BitVec 4) : List DecErr := need (c < 10 || c = 15) .reservedFormat
/-- An F field: 0, or 15 for TAB; 1–9 name an illegal combination (05 R118). -/
def fE (c : BitVec 4) : List DecErr := fmtE c ++ need (c = 0 || 10 ≤ c) .illegalCombination
def rndOf (c : BitVec 2) : Rnd := if c = 0 then .rne else if c = 1 then .rtz else if c = 2 then .rdn else .rup
def dirOf (c : BitVec 2) : Dir := if c = 0 then .row else if c = 1 then .col else .diag
def dirE (c : BitVec 2) : List DecErr := need (c != 3) .tileDirection
def condOf (c : BitVec 3) : Cond :=
  match c.toNat with | 0 => .eq | 1 => .ne | 2 => .lt | 3 => .ge | 4 => .ltu | _ => .geu
def condE (c : BitVec 3) : List DecErr := need (c < 6) .undefinedFn
def fcondOf (c : BitVec 5) : FCond :=
  match c.toNat with | 0 => .eq | 1 => .ne | 2 => .lt | 3 => .le | 4 => .gt | 5 => .ge | 6 => .uno | _ => .ord
def icondOf (c : BitVec 5) : ICond :=
  match c.toNat with
  | 0 => .eq | 1 => .ne | 2 => .lt | 3 => .le | 4 => .gt | 5 => .ge | 8 => .ltu | 9 => .leu | 10 => .gtu | _ => .geu
def icondE (c : BitVec 5) : List DecErr := need (c < 6 || (8 ≤ c && c < 12)) .undefinedFn
def redOf (c : BitVec 4) : RedOp :=
  match c.toNat with
  | 0 => .add | 1 => .min | 2 => .max | 3 => .iadd | 4 => .imin | 5 => .imax | 6 => .umin | 7 => .umax
  | 8 => .and | 9 => .or | _ => .xor
def redE (c : BitVec 4) : List DecErr := need (c < 11) .undefinedFn
def redModE (op : RedOp) (rnd : BitVec 2) (sat : BitVec 1) : List DecErr :=
  need (op == .add || rnd = 0) .reservedField ++ need (op == .add || op == .iadd || sat = 0) .reservedField
def scopeOf (c : BitVec 3) : Scope :=
  match c.toNat with | 0 => .engine | 1 => .gang | 2 => .team | 3 => .die | _ => .package
def scopeE (c : BitVec 3) : List DecErr := need (c < 5) .reservedScope
def strideOf (c : BitVec 2) : Stride := if c = 0 then .s8 else if c = 1 then .s4 else .s16
def strideE (c : BitVec 2) : List DecErr := need (c != 3) .undefinedFn
def sizeOf' (c : BitVec 2) : Size := if c = 0 then .b else if c = 1 then .h else if c = 2 then .w else .d
def amoOf (c : BitVec 4) : AmoOp :=
  match c.toNat with
  | 0 => .add | 1 => .and | 2 => .or | 3 => .xor | 4 => .smin | 5 => .smax | 6 => .umin | 7 => .umax | _ => .swap
def xfieldOf (c : BitVec 2) : XField := if c = 0 then .col else if c = 1 then .row else if c = 2 then .w0 else .w1
def layoutOf (c : BitVec 2) : Layout := if c = 0 then .tup else if c = 1 then .rm else if c = 2 then .cm else .blk
def sredOf (c : BitVec 3) : SredOp :=
  match c.toNat with | 0 => .add | 1 => .min | 2 => .max | 3 => .and | _ => .or
def ctrOf (c : BitVec 3) : Ctr :=
  match c.toNat with | 0 => .tile | 1 => .join | 2 => .pred | 3 => .copy | _ => .store
def csrOf (c : BitVec 12) : Csr :=
  match c.toNat with
  | 0 | 1 | 2 | 3 => .lc (c.setWidth 2) | 4 => .lnk | 8 => .abase | 0x10 => .cyc | 0x11 => .roff | 0x12 => .rgn
  | 0x13 => .ctx | 0x20 => .stkd | 0x21 => .spare | 0x30 => .pdecl | _ => .peff
def csrE (c : BitVec 12) : List DecErr :=
  need (c < 5 || c = 8 || (0x10 ≤ c && c < 0x14) || c = 0x20 || c = 0x21 || c = 0x30 || c = 0x31) .immediateRange

/-- The S slot (03 R81; 11 R263–R265; 14). -/
def decodeS (w : BitVec 48) : Except DecErr Instr :=
  let dst := w.extractLsb' 8 6
  let opa := w.extractLsb' 14 6
  let opb := w.extractLsb' 20 6
  let opc := w.extractLsb' 26 6
  let fn := w.extractLsb' 32 8
  let top := w.extractLsb' 40 8
  let imm28 := w.extractLsb' 20 28
  let imm32 := w.extractLsb' 14 32
  let j := zf (w.extractLsb' 46 2)
  let off := w.extractLsb' 24 24
  let bcond := w.extractLsb' 20 4
  let bopb := opa
  let bopa := dst
  let csr := w.extractLsb' 20 12
  let csrTop := zf (w.extractLsb' 32 16)
  -- format A with three registers, fn and opc 0
  let rrr (i : Instr) := build [zf top, zf fn, zf opc] i
  let u := fn.getLsbD 0
  let fn1 := zf (fn.extractLsb' 1 7)
  let c3 : BitVec 3 := fn.setWidth 3
  let fnC := condE c3
  let vote (i : Instr) := build [zf top, zf (fn.extractLsb' 3 5), fnC, xsrcE opa, xsrcE opb, zf opc] i
  let bare (i : Instr) := build [zf top, zf fn, zf dst, zf opa, zf opb, zf opc] i
  match (w.extractLsb' 0 8).toNat with
  | 0x01 => rrr (.add dst opa opb)
  | 0x02 => rrr (.sub dst opa opb)
  | 0x03 => rrr (.and dst opa opb)
  | 0x04 => rrr (.or dst opa opb)
  | 0x05 => rrr (.xor dst opa opb)
  | 0x06 => rrr (.andn dst opa opb)
  | 0x07 => rrr (.shl dst opa opb)
  | 0x08 => rrr (.shr dst opa opb)
  | 0x09 => rrr (.sar dst opa opb)
  | 0x0A => build [zf top, fn1, zf opc] (.min u dst opa opb)
  | 0x0B => build [zf top, fn1, zf opc] (.max u dst opa opb)
  | 0x0C => build [zf top, zf (fn.extractLsb' 3 5), fnC, zf opc] (.cmp (condOf c3) dst opa opb)
  | 0x0D => build [zf top, zf fn] (.sel dst opa opb opc)
  | 0x0E => build [zf top, zf fn, zf opb, zf opc] (.popc dst opa)
  | 0x0F => build [zf top, zf fn, zf opb, zf opc] (.clz dst opa)
  | 0x10 => rrr (.mul dst opa opb)
  | 0x11 => build [zf top, fn1, zf opc] (.mulh u dst opa opb)
  | 0x12 => build [zf top, fn1, zf opc] (.div u dst opa opb)
  | 0x13 => build [zf top, fn1, zf opc] (.rem u dst opa opb)
  | 0x18 => .ok (.addi dst opa imm28)
  | 0x19 => build [j] (.li dst imm32)
  | 0x1A => build [j] (.lih dst imm32)
  | 0x20 => build [condE (bcond.setWidth 3), zf (bcond.extractLsb' 3 1)] (.br (condOf (bcond.setWidth 3)) bopa bopb off)
  | 0x21 => build [zf bcond, zf bopa, zf bopb] (.jmp off)
  | 0x22 => build [zf top, zf fn, zf dst, zf opb, zf opc] (.jmpr opa)
  | 0x23 => build [zf bcond, zf bopa, zf bopb] (.call off)
  | 0x24 => bare .ret
  | 0x25 => build [zf (bcond.extractLsb' 2 2), zf bopa, zf bopb] (.loop (bcond.setWidth 2) off)
  | 0x26 => build [zf (imm28.extractLsb' 16 12), zf opa, zf dst] (.trap (imm28.setWidth 16))
  | 0x27 => bare .exit
  | 0x30 => build [condE (bcond.setWidth 3), xsrcE bopa, xsrcE bopb]
              (.gif (condOf (bcond.setWidth 3)) (bcond.getLsbD 3) (xsrc bopa) (xsrc bopb) off)
  | 0x31 => build [zf bcond, zf bopa, zf bopb] (.gelse off)
  | 0x32 => bare .gend
  | 0x33 => if fn.getLsbD 3 then build [zf top, zf (fn.extractLsb' 4 4), zf (fn.extractLsb' 0 3), zf dst, zf opa, zf opb, zf opc] (.goff .all)
            else build [zf top, zf (fn.extractLsb' 4 4), fnC, zf dst, xsrcE opa, xsrcE opb, zf opc]
              (.goff (.cond (condOf c3) (xsrc opa) (xsrc opb)))
  | 0x34 => vote (.gany (condOf c3) dst (xsrc opa) (xsrc opb))
  | 0x35 => vote (.gall (condOf c3) dst (xsrc opa) (xsrc opb))
  | 0x36 => vote (.gcnt (condOf c3) dst (xsrc opa) (xsrc opb))
  | 0x37 =>
    let k := fn.extractLsb' 3 2
    let hi := zf (fn.extractLsb' 5 3)
    let low := zf (fn.extractLsb' 0 3)
    if k = 0 then build [zf top, hi, fnC, xsrcE opa, xsrcE opb, zf opc] (.gmsk (.cond (condOf c3) (xsrc opa) (xsrc opb)) dst)
    else build [zf top, hi, low, zf opa, zf opb, zf opc]
      (.gmsk (if k = 1 then .path else if k = 2 then .act else .ret) dst)
  | 0x38 => build [zf off, zf bcond, zf bopa, zf bopb] .gsplit
  | 0x40 => build [zf top, zf fn, zf dst, zf opc] (.enq opa opb)
  | 0x41 => build [zf top, zf fn, zf dst, zf opb, zf opc] (.recd opa)
  | 0x42 => bare .yield
  | 0x43 => build [zf top, zf fn, zf dst, zf opb, zf opc] (.prio opa)
  | 0x44 =>
    let q : QidSel := match c3.toNat with | 0 => .team | 1 => .nteam | 2 => .gang | 3 => .vdie | _ => .loc
    build [zf top, zf (fn.extractLsb' 3 5), need (c3 < 5) .undefinedFn, zf opa, zf opb, zf opc] (.qid q dst)
  | 0x50 => build [csrTop, csrE csr, zf opa] (.csrr dst (csrOf csr))
  | 0x51 => build [csrTop, csrE csr, need (csrOf csr).writable .immediateRange, zf dst] (.csrw (csrOf csr) opa)
  | 0x52 =>
    if fn = 0 then build [zf top, zf opb, zf opc] (.qtop (.gangs opa) dst)
    else build [zf top, need (fn < 3) .undefinedFn, zf opa, zf opb, zf opc] (.qtop (if fn = 1 then .dies else .diam) dst)
  | 0x53 => rrr (.qdie dst opa opb)
  | 0x54 => bare .fencei
  | 0x55 => bare .bkpt
  | 0x60 => .ok (.lds (sizeOf' (imm28.extractLsb' 26 2)) dst opa (imm28.setWidth 26))
  | 0x61 => .ok (.sts (sizeOf' (imm28.extractLsb' 26 2)) dst opa (imm28.setWidth 26))
  | 0x62 => build [zf top, need ((fn.setWidth 4 : BitVec 4) < 9) .undefinedFn, need (fn.getLsbD 5) .undefinedFn,
              zf (fn.extractLsb' 6 2), zf opc] (.amo (amoOf (fn.setWidth 4)) (fn.getLsbD 4) dst opa opb)
  | 0x63 => build [zf top, zf (fn.extractLsb' 0 4), need (fn.getLsbD 5) .undefinedFn, zf (fn.extractLsb' 6 2)]
              (.cas (fn.getLsbD 4) dst opa opb opc)
  | _ => .error .unassignedOpcode

/-- The X slot (03 R82; 05 R139–R142). -/
def decodeX (w : BitVec 48) : Except DecErr Instr :=
  let dst := w.extractLsb' 8 6
  let opa := w.extractLsb' 14 6
  let opb := w.extractLsb' 20 6
  let opc := w.extractLsb' 26 6
  let fn := w.extractLsb' 32 8
  let top := zf (w.extractLsb' 40 8)
  let im := fn.getLsbD 0
  let b : XB := if im then .imm opb else .src (xsrc opb)
  let bE := if im then [] else xsrcE opb
  let arith (i : Instr) := build [top, zf (fn.extractLsb' 1 7), xdstE dst, xsrcE opa, bE, zf opc] i
  match (w.extractLsb' 0 8).toNat with
  | 0x01 => build [zf (w.extractLsb' 46 2), xdstE dst] (.xli (xdst dst) (w.extractLsb' 14 32))
  | 0x02 => build [top, zf (fn.extractLsb' 1 7), xdstE dst, if im then [] else xsrcE opa, zf opb, zf opc]
              (.xmov (xdst dst) (if im then .s opa else .x (xsrc opa)))
  | 0x03 => arith (.xadd (xdst dst) (xsrc opa) b)
  | 0x04 => arith (.xsub (xdst dst) (xsrc opa) b)
  | 0x05 => arith (.xmul (xdst dst) (xsrc opa) b)
  | 0x06 => arith (.xand (xdst dst) (xsrc opa) b)
  | 0x07 => arith (.xxor (xdst dst) (xsrc opa) b)
  | 0x08 => arith (.xshl (xdst dst) (xsrc opa) b)
  | 0x09 => arith (.xshr (xdst dst) (xsrc opa) b)
  | 0x0A => build [top, zf fn, xdstE dst, xsrcE opa, zf opb, zf opc] (.xpopc (xdst dst) (xsrc opa))
  | 0x0B => build [top, zf fn, xdstE dst, xsrcE opa, xsrcE opb, zf opc] (.xpfx (xdst dst) (xsrc opa) (xsrc opb))
  | 0x10 => build [top, zf (fn.extractLsb' 6 2), strideE (fn.extractLsb' 2 2), strideE (fn.extractLsb' 4 2),
              xcurE opa, xcurE opb, xdstE dst, zf opc]
              (.xcmpa (fn.getLsbD 0) (fn.getLsbD 1) (strideOf (fn.extractLsb' 2 2)) (strideOf (fn.extractLsb' 4 2))
                (opa.setWidth 4) (opb.setWidth 4) (xdst dst))
  | 0x11 => build [top, zf (fn.extractLsb' 2 6), xdstE dst, xsrcE opa, zf opb, zf opc]
              (.xldc (xfieldOf (fn.setWidth 2)) (xdst dst) (xsrc opa))
  | 0x12 =>
    let im2 := fn.getLsbD 2
    build [top, zf (fn.extractLsb' 3 5), strideE (fn.setWidth 2), xdstE dst, xsrcE opa, if im2 then [] else xsrcE opb, zf opc]
      (.xadv (strideOf (fn.setWidth 2)) (xdst dst) (xsrc opa) (if im2 then .imm opb else .src (xsrc opb)))
  | 0x13 =>
    let lg : BitVec 4 := fn.setWidth 4
    build [top, zf (fn.extractLsb' 4 4), need (lg = 0 || (4 ≤ lg && lg ≤ 12)) .undefinedFn, xdstE dst, xsrcE opa, zf opb, zf opc]
      (.xhash lg (xdst dst) (xsrc opa))
  | 0x14 => build [top, zf fn, xdstE dst, xsrcE opa, xsrcE opb, xsrcE opc]
              (.xsel (xdst dst) (xsrc opa) (xsrc opb) (xsrc opc))
  | _ => .error .unassignedOpcode

/-- The V slots; the cross-engine forms exist in V1 only (02 R33; 03 R82; 05). -/
def decodeV (v1 : Bool) (w : BitVec 48) : Except DecErr Instr :=
  let dst := w.extractLsb' 8 6
  let opa := w.extractLsb' 14 6
  let opb := w.extractLsb' 20 6
  let opc := w.extractLsb' 26 6
  let fn := w.extractLsb' 32 5
  let sat := w.extractLsb' 37 1
  let rnd := w.extractLsb' 38 2
  let fmt := w.extractLsb' 40 4
  let r44 := zf (w.extractLsb' 44 1)
  let p := w.extractLsb' 45 3
  let d := vdst dst
  let a := vsrc opa
  let b := vsrc opb
  let st := sat = 1
  let tab := decide (fmt = 15)
  let fp2 (i : Instr) := build [r44, vdstE dst, vsrcE opa, vsrcE opb, zf opc, fE fmt, zf fn] i
  let mm2 (i : Instr) := build [r44, vdstE dst, vsrcE opa, vsrcE opb, zf opc, fE fmt, zf fn, zf rnd, zf sat] i
  let fp1 (i : Instr) := build [r44, vdstE dst, vsrcE opa, zf opb, zf opc, fE fmt, zf fn, zf rnd, zf sat] i
  let int3s (i : Instr) := build [r44, vdstE dst, vsrcE opa, vsrcE opb, zf opc, zf fmt, zf fn, zf rnd] i
  let int3 (i : Instr) := build [r44, vdstE dst, vsrcE opa, vsrcE opb, zf opc, zf fmt, zf fn, zf rnd, zf sat] i
  let int3u (i : Instr) := build [r44, vdstE dst, vsrcE opa, vsrcE opb, zf opc, zf fmt, zf (fn.extractLsb' 1 4), zf rnd, zf sat] i
  let u := fn.getLsbD 0
  let op4 : BitVec 4 := fn.setWidth 4
  let op := redOf op4
  let only (r : Except DecErr Instr) : Except DecErr Instr := if v1 then r else .error .unassignedOpcode
  let fillE := if fn.getLsbD 0 then [] else ([] : List DecErr)
  let fill : Fill := if fn.getLsbD 0 then .s opc else .imm opc
  match (w.extractLsb' 0 8).toNat with
  | 0x01 => fp2 (.vaddf d a b tab (rndOf rnd) st p)
  | 0x02 => fp2 (.vsubf d a b tab (rndOf rnd) st p)
  | 0x03 => fp2 (.vmulf d a b tab (rndOf rnd) st p)
  | 0x04 => build [r44, vdstE dst, vsrcE opa, vsrcE opb, vsrcE opc, fE fmt, zf fn] (.vfmaf d a b (vsrc opc) tab (rndOf rnd) st p)
  | 0x05 => mm2 (.vminf d a b tab p)
  | 0x06 => mm2 (.vmaxf d a b tab p)
  | 0x07 => build [r44, pregE dst, vsrcE opa, vsrcE opb, zf opc, fE fmt, zf rnd, zf sat, need (fn < 8) .undefinedFn]
              (.vcmpf (fcondOf fn) (dst.setWidth 3) a b tab p)
  | 0x08 => fp1 (.vrcp d a tab p)
  | 0x09 => fp1 (.vrsq d a tab p)
  | 0x0A => fp1 (.vex2 d a tab p)
  | 0x0B => fp1 (.vlg2 d a tab p)
  | 0x0C => fp1 (.vtanh d a tab p)
  | 0x10 => int3s (.vaddi d a b st p)
  | 0x11 => int3s (.vsubi d a b st p)
  | 0x12 => int3s (.vmuli d a b st p)
  | 0x13 => int3u (.vmulhi u d a b p)
  | 0x14 => int3 (.vand d a b p)
  | 0x15 => int3 (.vor d a b p)
  | 0x16 => int3 (.vxor d a b p)
  | 0x17 => int3 (.vshl d a b p)
  | 0x18 => int3 (.vshr d a b p)
  | 0x19 => int3 (.vsar d a b p)
  | 0x1A => int3u (.vmini u d a b p)
  | 0x1B => int3u (.vmaxi u d a b p)
  | 0x1C => build [r44, pregE dst, vsrcE opa, vsrcE opb, zf opc, zf fmt, zf rnd, zf sat, icondE fn]
              (.vcmpi (icondOf fn) (dst.setWidth 3) a b p)
  | 0x20 => build [r44, vdstE dst, vsrcE opa, zf opb, zf opc, zf fmt, zf fn, zf rnd, zf sat] (.vmov d a p)
  | 0x21 => build [zf (w.extractLsb' 46 2), vdstE dst] (.vli d (w.extractLsb' 14 32))
  | 0x22 => build [r44, vdstE dst, zf opb, zf opc, zf fmt, zf fn, zf rnd, zf sat] (.vbcs d opa p)
  | 0x23 => build [r44, vdstE dst, vsrcE opa, vsrcE opb, pregE opc, zf fmt, zf fn, zf rnd, zf sat] (.vsel d a b (opc.setWidth 3) p)
  | 0x24 => build [r44, vdstE dst, vsrcE opa, zf opb, zf opc, fmtE fmt, zf (fn.extractLsb' 4 1), fmtE op4,
              need (fmtOf fmt).cvtDstOk .illegalCombination, need (fmtOf op4).cvtSrcOk .illegalCombination]
              (.vcvt (fmtOf fmt) (fmtOf op4) d a (rndOf rnd) st p)
  | 0x25 => build [r44, vdstE dst, vsrcE opa, vsrcE opb, zf opc, fmtE fmt, zf fn, need (fmtOf fmt).qntOk .illegalCombination]
              (.vqnt (fmtOf fmt) d a b (rndOf rnd) st p)
  | 0x26 => build [r44, vdstE dst, vsrcE opa, vsrcE opb, zf opc, fmtE fmt, zf fn, need (fmtOf fmt).cvtDstOk .illegalCombination]
              (.vdqn (fmtOf fmt) d a b (rndOf rnd) st p)
  | 0x27 => build [r44, vdstE dst, vsrcE opa, zf opb, zf opc, zf fmt, zf (fn.extractLsb' 4 1), redE op4, redModE op rnd sat]
              (.vred op d a (rndOf rnd) st p)
  | 0x28 => build [r44, vdstE dst, vsrcE opa, vsrcE opb, zf opc, zf fmt, zf rnd, zf sat] (.vperm d a b fn p)
  | 0x29 =>
    let common := [r44, zf p, zf fmt, zf rnd, zf sat, zf dst, zf opb, zf opc]
    if fn = 0 then build (xsrcE opa :: common) (.vpld (xsrc opa))
    else build (need (fn = 1) .undefinedFn :: zf opa :: common) .vpldSwap
  | 0x2A => build [r44, vdstE dst, vsrcE opa, zf opb, zf opc, zf fmt, zf (fn.extractLsb' 4 1), zf rnd, zf sat] (.vrot d a op4 p)
  | 0x2B => build [r44, vdstE dst, tileE opa, zf (opb.extractLsb' 4 2), zf opc, fmtE fmt, zf rnd, zf sat, dirE (fn.setWidth 2),
              need (groupOk (fmtOf fmt) (fn.extractLsb' 2 3)) .undefinedFn, need (tileFmtOk (tile opa) (fmtOf fmt)) .illegalCombination]
              (.vtrd (fmtOf fmt) d (tile opa) (dirOf (fn.setWidth 2)) (opb.setWidth 4) (fn.extractLsb' 2 3) p)
  | 0x2C => build [r44, tileE dst, vsrcE opa, zf (opb.extractLsb' 4 2), zf opc, fmtE fmt, zf rnd, zf sat, dirE (fn.setWidth 2),
              need (groupOk (fmtOf fmt) (fn.extractLsb' 2 3)) .undefinedFn, need (tileFmtOk (tile dst) (fmtOf fmt)) .illegalCombination]
              (.vtwr (fmtOf fmt) (tile dst) a (dirOf (fn.setWidth 2)) (opb.setWidth 4) (fn.extractLsb' 2 3) p)
  | 0x2D =>
    let common := [r44, pregE dst, zf opc, zf fmt, zf rnd, zf sat]
    let pa : PReg := opa.setWidth 3
    let pb : PReg := opb.setWidth 3
    let bin (o : PlogOp) := build (pregE opa :: pregE opb :: common) (.plog (dst.setWidth 3) (.bin o pa pb) p)
    match fn.toNat with
    | 0 => bin .and
    | 1 => bin .or
    | 2 => bin .xor
    | 3 => bin .andn
    | 4 => build (pregE opa :: zf opb :: common) (.plog (dst.setWidth 3) (.not pa) p)
    | 5 => build (pregE opa :: zf opb :: common) (.plog (dst.setWidth 3) (.mov pa) p)
    | 6 => build (vsrcE opa :: zf opb :: common) (.plog (dst.setWidth 3) (.fromv a) p)
    | _ => .error .undefinedFn
  | 0x2E =>
    let common := [r44, zf p, zf fmt, zf rnd, zf sat, zf dst, zf opb, zf opc]
    let qE := need (EpsetSrc.ok (.set a)) .queueDestination
    match fn.toNat with
    | 0 => build (vsrcE opa :: qE :: common) (.epset (.set a))
    | 1 => build (vsrcE opa :: qE :: common) (.epset (.and a))
    | 2 => build (zf opa :: common) (.epset .all)
    | _ => .error .undefinedFn
  | 0x30 => only (build [r44, vdstE dst, vsrcE opa, vsrcE opb, fillE, zf (fn.extractLsb' 1 4), zf fmt, zf rnd, zf sat] (.gshf d a b fill p))
  | 0x31 => only (build [r44, vdstE dst, vsrcE opa, vsrcE opb, zf opc, zf fn, zf fmt, zf rnd, zf sat] (.gpsh d a b p))
  | 0x32 => only (build [r44, vdstE dst, vsrcE opa, zf opb, zf opc, zf fmt, zf (fn.extractLsb' 4 1), redE op4, redModE op rnd sat]
              (.gred op d a (rndOf rnd) st p))
  | 0x33 => only (build [r44, vdstE dst, vsrcE opa, zf opb, fillE, zf fmt, zf rnd, zf sat] (.gbcst d a (fn.extractLsb' 1 4) fill p))
  | 0x34 => only (build [r44, vdstE dst, vsrcE opa, zf opb, zf opc, zf fmt, redE op4, redModE op rnd sat]
              (.gscan op (fn.getLsbD 4) d a (rndOf rnd) st p))
  | _ => .error .unassignedOpcode

/-- The T slot (02 R41; 03 R83; 06 R143). -/
def decodeT (w : BitVec 64) : Except DecErr Instr :=
  let dst := w.extractLsb' 8 6
  let opa := w.extractLsb' 14 6
  let opb := w.extractLsb' 20 6
  let opc := w.extractLsb' 26 6
  let dirs := w.extractLsb' 32 8
  let dira := w.extractLsb' 34 2
  let rotd := w.extractLsb' 40 4
  let rota := w.extractLsb' 44 4
  let rotb := w.extractLsb' 48 4
  let rotc := w.extractLsb' 52 4
  let fa := w.extractLsb' 56 4
  let fb := w.extractLsb' 60 4
  let noDir := zf dirs
  let noRot := zf (w.extractLsb' 40 16)
  let noFmt := zf (w.extractLsb' 56 8)
  let rbE := zf rotd ++ zf rota ++ zf rotb ++ zf (rotc.extractLsb' 2 2)
  let fmtAB := fmtE fa ++ fmtE fb ++ need (macOk (fmtOf fa) (fmtOf fb)) .illegalCombination
  match (w.extractLsb' 0 8).toNat with
  | 0x01 => build [cregE dst, mregE opa, mregE opb, zf opc, noDir, rbE, fmtAB]
              (.mma (fmtOf fa) (fmtOf fb) (creg dst) (opa.setWidth 3) (opb.setWidth 3) (rotc.setWidth 2))
  | 0x02 => build [cregE dst, mregE opa, xtE opb, need (opc ≤ 16) .immediateRange, noDir, rbE, fmtAB]
              (.mmag (fmtOf fa) (fmtOf fb) (creg dst) (opa.setWidth 3) (xt opb)
                (if h : opc.toNat < 17 then ⟨opc.toNat, h⟩ else 0) (rotc.setWidth 2))
  | 0x03 => build [tileE dst, zf opa, zf opb, zf opc, noDir, noRot, noFmt] (.tzero (tile dst))
  | 0x04 => build [tileE dst, tileE opa, zf opb, zf opc, zf (w.extractLsb' 32 2), dirE dira, zf (w.extractLsb' 36 4), zf rotd,
              need (dira = 2 || rota = 0) .tileDirection, zf rotb, zf rotc, fmtE fa, zf fb,
              need (tileFmtOk (tile dst) (fmtOf fa) && tileFmtOk (tile opa) (fmtOf fa)) .illegalCombination]
              (.ttrn (fmtOf fa) (tile dst) (tile opa) (dirOf dira) rota)
  | 0x05 => build [mregE dst, mregE opa, zf opb, zf opc, noDir, noRot, fmtE fa, fmtE fb,
              need ((fa = 8 || fa = 15) && (fb = 3 || fb = 15)) .illegalCombination]
              (.tdec (fmtOf fa) (fmtOf fb) (dst.setWidth 3) (opa.setWidth 3))
  | 0x06 => build [zf dst, xtE opa, zf opb, zf opc, noDir, noRot, noFmt] (.cbld (xt opa))
  | 0x07 => build [zf dst, xtE opa, zf (opb.extractLsb' 4 2), zf opc, noDir, noRot, noFmt] (.fmtw (xt opa) (opb.setWidth 4))
  | 0x08 => build [zf dst, xtE opa, zf opb, zf opc, noDir, noRot, noFmt] (.shset (xt opa))
  | 0x10 => build [zf dst, xtE opa, xtE opb, zf opc, noDir, noRot, noFmt] (.acfg (xt opa) (xt opb))
  | 0x11 => build [zf dst, zf opa, zf opb, zf opc, noDir, noRot, noFmt] .aclr
  | 0x12 => build [xtE dst, xtE opa, xtE opb, xtE opc, noDir, noRot, fmtE fa, fmtE fb,
              need (dst != opa && dst != opb && dst != opc && opa != opb && opa != opc && opb != opc) .sameRegister,
              need ((fmtOf fa).joinOk && (fmtOf fb).joinOk) .illegalCombination]
              (.join (fmtOf fa) (fmtOf fb) (xt dst) (xt opa) (xt opb) (xt opc))
  | 0x13 => build [xtE dst, xtE opa, zf opb, zf opc, noDir, noRot, fmtE fa, zf fb, need (fmtOf fa).joinOk .illegalCombination]
              (.jins (fmtOf fa) (xt dst) (xt opa))
  | 0x14 =>
    let lay := layoutOf (rota.setWidth 2)
    let common := [xtE dst, xtE opa, zf opc, noDir, zf rotd, zf (rota.extractLsb' 2 2), zf rotb, zf rotc, fmtE fa, zf fb,
      need (fmtOf fa).drainOk .illegalCombination]
    if lay = .tup then build (zf opb :: common) (.adrn lay (fmtOf fa) (xt dst) (xt opa) 0)
    else build (xtE opb :: common) (.adrn lay (fmtOf fa) (xt dst) (xt opa) (xt opb))
  | 0x15 => build [cregE dst, xtE opa, zf opb, zf opc, noDir, noRot, noFmt] (.afold (creg dst) (xt opa))
  | 0x16 => build [xtE dst, zf opa, zf opb, zf opc, noDir, noRot, noFmt] (.aspl (xt dst))
  | 0x17 =>
    let common := [xtE dst, zf opb, zf opc, noDir, zf rota, zf rotb, zf rotc, noFmt]
    let plain (s : ArdSel) := build (zf opa :: common) (.ard s (xt dst))
    match rotd.toNat with
    | 0 => build (xtE opa :: common) (.ard (.key (xt opa)) (xt dst))
    | 1 => plain .st
    | 2 => plain .occ
    | 3 => plain .cfg
    | 4 => plain .spl
    | 5 => plain .org
    | 6 => plain .sres
    | 7 => plain .sover
    | _ => .error .undefinedFn
  | 0x18 =>
    let common := [zf dst, xtE opa, zf opc, noDir, zf rotd, zf rotb, zf rotc, noFmt]
    let one (s : AwrSel) := build (zf opb :: common) (.awr s)
    match rota.toNat with
    | 0 => build (xtE opb :: common) (.awr (.key (xt opa) (xt opb)))
    | 1 => one (.st (xt opa))
    | 5 => one (.org (xt opa))
    | 6 => one (.sres (xt opa))
    | 7 => one (.sover (xt opa))
    | _ => .error .undefinedFn
  | 0x20 => build [xtE dst, xtE opa, zf opb, zf opc, noDir, noRot, fmtE fa, zf fb, need (fmtOf fa).sageOk .illegalCombination]
              (.pred (fmtOf fa) (xt dst) (xt opa))
  | 0x21 => build [xtE dst, xtE opa, zf opb, xtE opc, noDir, noRot, fmtE fa, zf fb, need (dst != opc) .sameRegister,
              need (fmtOf fa).sageOk .illegalCombination]
              (.pchk (fmtOf fa) (xt dst) (xt opa) (xt opc))
  | _ => .error .unassignedOpcode

/-- The hint of an L or W instruction: 0 normal, 1 bypass (02 R40). -/
def hintE (h : BitVec 2) : List DecErr := need (h < 2) .reservedHint

/-- The L slot (03 R83; 11 R256). -/
def decodeL (w : BitVec 48) : Except DecErr Instr :=
  let dst := w.extractLsb' 8 6
  let opa := w.extractLsb' 14 6
  let opb := w.extractLsb' 20 6
  let opc := w.extractLsb' 26 6
  let fn := w.extractLsb' 32 6
  let hint := w.extractLsb' 38 2
  let fmt := w.extractLsb' 40 4
  let r44 := zf (w.extractLsb' 44 1)
  let p := w.extractLsb' 45 3
  let byp := decide (hint = 1)
  let base := [r44, hintE hint, xsrcE opa]
  let xa := xsrc opa
  match (w.extractLsb' 0 8).toNat with
  | 0x01 => build (base ++ [vdstE dst, zf opb, zf opc, zf fmt, zf fn]) (.ldv (vdst dst) xa byp p)
  | 0x02 => build (base ++ [tileE dst, zf opb, zf opc, zf fmt, dirE (fn.extractLsb' 4 2)])
              (.ldm (tile dst) xa (dirOf (fn.extractLsb' 4 2)) (fn.setWidth 4) byp p)
  | 0x03 => build (base ++ [vdstE dst, vsrcE opb, zf opc, zf fmt, zf fn]) (.ldg (vdst dst) xa (vsrc opb) byp p)
  | 0x04 => build (base ++ [mregE dst, xsrcE opb, zf opc, zf fmt, zf (fn.extractLsb' 2 4), zf p])
              (.ldmk (dst.setWidth 3) xa (xsrc opb) (fn.setWidth 2) byp)
  | 0x05 => build (base ++ [vdstE dst, xsrcE opb, zf opc, zf fmt, zf fn]) (.ldx (vdst dst) xa (xsrc opb) byp p)
  | 0x06 => build (base ++ [zf dst, zf opb, zf opc, zf fmt, zf (fn.extractLsb' 5 1), zf p,
              need (wf (.ldb false xa 0 false) || !xa.ok) .queueConsumed])
              (.ldb (fn.getLsbD 0) xa (fn.extractLsb' 1 4) byp)
  | 0x07 =>
    let df : BitVec 4 := fn.setWidth 4
    build (base ++ [mregE dst, xsrcE opb, zf (opc.extractLsb' 4 2), fmtE fmt, fmtE df, zf (fn.extractLsb' 4 2), zf p,
      need ((fmtOf fmt).ldwSrcOk && (fmtOf df).ldwDstOk) .illegalCombination])
      (.ldw (fmtOf fmt) (fmtOf df) (dst.setWidth 3) xa (xsrc opb) (opc.setWidth 4) byp)
  | _ => .error .unassignedOpcode

/-- The W slot (03 R83; 11 R256). -/
def decodeW (w : BitVec 48) : Except DecErr Instr :=
  let dst := w.extractLsb' 8 6
  let opa := w.extractLsb' 14 6
  let opb := w.extractLsb' 20 6
  let opc := w.extractLsb' 26 6
  let fn := w.extractLsb' 32 6
  let hint := w.extractLsb' 38 2
  let p := w.extractLsb' 45 3
  let byp := decide (hint = 1)
  let base := [zf (w.extractLsb' 44 1), hintE hint, xsrcE opa, zf dst, zf (w.extractLsb' 40 4)]
  let xa := xsrc opa
  match (w.extractLsb' 0 8).toNat with
  | 0x01 => build (base ++ [vsrcE opb, zf opc, zf fn]) (.stv (vsrc opb) xa byp p)
  | 0x02 => build (base ++ [tileE opb, zf opc, dirE (fn.extractLsb' 4 2)])
              (.stm (tile opb) xa (dirOf (fn.extractLsb' 4 2)) (fn.setWidth 4) byp p)
  | 0x03 => build (base ++ [vsrcE opb, vsrcE opc, zf fn]) (.stg (vsrc opb) xa (vsrc opc) byp p)
  | 0x04 => build (base ++ [mregE opb, xsrcE opc, zf (fn.extractLsb' 2 4), zf p])
              (.stmk (opb.setWidth 3) xa (xsrc opc) (fn.setWidth 2) byp)
  | 0x05 => build (base ++ [vsrcE opb, xsrcE opc, zf fn]) (.stx (vsrc opb) xa (xsrc opc) byp p)
  | _ => .error .unassignedOpcode

/-- The C slot (02 R42; 03 R83; 11 R268, R272). -/
def decodeC (w : BitVec 64) : Except DecErr Instr :=
  let desc := w.extractLsb' 8 3
  let opa := w.extractLsb' 14 6
  let opb := w.extractLsb' 20 6
  let opc := w.extractLsb' 26 6
  let bidx := w.extractLsb' 32 4
  let bar := w.extractLsb' 36 1
  let nb := w.extractLsb' 37 1
  let cls := w.extractLsb' 38 2
  let fn := w.extractLsb' 40 8
  let mask := w.extractLsb' 48 16
  let b : Option (BitVec 4) := if bar = 1 then some bidx else none
  let common := [zf (w.extractLsb' 11 3), need (bar = 1 || bidx = 0) .bidxWithoutBar]
  let std := common ++ [zf fn]
  match (w.extractLsb' 0 8).toNat with
  | 0x01 => build (common ++ [zf (fn.extractLsb' 3 5), zf mask, zf cls, zf nb, zf bar, zf opb, zf opc]) (.dset desc (fn.setWidth 3) opa)
  | 0x02 => build (std ++ [zf mask, zf nb, zf opc]) (.cpy desc opa opb cls b)
  | 0x03 => build (std ++ [zf nb, zf opb, zf opc]) (.cpyg desc opa mask cls b)
  | 0x04 => build (std ++ [zf mask, if nb = 1 then [] else zf opc]) (.cpsh desc opa opb (if nb = 1 then some opc else none) cls b)
  | 0x05 => build (std ++ [zf nb, zf opc]) (.cmc desc opa opb mask cls b)
  | 0x06 => build (std ++ [zf mask, zf nb, zf opa, zf opb, zf opc]) (.cprf desc cls b)
  | 0x07 => build (std ++ [zf mask, zf nb, zf opa, zf opb, zf opc]) (.cfls desc cls b)
  | 0x08 => build (std ++ [zf mask, zf nb, zf opa, zf opb, zf opc]) (.cinv desc cls b)
  | 0x09 => build (std ++ [zf mask, zf nb, zf opc]) (.cfil desc opa opb cls b)
  | _ => .error .unassignedOpcode

/-- The Y slot (02 R43; 03 R83; 11 R279–R287). -/
def decodeY (w : BitVec 32) : Except DecErr Instr :=
  let chan := w.extractLsb' 8 6
  let opa := w.extractLsb' 14 6
  let opb := w.extractLsb' 20 6
  let fn := w.extractLsb' 26 3
  let sc := w.extractLsb' 29 3
  let bar : BitVec 4 := w.extractLsb' 8 4
  let barE := [zf (w.extractLsb' 12 2), zf sc, zf fn, zf opb]
  let s := scopeOf sc
  match (w.extractLsb' 0 8).toNat with
  | 0x01 => .ok (.wait (w.extractLsb' 26 6) opb opa chan)
  | 0x02 => build [zf sc, zf opb, zf chan, need (fn < 5) .undefinedFn] (.waitr (ctrOf fn) opa)
  | 0x03 => build barE (.bari bar opa)
  | 0x04 => build (zf opa :: barE) (.bara bar)
  | 0x05 => build (zf opa :: barE) (.barw bar)
  | 0x06 => build (zf opa :: barE) (.barx bar)
  | 0x07 => build [scopeE sc, zf fn, zf opa, zf opb] (.syna s chan)
  | 0x08 => build [scopeE sc, zf fn, zf opa, zf opb] (.synw s chan)
  | 0x09 => if fn.getLsbD 0 then build [scopeE sc, zf (fn.extractLsb' 1 2), zf opb] (.sbc s chan opa)
            else build [scopeE sc, zf (fn.extractLsb' 1 2), zf opa] (.sbcRd s chan opb)
  | 0x0A => build [scopeE sc, need (fn < 5) .undefinedFn] (.sred (sredOf fn) s chan opb opa)
  | 0x0B => build [scopeE sc, zf fn, zf opa, zf opb, zf chan] (.fence s)
  | 0x0C => build [scopeE sc, zf fn, zf opa, zf opb, zf chan] (.acq s)
  | 0x0D => build [scopeE sc, zf fn, zf opa, zf opb, zf chan] (.rel s)
  | 0x0E => build [need (sc = 4) .reservedScope, zf fn, zf chan] (.acqr opb opa)
  | 0x0F => build [zf sc, zf (fn.extractLsb' 1 2), zf opa, zf chan] (.time (fn.getLsbD 0) opb)
  | _ => .error .unassignedOpcode

/-- A slot value, zero-extended to 64 bits, decoded in its slot. -/
def decodeSlot (k : SlotKind) (v1 : Bool) (w : BitVec 64) : Except DecErr Instr :=
  match k with
  | .s => decodeS (w.setWidth 48)
  | .x => decodeX (w.setWidth 48)
  | .v => decodeV v1 (w.setWidth 48)
  | .t => decodeT w
  | .l => decodeL (w.setWidth 48)
  | .w => decodeW (w.setWidth 48)
  | .c => decodeC w
  | .y => decodeY (w.setWidth 32)

/-! Bundles (02 R33–R36). -/

/-- The number a list of bytes holds, least significant byte first (00 R4). -/
def leNat : List Byte → Nat
  | [] => 0
  | b :: bs => b.toNat + 256 * leNat bs

/-- n bytes of a number, least significant byte first (00 R4). -/
def leBytes : Nat → Nat → List Byte
  | 0, _ => []
  | n + 1, v => BitVec.ofNat 8 v :: leBytes n (v / 256)

/-- The kind, V1 flag and bytes of slot i of R33. -/
def slotSpec (i : Nat) : SlotKind × Bool × Nat :=
  match i with
  | 0 => (.s, false, 6) | 1 => (.x, false, 6) | 2 => (.v, false, 6) | 3 => (.v, true, 6) | 4 => (.t, false, 8)
  | 5 => (.l, false, 6) | 6 => (.w, false, 6) | 7 => (.c, false, 8) | _ => (.y, false, 4)

/-- Length in bytes of the slots marked present (02 R35). -/
def slotsLen (present : BitVec 9) : Nat :=
  (List.range 9).foldl (fun n i => if present.getLsbD i then n + (slotSpec i).2.2 else n) 0

/-- Length in bytes of a bundle with this header (02 R35). -/
def bundleLen (hdr : BitVec 32) : Nat :=
  let present : BitVec 9 := hdr.setWidth 9
  if present = 0 then 8 else 4 + slotsLen present

/-- Where an encoding error lies: the slot number of R33 (none for the header), the slot's opcode, the error. -/
abbrev BundleErr := Option Nat × BitVec 8 × DecErr

/-- The slot values of a bundle, by slot number. -/
def slotValues (present : BitVec 9) (bytes : List Byte) : Nat → Nat → List (Nat × BitVec 64)
  | 0, _ => []
  | n + 1, i =>
    if present.getLsbD i then
      let len := (slotSpec i).2.2
      (i, BitVec.ofNat 64 (leNat (bytes.take len))) :: slotValues present (bytes.drop len) n (i + 1)
    else slotValues present bytes n (i + 1)

/-- Decode the slots in the order of R33; the first slot with an error gives the bundle's error (02 R63). -/
def decodeSlots : List (Nat × BitVec 64) → Except BundleErr (List (Nat × Instr))
  | [] => .ok []
  | (i, w) :: rest =>
    match decodeSlot (slotSpec i).1 (slotSpec i).2.1 w with
    | .error e => .error (some i, w.setWidth 8, e)
    | .ok ins =>
      match decodeSlots rest with
      | .error e => .error e
      | .ok l => .ok ((i, ins) :: l)

/-- Queues named as V-space and X-space operands of an instruction (02 R50). -/
def VSrc.queues : VSrc → List (BitVec 3)
  | .queue k => [k]
  | _ => []
def XSrc.queues : XSrc → List (BitVec 3)
  | .queue k => [k]
  | _ => []
def XB.queues : XB → List (BitVec 3)
  | .src x => x.queues
  | .imm _ => []

/-- The queue heads an instruction reads (02 R50). -/
def Instr.queues : Instr → List (BitVec 3)
  | .gif _ _ a b _ | .gany _ _ a b | .gall _ _ a b | .gcnt _ _ a b => a.queues ++ b.queues
  | .gmsk (.cond _ a b) _ | .goff (.cond _ a b) => a.queues ++ b.queues
  | .xmov _ (.x a) => a.queues
  | .xadd _ a b | .xsub _ a b | .xmul _ a b | .xand _ a b | .xxor _ a b | .xshl _ a b | .xshr _ a b | .xadv _ _ a b =>
      a.queues ++ b.queues
  | .xpopc _ a | .xldc _ _ a | .xhash _ _ a => a.queues
  | .xpfx _ a b => a.queues ++ b.queues
  | .xsel _ a b c => a.queues ++ b.queues ++ c.queues
  | .vaddf _ a b _ _ _ _ | .vsubf _ a b _ _ _ _ | .vmulf _ a b _ _ _ _ => a.queues ++ b.queues
  | .vfmaf _ a b c _ _ _ _ => a.queues ++ b.queues ++ c.queues
  | .vminf _ a b _ _ | .vmaxf _ a b _ _ | .vcmpf _ _ a b _ _ => a.queues ++ b.queues
  | .vrcp _ a _ _ | .vrsq _ a _ _ | .vex2 _ a _ _ | .vlg2 _ a _ _ | .vtanh _ a _ _ => a.queues
  | .vaddi _ a b _ _ | .vsubi _ a b _ _ | .vmuli _ a b _ _ | .vmulhi _ _ a b _ => a.queues ++ b.queues
  | .vand _ a b _ | .vor _ a b _ | .vxor _ a b _ | .vshl _ a b _ | .vshr _ a b _ | .vsar _ a b _ => a.queues ++ b.queues
  | .vmini _ _ a b _ | .vmaxi _ _ a b _ | .vcmpi _ _ a b _ => a.queues ++ b.queues
  | .vmov _ a _ | .vrot _ a _ _ => a.queues
  | .vsel _ a b _ _ => a.queues ++ b.queues
  | .plog _ (.fromv a) _ => a.queues
  | .vcvt _ _ _ a _ _ _ => a.queues
  | .vqnt _ _ a b _ _ _ | .vdqn _ _ a b _ _ _ => a.queues ++ b.queues
  | .vred _ _ a _ _ _ => a.queues
  | .vperm _ a b _ _ => a.queues ++ b.queues
  | .vpld a => a.queues
  | .vtwr _ _ a _ _ _ _ => a.queues
  | .gshf _ a b _ _ | .gpsh _ a b _ => a.queues ++ b.queues
  | .gred _ _ a _ _ _ | .gbcst _ a _ _ _ | .gscan _ _ _ a _ _ _ => a.queues
  | .ldv _ a _ _ | .ldm _ a _ _ _ _ => a.queues
  | .ldg _ a b _ _ => a.queues ++ b.queues
  | .ldmk _ a b _ _ | .ldx _ a b _ _ => a.queues ++ b.queues
  | .ldw _ _ _ a b _ _ => a.queues ++ b.queues
  | .stv v a _ _ => v.queues ++ a.queues
  | .stm _ a _ _ _ _ => a.queues
  | .stg v a c _ _ => v.queues ++ a.queues ++ c.queues
  | .stmk _ a c _ _ => a.queues ++ c.queues
  | .stx v a c _ _ => v.queues ++ a.queues ++ c.queues
  | _ => []

/-- The queue an instruction consumes or fills itself (02 R54, 11 R261, R276). -/
def Instr.consumes : Instr → Option (BitVec 3)
  | .cpyg .. => some 0
  | .ldb q3 _ _ _ => some (if q3 then 3 else 2)
  | _ => none

/-- The opcode of slot number i among the slot values. -/
def opcodeAt (vals : List (Nat × BitVec 64)) (i : Nat) : BitVec 8 :=
  match vals.lookup i with
  | some w => w.setWidth 8
  | none => 0

/-- R54: an instruction consumes a queue that its bundle names in an operand or pops. DESIGN CHOICE (log entry 126): the slot at
fault is the consuming instruction's. -/
def consumeErr (pop : BitVec 8) (is : List (Nat × Instr)) : Option Nat :=
  (is.find? (fun p => match p.2.consumes with
    | some k => pop.getLsbD k.toNat || is.any (fun q => q.2.queues.contains k)
    | none => false)).map (·.1)

/-- The slots that decode. -/
def goodSlots (vals : List (Nat × BitVec 64)) : List (Nat × Instr) :=
  vals.filterMap (fun v => match decodeSlot (slotSpec v.1).1 (slotSpec v.1).2.1 v.2 with
    | .ok i => some (v.1, i)
    | .error _ => none)
/-- Queue misuse at a slot before the first one that does not decode (02 R63). -/
def earlierMisuse (pop : BitVec 8) (vals : List (Nat × BitVec 64)) (e : BundleErr) : BundleErr :=
  match consumeErr pop (goodSlots vals) with
  | some i => if i < e.1.getD 0 then (some i, opcodeAt vals i, .queueConsumed) else e
  | none => e
def bundleOf (delay : BitVec 6) (pop : BitVec 8) (is : List (Nat × Instr)) : Bundle :=
  ⟨delay, pop, is.lookup 0, is.lookup 1, is.lookup 2, is.lookup 3, is.lookup 4, is.lookup 5, is.lookup 6, is.lookup 7, is.lookup 8⟩
/-- The slots before slot j of a bundle whose slot j is at fault. -/
def bundleBefore (bytes : List Byte) (j : Nat) : Bundle :=
  let hdr := BitVec.ofNat 32 (leNat (bytes.take 4))
  bundleOf (hdr.extractLsb' 17 6) (hdr.extractLsb' 9 8)
    ((goodSlots (slotValues (hdr.setWidth 9) (bytes.drop 4) 9 0)).filter (fun x => decide (x.1 < j)))

/-- Decode the bundle that a list of bytes begins with, and its length (02 R33–R36, R62). -/
def decodeBundle (bytes : List Byte) : Except BundleErr (Bundle × Nat) :=
  let hdr := BitVec.ofNat 32 (leNat (bytes.take 4))
  let present : BitVec 9 := hdr.setWidth 9
  let pop : BitVec 8 := hdr.extractLsb' 9 8
  let delay : BitVec 6 := hdr.extractLsb' 17 6
  let len := bundleLen hdr
  if bytes.length < 4 || bytes.length < len then .error (none, 0, .truncated)
  else if hdr.extractLsb' 23 9 ≠ 0 then .error (none, 0, .headerReserved)
  else if present = 0 then
    if leNat ((bytes.drop 4).take 4) ≠ 0 then .error (none, 0, .paddingNonzero)
    else .ok (⟨delay, pop, none, none, none, none, none, none, none, none, none⟩, 8)
  else
    let vals := slotValues present (bytes.drop 4) 9 0
    match decodeSlots vals with
    | .error e => .error (earlierMisuse pop vals e)
    | .ok is =>
      match consumeErr pop is with
      | some i => .error (some i, opcodeAt vals i, .queueConsumed)
      | none =>
        .ok (bundleOf delay pop is, len)

/-- The slots of a bundle with their numbers, in the order of R33. -/
def Bundle.slots (b : Bundle) : List (Nat × Instr) :=
  ([(0, b.s), (1, b.x), (2, b.v0), (3, b.v1), (4, b.t), (5, b.l), (6, b.w), (7, b.c), (8, b.y)]).filterMap
    (fun p => p.2.map (fun i => (p.1, i)))

/-- The bytes of a bundle whose one slot is Y with value w (02 R34, R36). -/
def yBundleBytes (w : Nat) : List Byte := leBytes 4 0x100 ++ leBytes 4 w

/-- The bytes that stand for a table word: a 32-bit word is a Y slot in a bundle of its own, a longer one is a
whole bundle, header first. -/
def tableBytes (nbits w : Nat) : List Byte :=
  if nbits ≤ 32 then yBundleBytes w else leBytes 60 w

/-- The instruction the decoder reads from a table word; bit 0 of w is the least significant bit of the first byte. -/
def decodeTableWord (nbits w : Nat) : Option Instr :=
  match decodeBundle (tableBytes nbits w) with
  | .error _ => none
  | .ok (b, _) =>
    match b.slots with
    | (_, i) :: _ => some i
    | [] => some (.delayOnly b.delay b.pop)

/-! The encoder, from the same tables. -/

def encVSrc : VSrc → BitVec 6
  | .reg r => r.setWidth 6
  | .queue k => 32 + k.setWidth 6
  | .spec n => 40 + n.setWidth 6
def encVDst : VDst → BitVec 6
  | .reg r => r.setWidth 6
  | .zero => 40
def encXSrc : XSrc → BitVec 6
  | .reg r => r.setWidth 6
  | .queue k => 32 + k.setWidth 6
  | .spec n => 40 + n.setWidth 6
def encXDst : XDst → BitVec 6
  | .reg r => r.setWidth 6
  | .zero => 40
def encTile : Tile → BitVec 6
  | .m r => r.setWidth 6
  | .c r => 8 + r.setWidth 6
def encC (r : CReg) : BitVec 6 := 8 + r.setWidth 6
def encXt (r : XReg) : BitVec 6 := 40 + r.setWidth 6
def encP (r : BitVec 3) : BitVec 6 := r.setWidth 6
def encFmt : Fmt → BitVec 4
  | .f32 => 0 | .bf16 => 1 | .f16 => 2 | .e4m3 => 3 | .e5m2 => 4 | .i8 => 5 | .i32 => 6 | .h4 => 7 | .lq2 => 8
  | .e8m0 => 9 | .tab => 15
def encRnd : Rnd → BitVec 2
  | .rne => 0 | .rtz => 1 | .rdn => 2 | .rup => 3
def encDir : Dir → BitVec 2
  | .row => 0 | .col => 1 | .diag => 2
def encCond : Cond → BitVec 3
  | .eq => 0 | .ne => 1 | .lt => 2 | .ge => 3 | .ltu => 4 | .geu => 5
def encFCond : FCond → BitVec 5
  | .eq => 0 | .ne => 1 | .lt => 2 | .le => 3 | .gt => 4 | .ge => 5 | .uno => 6 | .ord => 7
def encICond : ICond → BitVec 5
  | .eq => 0 | .ne => 1 | .lt => 2 | .le => 3 | .gt => 4 | .ge => 5 | .ltu => 8 | .leu => 9 | .gtu => 10 | .geu => 11
def encRed : RedOp → BitVec 4
  | .add => 0 | .min => 1 | .max => 2 | .iadd => 3 | .imin => 4 | .imax => 5 | .umin => 6 | .umax => 7
  | .and => 8 | .or => 9 | .xor => 10
def encScope : Scope → BitVec 3
  | .engine => 0 | .gang => 1 | .team => 2 | .die => 3 | .package => 4
def encStride : Stride → BitVec 2
  | .s8 => 0 | .s4 => 1 | .s16 => 2
def encSize : Size → BitVec 2
  | .b => 0 | .h => 1 | .w => 2 | .d => 3
def encAmo : AmoOp → BitVec 4
  | .add => 0 | .and => 1 | .or => 2 | .xor => 3 | .smin => 4 | .smax => 5 | .umin => 6 | .umax => 7 | .swap => 8
def encXField : XField → BitVec 2
  | .col => 0 | .row => 1 | .w0 => 2 | .w1 => 3
def encLayout : Layout → BitVec 2
  | .tup => 0 | .rm => 1 | .cm => 2 | .blk => 3
def encSred : SredOp → BitVec 3
  | .add => 0 | .min => 1 | .max => 2 | .and => 3 | .or => 4
def encCtr : Ctr → BitVec 3
  | .tile => 0 | .join => 1 | .pred => 2 | .copy => 3 | .store => 4
def encQid : QidSel → BitVec 8
  | .team => 0 | .nteam => 1 | .gang => 2 | .vdie => 3 | .loc => 4
def encCsr : Csr → BitVec 12
  | .lc k => k.setWidth 12 | .lnk => 4 | .abase => 8 | .cyc => 0x10 | .roff => 0x11 | .rgn => 0x12 | .ctx => 0x13
  | .stkd => 0x20 | .spare => 0x21 | .pdecl => 0x30 | .peff => 0x31
def encBit (b : Bool) : BitVec 1 := if b then 1 else 0
def encTab (t : Bool) : BitVec 4 := if t then 15 else 0
def encPlogOp : PlogOp → BitVec 5
  | .and => 0 | .or => 1 | .xor => 2 | .andn => 3

/-- Format A (02 R39). -/
def fA (op : BitVec 8) (dst opa opb opc : BitVec 6) (tail : BitVec 16) : BitVec 48 := tail ++ opc ++ opb ++ opa ++ dst ++ op
/-- Format A in the S and X slots: the tail holds fn in its low byte (02 R40). -/
def fAS (op : BitVec 8) (dst opa opb opc : BitVec 6) (fn : BitVec 8) : BitVec 48 := fA op dst opa opb opc ((0 : BitVec 8) ++ fn)
/-- Format I (02 R39). -/
def fI (op : BitVec 8) (dst opa : BitVec 6) (imm : BitVec 28) : BitVec 48 := imm ++ opa ++ dst ++ op
/-- Format J (02 R39). -/
def fJ (op : BitVec 8) (dst : BitVec 6) (imm : BitVec 32) : BitVec 48 := (0 : BitVec 2) ++ imm ++ dst ++ op
/-- Format B (02 R39). -/
def fB (op : BitVec 8) (opa opb : BitVec 6) (cond : BitVec 4) (off : BitVec 24) : BitVec 48 := off ++ cond ++ opb ++ opa ++ op
/-- The tail of a V instruction (02 R40). -/
def tV (p : BitVec 3) (fmt : BitVec 4) (rnd : BitVec 2) (sat : BitVec 1) (fn : BitVec 5) : BitVec 16 :=
  p ++ (0 : BitVec 1) ++ fmt ++ rnd ++ sat ++ fn
/-- The tail of an L or W instruction (02 R40). -/
def tL (p : BitVec 3) (fmt : BitVec 4) (byp : Bool) (fn : BitVec 6) : BitVec 16 :=
  p ++ (0 : BitVec 1) ++ fmt ++ (encBit byp).setWidth 2 ++ fn
/-- Format T (02 R41): the modifier bits are [55:32]. -/
def fT (op : BitVec 8) (dst opa opb opc : BitVec 6) (md : BitVec 24) (fa fb : BitVec 4) : BitVec 64 :=
  fb ++ fa ++ md ++ opc ++ opb ++ opa ++ dst ++ op
/-- Format C (02 R42). -/
def fC (op : BitVec 8) (desc : BitVec 3) (opa opb opc : BitVec 6) (bar : Option (BitVec 4)) (nb : BitVec 1) (cls : BitVec 2)
    (fn : BitVec 8) (mask : BitVec 16) : BitVec 64 :=
  let bb : BitVec 5 := match bar with | some b => (1 : BitVec 1) ++ b | none => 0
  mask ++ fn ++ cls ++ nb ++ bb ++ opc ++ opb ++ opa ++ (0 : BitVec 3) ++ desc ++ op
/-- Format YA (02 R43). -/
def fY (op : BitVec 8) (chan opa opb : BitVec 6) (fn sc : BitVec 3) : BitVec 32 := sc ++ fn ++ opb ++ opa ++ chan ++ op

def encVote (op : BitVec 8) (c : Cond) (rd : SReg) (a b : XSrc) : BitVec 48 :=
  fAS op rd (encXSrc a) (encXSrc b) 0 ((encCond c).setWidth 8)
def encXArith (op : BitVec 8) (d : XDst) (a : XSrc) (b : XB) (immBit : Nat) (low : BitVec 8) : BitVec 48 :=
  match b with
  | .src x => fAS op (encXDst d) (encXSrc a) (encXSrc x) 0 low
  | .imm n => fAS op (encXDst d) (encXSrc a) n 0 (low ||| ((1 : BitVec 8) <<< immBit))
def encFill : Fill → BitVec 6 × BitVec 1
  | .s r => (r, 1)
  | .imm n => (n, 0)

/-- S-slot encodings. -/
def encodeS : Instr → Option (BitVec 48)
  | .add d a b => some (fAS 0x01 d a b 0 0)
  | .sub d a b => some (fAS 0x02 d a b 0 0)
  | .and d a b => some (fAS 0x03 d a b 0 0)
  | .or d a b => some (fAS 0x04 d a b 0 0)
  | .xor d a b => some (fAS 0x05 d a b 0 0)
  | .andn d a b => some (fAS 0x06 d a b 0 0)
  | .shl d a b => some (fAS 0x07 d a b 0 0)
  | .shr d a b => some (fAS 0x08 d a b 0 0)
  | .sar d a b => some (fAS 0x09 d a b 0 0)
  | .min u d a b => some (fAS 0x0A d a b 0 ((encBit u).setWidth 8))
  | .max u d a b => some (fAS 0x0B d a b 0 ((encBit u).setWidth 8))
  | .cmp c d a b => some (fAS 0x0C d a b 0 ((encCond c).setWidth 8))
  | .sel d a b c => some (fAS 0x0D d a b c 0)
  | .popc d a => some (fAS 0x0E d a 0 0 0)
  | .clz d a => some (fAS 0x0F d a 0 0 0)
  | .mul d a b => some (fAS 0x10 d a b 0 0)
  | .mulh u d a b => some (fAS 0x11 d a b 0 ((encBit u).setWidth 8))
  | .div u d a b => some (fAS 0x12 d a b 0 ((encBit u).setWidth 8))
  | .rem u d a b => some (fAS 0x13 d a b 0 ((encBit u).setWidth 8))
  | .addi d a i => some (fI 0x18 d a i)
  | .li d i => some (fJ 0x19 d i)
  | .lih d i => some (fJ 0x1A d i)
  | .br c a b o => some (fB 0x20 a b ((encCond c).setWidth 4) o)
  | .jmp o => some (fB 0x21 0 0 0 o)
  | .jmpr a => some (fAS 0x22 0 a 0 0 0)
  | .call o => some (fB 0x23 0 0 0 o)
  | .ret => some (fAS 0x24 0 0 0 0 0)
  | .loop k o => some (fB 0x25 0 0 (k.setWidth 4) o)
  | .trap c => some (fI 0x26 0 0 (c.setWidth 28))
  | .exit => some (fAS 0x27 0 0 0 0 0)
  | .gif c l a b o => some (fB 0x30 (encXSrc a) (encXSrc b) (encBit l ++ encCond c) o)
  | .gelse o => some (fB 0x31 0 0 0 o)
  | .gend => some (fAS 0x32 0 0 0 0 0)
  | .goff (.cond c a b) => some (fAS 0x33 0 (encXSrc a) (encXSrc b) 0 ((encCond c).setWidth 8))
  | .goff .all => some (fAS 0x33 0 0 0 0 8)
  | .gany c d a b => some (encVote 0x34 c d a b)
  | .gall c d a b => some (encVote 0x35 c d a b)
  | .gcnt c d a b => some (encVote 0x36 c d a b)
  | .gmsk (.cond c a b) d => some (encVote 0x37 c d a b)
  | .gmsk .path d => some (fAS 0x37 d 0 0 0 0x08)
  | .gmsk .act d => some (fAS 0x37 d 0 0 0 0x10)
  | .gmsk .ret d => some (fAS 0x37 d 0 0 0 0x18)
  | .gsplit => some (fB 0x38 0 0 0 0)
  | .enq a b => some (fAS 0x40 0 a b 0 0)
  | .recd a => some (fAS 0x41 0 a 0 0 0)
  | .yield => some (fAS 0x42 0 0 0 0 0)
  | .prio a => some (fAS 0x43 0 a 0 0 0)
  | .qid s d => some (fAS 0x44 d 0 0 0 (encQid s))
  | .csrr d c => some (fI 0x50 d 0 ((encCsr c).setWidth 28))
  | .csrw c a => some (fI 0x51 0 a ((encCsr c).setWidth 28))
  | .qtop (.gangs a) d => some (fAS 0x52 d a 0 0 0)
  | .qtop .dies d => some (fAS 0x52 d 0 0 0 1)
  | .qtop .diam d => some (fAS 0x52 d 0 0 0 2)
  | .qdie d a b => some (fAS 0x53 d a b 0 0)
  | .fencei => some (fAS 0x54 0 0 0 0 0)
  | .bkpt => some (fAS 0x55 0 0 0 0 0)
  | .lds z d a o => some (fI 0x60 d a (encSize z ++ o))
  | .sts z d a o => some (fI 0x61 d a (encSize z ++ o))
  | .amo op w d a b => some (fAS 0x62 d a b 0 ((0 : BitVec 2) ++ (1 : BitVec 1) ++ encBit w ++ encAmo op))
  | .cas w d a b c => some (fAS 0x63 d a b c ((0 : BitVec 2) ++ (1 : BitVec 1) ++ encBit w ++ (0 : BitVec 4)))
  | _ => none

/-- X-slot encodings. -/
def encodeX : Instr → Option (BitVec 48)
  | .xli d i => some (fJ 0x01 (encXDst d) i)
  | .xmov d (.x a) => some (fAS 0x02 (encXDst d) (encXSrc a) 0 0 0)
  | .xmov d (.s a) => some (fAS 0x02 (encXDst d) a 0 0 1)
  | .xadd d a b => some (encXArith 0x03 d a b 0 0)
  | .xsub d a b => some (encXArith 0x04 d a b 0 0)
  | .xmul d a b => some (encXArith 0x05 d a b 0 0)
  | .xand d a b => some (encXArith 0x06 d a b 0 0)
  | .xxor d a b => some (encXArith 0x07 d a b 0 0)
  | .xshl d a b => some (encXArith 0x08 d a b 0 0)
  | .xshr d a b => some (encXArith 0x09 d a b 0 0)
  | .xpopc d a => some (fAS 0x0A (encXDst d) (encXSrc a) 0 0 0)
  | .xpfx d a b => some (fAS 0x0B (encXDst d) (encXSrc a) (encXSrc b) 0 0)
  | .xsel d a b c => some (fAS 0x14 (encXDst d) (encXSrc a) (encXSrc b) (encXSrc c) 0)
  | .xldc f d a => some (fAS 0x11 (encXDst d) (encXSrc a) 0 0 ((encXField f).setWidth 8))
  | .xadv st d a b => some (encXArith 0x12 d a b 2 ((encStride st).setWidth 8))
  | .xhash lg d a => some (fAS 0x13 (encXDst d) (encXSrc a) 0 0 (lg.setWidth 8))
  | .xcmpa ra rb sa sb a b d => some (fAS 0x10 (encXDst d) (a.setWidth 6) (b.setWidth 6) 0
      ((0 : BitVec 2) ++ encStride sb ++ encStride sa ++ encBit rb ++ encBit ra))
  | _ => none

def encV2 (op : BitVec 8) (d : VDst) (a b : VSrc) (t : BitVec 16) : BitVec 48 := fA op (encVDst d) (encVSrc a) (encVSrc b) 0 t
def encV1 (op : BitVec 8) (d : VDst) (a : VSrc) (t : BitVec 16) : BitVec 48 := fA op (encVDst d) (encVSrc a) 0 0 t

/-- V-slot encodings. -/
def encodeV : Instr → Option (BitVec 48)
  | .vaddf d a b t r s p => some (encV2 0x01 d a b (tV p (encTab t) (encRnd r) (encBit s) 0))
  | .vsubf d a b t r s p => some (encV2 0x02 d a b (tV p (encTab t) (encRnd r) (encBit s) 0))
  | .vmulf d a b t r s p => some (encV2 0x03 d a b (tV p (encTab t) (encRnd r) (encBit s) 0))
  | .vfmaf d a b c t r s p => some (fA 0x04 (encVDst d) (encVSrc a) (encVSrc b) (encVSrc c) (tV p (encTab t) (encRnd r) (encBit s) 0))
  | .vminf d a b t p => some (encV2 0x05 d a b (tV p (encTab t) 0 0 0))
  | .vmaxf d a b t p => some (encV2 0x06 d a b (tV p (encTab t) 0 0 0))
  | .vcmpf c d a b t p => some (fA 0x07 (encP d) (encVSrc a) (encVSrc b) 0 (tV p (encTab t) 0 0 (encFCond c)))
  | .vrcp d a t p => some (encV1 0x08 d a (tV p (encTab t) 0 0 0))
  | .vrsq d a t p => some (encV1 0x09 d a (tV p (encTab t) 0 0 0))
  | .vex2 d a t p => some (encV1 0x0A d a (tV p (encTab t) 0 0 0))
  | .vlg2 d a t p => some (encV1 0x0B d a (tV p (encTab t) 0 0 0))
  | .vtanh d a t p => some (encV1 0x0C d a (tV p (encTab t) 0 0 0))
  | .vaddi d a b s p => some (encV2 0x10 d a b (tV p 0 0 (encBit s) 0))
  | .vsubi d a b s p => some (encV2 0x11 d a b (tV p 0 0 (encBit s) 0))
  | .vmuli d a b s p => some (encV2 0x12 d a b (tV p 0 0 (encBit s) 0))
  | .vmulhi u d a b p => some (encV2 0x13 d a b (tV p 0 0 0 ((encBit u).setWidth 5)))
  | .vand d a b p => some (encV2 0x14 d a b (tV p 0 0 0 0))
  | .vor d a b p => some (encV2 0x15 d a b (tV p 0 0 0 0))
  | .vxor d a b p => some (encV2 0x16 d a b (tV p 0 0 0 0))
  | .vshl d a b p => some (encV2 0x17 d a b (tV p 0 0 0 0))
  | .vshr d a b p => some (encV2 0x18 d a b (tV p 0 0 0 0))
  | .vsar d a b p => some (encV2 0x19 d a b (tV p 0 0 0 0))
  | .vmini u d a b p => some (encV2 0x1A d a b (tV p 0 0 0 ((encBit u).setWidth 5)))
  | .vmaxi u d a b p => some (encV2 0x1B d a b (tV p 0 0 0 ((encBit u).setWidth 5)))
  | .vcmpi c d a b p => some (fA 0x1C (encP d) (encVSrc a) (encVSrc b) 0 (tV p 0 0 0 (encICond c)))
  | .vmov d a p => some (encV1 0x20 d a (tV p 0 0 0 0))
  | .vli d i => some (fJ 0x21 (encVDst d) i)
  | .vbcs d s p => some (fA 0x22 (encVDst d) s 0 0 (tV p 0 0 0 0))
  | .vsel d a b c p => some (fA 0x23 (encVDst d) (encVSrc a) (encVSrc b) (encP c) (tV p 0 0 0 0))
  | .vcvt f src d a r s p => some (encV1 0x24 d a (tV p (encFmt f) (encRnd r) (encBit s) ((encFmt src).setWidth 5)))
  | .vqnt f d a b r s p => some (encV2 0x25 d a b (tV p (encFmt f) (encRnd r) (encBit s) 0))
  | .vdqn f d a b r s p => some (encV2 0x26 d a b (tV p (encFmt f) (encRnd r) (encBit s) 0))
  | .vred o d a r s p => some (encV1 0x27 d a (tV p 0 (encRnd r) (encBit s) ((encRed o).setWidth 5)))
  | .vperm d a b e p => some (encV2 0x28 d a b (tV p 0 0 0 e))
  | .vpld a => some (fA 0x29 0 (encXSrc a) 0 0 0)
  | .vpldSwap => some (fA 0x29 0 0 0 0 1)
  | .vrot d a n p => some (encV1 0x2A d a (tV p 0 0 0 (n.setWidth 5)))
  | .vtrd f d t dir i g p => some (fA 0x2B (encVDst d) (encTile t) (i.setWidth 6) 0 (tV p (encFmt f) 0 0 (g ++ encDir dir)))
  | .vtwr f t a dir i g p => some (fA 0x2C (encTile t) (encVSrc a) (i.setWidth 6) 0 (tV p (encFmt f) 0 0 (g ++ encDir dir)))
  | .plog d (.bin o a b) p => some (fA 0x2D (encP d) (encP a) (encP b) 0 (tV p 0 0 0 (encPlogOp o)))
  | .plog d (.not a) p => some (fA 0x2D (encP d) (encP a) 0 0 (tV p 0 0 0 4))
  | .plog d (.mov a) p => some (fA 0x2D (encP d) (encP a) 0 0 (tV p 0 0 0 5))
  | .plog d (.fromv a) p => some (fA 0x2D (encP d) (encVSrc a) 0 0 (tV p 0 0 0 6))
  | .epset (.set a) => some (fA 0x2E 0 (encVSrc a) 0 0 0)
  | .epset (.and a) => some (fA 0x2E 0 (encVSrc a) 0 0 1)
  | .epset .all => some (fA 0x2E 0 0 0 0 2)
  | .gshf d a b f p => some (fA 0x30 (encVDst d) (encVSrc a) (encVSrc b) (encFill f).1 (tV p 0 0 0 ((encFill f).2.setWidth 5)))
  | .gpsh d a b p => some (encV2 0x31 d a b (tV p 0 0 0 0))
  | .gred o d a r s p => some (encV1 0x32 d a (tV p 0 (encRnd r) (encBit s) ((encRed o).setWidth 5)))
  | .gbcst d a n f p => some (fA 0x33 (encVDst d) (encVSrc a) 0 (encFill f).1 (tV p 0 0 0 (n ++ (encFill f).2)))
  | .gscan o ex d a r s p => some (encV1 0x34 d a (tV p 0 (encRnd r) (encBit s) (encBit ex ++ encRed o)))
  | _ => none

/-- T-slot encodings; the modifier word is rotc, rotb, rota, rotd, dirc, dirb, dira, dird from the top. -/
def encodeT : Instr → Option (BitVec 64)
  | .mma fa fb c a b rb => some (fT 0x01 (encC c) (encP a) (encP b) 0 ((rb.setWidth 4) ++ (0 : BitVec 20)) (encFmt fa) (encFmt fb))
  | .mmag fa fb c a x g rb => some (fT 0x02 (encC c) (encP a) (encXt x) (BitVec.ofNat 6 g.val) ((rb.setWidth 4) ++ (0 : BitVec 20)) (encFmt fa) (encFmt fb))
  | .tzero t => some (fT 0x03 (encTile t) 0 0 0 0 0 0)
  | .ttrn f td ta dir rot => some (fT 0x04 (encTile td) (encTile ta) 0 0
      ((0 : BitVec 8) ++ rot ++ (0 : BitVec 8) ++ encDir dir ++ (0 : BitVec 2)) (encFmt f) 0)
  | .tdec fa fb d a => some (fT 0x05 (encP d) (encP a) 0 0 0 (encFmt fa) (encFmt fb))
  | .cbld a => some (fT 0x06 0 (encXt a) 0 0 0 0 0)
  | .fmtw a e => some (fT 0x07 0 (encXt a) (e.setWidth 6) 0 0 0 0)
  | .shset a => some (fT 0x08 0 (encXt a) 0 0 0 0 0)
  | .acfg a b => some (fT 0x10 0 (encXt a) (encXt b) 0 0 0 0)
  | .aclr => some (fT 0x11 0 0 0 0 0 0 0)
  | .join fa fb d a b o => some (fT 0x12 (encXt d) (encXt a) (encXt b) (encXt o) 0 (encFmt fa) (encFmt fb))
  | .jins f d a => some (fT 0x13 (encXt d) (encXt a) 0 0 0 (encFmt f) 0)
  | .adrn lay f d a b => some (fT 0x14 (encXt d) (encXt a) (if lay = .tup then 0 else encXt b) 0
      ((0 : BitVec 8) ++ (encLayout lay).setWidth 4 ++ (0 : BitVec 12)) (encFmt f) 0)
  | .afold c a => some (fT 0x15 (encC c) (encXt a) 0 0 0 0 0)
  | .aspl d => some (fT 0x16 (encXt d) 0 0 0 0 0 0)
  | .ard (.key a) d => some (fT 0x17 (encXt d) (encXt a) 0 0 0 0 0)
  | .ard s d =>
    let n : BitVec 4 := match s with
      | .key _ => 0 | .st => 1 | .occ => 2 | .cfg => 3 | .spl => 4 | .org => 5 | .sres => 6 | .sover => 7
    some (fT 0x17 (encXt d) 0 0 0 ((0 : BitVec 12) ++ n ++ (0 : BitVec 8)) 0 0)
  | .awr (.key a b) => some (fT 0x18 0 (encXt a) (encXt b) 0 0 0 0)
  | .awr (.st a) => some (fT 0x18 0 (encXt a) 0 0 ((0 : BitVec 8) ++ (1 : BitVec 4) ++ (0 : BitVec 12)) 0 0)
  | .awr (.org a) => some (fT 0x18 0 (encXt a) 0 0 ((0 : BitVec 8) ++ (5 : BitVec 4) ++ (0 : BitVec 12)) 0 0)
  | .awr (.sres a) => some (fT 0x18 0 (encXt a) 0 0 ((0 : BitVec 8) ++ (6 : BitVec 4) ++ (0 : BitVec 12)) 0 0)
  | .awr (.sover a) => some (fT 0x18 0 (encXt a) 0 0 ((0 : BitVec 8) ++ (7 : BitVec 4) ++ (0 : BitVec 12)) 0 0)
  | .pred f d a => some (fT 0x20 (encXt d) (encXt a) 0 0 0 (encFmt f) 0)
  | .pchk f d a e => some (fT 0x21 (encXt d) (encXt a) 0 (encXt e) 0 (encFmt f) 0)
  | _ => none

/-- L-slot encodings. -/
def encodeL : Instr → Option (BitVec 48)
  | .ldv d a h p => some (fA 0x01 (encVDst d) (encXSrc a) 0 0 (tL p 0 h 0))
  | .ldm t a dir i h p => some (fA 0x02 (encTile t) (encXSrc a) 0 0 (tL p 0 h (encDir dir ++ i)))
  | .ldg d a v h p => some (fA 0x03 (encVDst d) (encXSrc a) (encVSrc v) 0 (tL p 0 h 0))
  | .ldmk m a b rb h => some (fA 0x04 (encP m) (encXSrc a) (encXSrc b) 0 (tL 0 0 h (rb.setWidth 6)))
  | .ldx d a b h p => some (fA 0x05 (encVDst d) (encXSrc a) (encXSrc b) 0 (tL p 0 h 0))
  | .ldb q a n h => some (fA 0x06 0 (encXSrc a) 0 0 (tL 0 0 h ((0 : BitVec 1) ++ n ++ encBit q)))
  | .ldw s d m a xs row h => some (fA 0x07 (encP m) (encXSrc a) (encXSrc xs) (row.setWidth 6) (tL 0 (encFmt s) h ((encFmt d).setWidth 6)))
  | _ => none

/-- W-slot encodings. -/
def encodeW : Instr → Option (BitVec 48)
  | .stv v a h p => some (fA 0x01 0 (encXSrc a) (encVSrc v) 0 (tL p 0 h 0))
  | .stm t a dir i h p => some (fA 0x02 0 (encXSrc a) (encTile t) 0 (tL p 0 h (encDir dir ++ i)))
  | .stg v a c h p => some (fA 0x03 0 (encXSrc a) (encVSrc v) (encVSrc c) (tL p 0 h 0))
  | .stmk m a c rb h => some (fA 0x04 0 (encXSrc a) (encP m) (encXSrc c) (tL 0 0 h (rb.setWidth 6)))
  | .stx v a c h p => some (fA 0x05 0 (encXSrc a) (encVSrc v) (encXSrc c) (tL p 0 h 0))
  | _ => none

/-- C-slot encodings. -/
def encodeC : Instr → Option (BitVec 64)
  | .dset d n a => some (fC 0x01 d a 0 0 none 0 0 (n.setWidth 8) 0)
  | .cpy d a b cls bar => some (fC 0x02 d a b 0 bar 0 cls 0 0)
  | .cpyg d a m cls bar => some (fC 0x03 d a 0 0 bar 0 cls 0 m)
  | .cpsh d a b none cls bar => some (fC 0x04 d a b 0 bar 0 cls 0 0)
  | .cpsh d a b (some c) cls bar => some (fC 0x04 d a b c bar 1 cls 0 0)
  | .cmc d a b m cls bar => some (fC 0x05 d a b 0 bar 0 cls 0 m)
  | .cprf d cls bar => some (fC 0x06 d 0 0 0 bar 0 cls 0 0)
  | .cfls d cls bar => some (fC 0x07 d 0 0 0 bar 0 cls 0 0)
  | .cinv d cls bar => some (fC 0x08 d 0 0 0 bar 0 cls 0 0)
  | .cfil d a b cls bar => some (fC 0x09 d a b 0 bar 0 cls 0 0)
  | _ => none

/-- Y-slot encodings. -/
def encodeY : Instr → Option (BitVec 32)
  | .wait ts tj tc tt => some (ts ++ tj ++ tc ++ tt ++ (0x01 : BitVec 8))
  | .waitr c a => some (fY 0x02 0 a 0 (encCtr c) 0)
  | .bari b a => some (fY 0x03 (b.setWidth 6) a 0 0 0)
  | .bara b => some (fY 0x04 (b.setWidth 6) 0 0 0 0)
  | .barw b => some (fY 0x05 (b.setWidth 6) 0 0 0 0)
  | .barx b => some (fY 0x06 (b.setWidth 6) 0 0 0 0)
  | .syna s c => some (fY 0x07 c 0 0 0 (encScope s))
  | .synw s c => some (fY 0x08 c 0 0 0 (encScope s))
  | .sbc s c a => some (fY 0x09 c a 0 1 (encScope s))
  | .sbcRd s c d => some (fY 0x09 c 0 d 0 (encScope s))
  | .sred o s c d a => some (fY 0x0A c a d (encSred o) (encScope s))
  | .fence s => some (fY 0x0B 0 0 0 0 (encScope s))
  | .acq s => some (fY 0x0C 0 0 0 0 (encScope s))
  | .rel s => some (fY 0x0D 0 0 0 0 (encScope s))
  | .acqr d a => some (fY 0x0E 0 a d 0 4)
  | .time c d => some (fY 0x0F 0 0 d ((encBit c).setWidth 3) 0)
  | _ => none

/-- The slot and the zero-extended slot value of a slot instruction; an event has none. -/
def encode (i : Instr) : Option (SlotKind × BitVec 64) :=
  match encodeS i with
  | some w => some (.s, w.setWidth 64)
  | none =>
  match encodeX i with
  | some w => some (.x, w.setWidth 64)
  | none =>
  match encodeV i with
  | some w => some (.v, w.setWidth 64)
  | none =>
  match encodeT i with
  | some w => some (.t, w)
  | none =>
  match encodeL i with
  | some w => some (.l, w.setWidth 64)
  | none =>
  match encodeW i with
  | some w => some (.w, w.setWidth 64)
  | none =>
  match encodeC i with
  | some w => some (.c, w)
  | none =>
  match encodeY i with
  | some w => some (.y, w.setWidth 64)
  | none => none

end Sys2Proof
end

