-- ==== Sys2Proof/Machine/Ops.lean ====
section
/-! DEFINITION. The named operations over the state: gangs, engines, paths, time, device windows, scratchpad and
accumulator words, results in flight, and taking an exception (21 R411–R414). -/

namespace Sys2Proof.Machine

abbrev Outcome := Host.Outcome State Fault Refusal

/-! Parts of the state. A gang is numbered 960 · (G-die) + (physical gang) (01 R10, R13, 22 R432). -/

def gangDie (g : Nat) : Nat := g / 960
def gangPhys (g : Nat) : Nat := g % 960
/-- The pair of a gang (two physical gangs 2n and 2n + 1, R432). -/
def gangPair (g : Nat) : Nat := g / 2
def partnerOf (g : Nat) : Nat := if g % 2 = 0 then g + 1 else g - 1
/-- Region number of a gang: west field pairs 0–239, east field pairs 240–479 (09 R224, 22 R432). -/
def gangRegion (g : Nat) : Nat := 2 * gangDie g + (if gangPhys g / 2 < 240 then 0 else 1)

def getGang (s : State) (g : Nat) : Gang := (spFind s.gangs g).getD Gang.start
def setGang (s : State) (g : Nat) (G : Gang) : State := { s with gangs := spPut s.gangs g G }
def modGang (s : State) (g : Nat) (f : Gang → Gang) : State := setGang s g (f (getGang s g))

def getEng (G : Gang) (e : Nat) : Engine := (spFind G.eng e).getD Engine.start
def setEng (G : Gang) (e : Nat) (E : Engine) : Gang := { G with eng := spPut G.eng e E }
def modEng (G : Gang) (e : Nat) (f : Engine → Engine) : Gang := setEng G e (f (getEng G e))

def getHw (G : Gang) (e : Nat) : EngineHw := (spFind G.hw e).getD EngineHw.clear
def modHw (G : Gang) (e : Nat) (f : EngineHw → EngineHw) : Gang := { G with hw := spPut G.hw e (f (getHw G e)) }

def getPath (G : Gang) : PathSlot → Path
  | .A => G.a
  | .B => G.b
def setPath (G : Gang) (p : PathSlot) (P : Path) : Gang :=
  match p with
  | .A => { G with a := P }
  | .B => { G with b := P }
def modPath (G : Gang) (p : PathSlot) (f : Path → Path) : Gang := setPath G p (f (getPath G p))
def otherSlot : PathSlot → PathSlot
  | .A => .B
  | .B => .A

def getPair (s : State) (pr : Nat) : Pair := (spFind s.pairs pr).getD Pair.clear
def modPair (s : State) (pr : Nat) (f : Pair → Pair) : State := { s with pairs := spPut s.pairs pr (f (getPair s pr)) }
def getDie (s : State) (d : Nat) : GDie := (spFind s.dies d).getD GDie.clear
def modDie (s : State) (d : Nat) (f : GDie → GDie) : State := { s with dies := spPut s.dies d (f (getDie s d)) }
def getTeam (s : State) (t : Nat) : Option Team := spFind s.teams t
def modTeam (s : State) (t : Nat) (f : Team → Team) : State :=
  match spFind s.teams t with
  | some T => { s with teams := spPut s.teams t (f T) }
  | none => s

/-- The team that runs on a gang. -/
def gangTeam (s : State) (g : Nat) : Option Team := (getGang s g).team.bind (getTeam s)

/-- Whatever a gang's team holds of each engine (15 R353): window base and length, accumulator base and steps,
admission slot. A gang without a team holds nothing. -/
structure Win where
  base : Nat
  len : Nat
  accBase : Nat
  acc : Nat
  slot : Nat
  deriving DecidableEq, Repr
def teamWin (T : Team) : Win := ⟨T.spBase, T.spLen, T.accBase, T.accSteps, T.slot⟩
def gangWin (s : State) (g : Nat) : Win :=
  match gangTeam s g with
  | some T => teamWin T
  | none => ⟨0, 0, 0, 0, 0⟩

/-- The current gang and path of an issue (02 R48). -/
def curGang (s : State) : Gang := getGang s s.cur.gang
def curPath (s : State) : Path := getPath (curGang s) s.cur.path
def modCur (s : State) (f : Gang → Gang) : State := modGang s s.cur.gang f
def modCurPath (s : State) (f : Path → Path) : State := modCur s (fun G => modPath G s.cur.path f)

/-! Time (09 R222, R223). -/

/-- Main cycles since package time 0. -/
def nowCyc (s : State) : Nat := 4 * s.tick + s.sub
def ptime (s : State) : DWord := BitVec.ofNat 64 s.tick
/-- The package cycle P. -/
def pkgCycle (s : State) : DWord := BitVec.ofNat 64 (nowCyc s)
/-- The local cycle counter of a region: P − roff. -/
def localCyc (s : State) (r : Nat) : DWord := pkgCycle s - spGet 0 s.roff r

/-! Free values (log entry 5). -/

/-- Free value k of the step in progress. In a path's chance the checks and the effects of its bundle see the same ones, whatever
an earlier slot has drawn. -/
def freeAt (s : State) (k : Nat) : Nat := Config.freeNat (s.cur.base.getD s.free + k)
def drawFree (s : State) : Nat × State := (Config.freeNat s.free, { s with free := s.free + 1 })

/-! Device windows, kept as 64-bit words (19 R385). -/

def devBase : Nat := 0xF00000000000
def devGet (s : State) (pa : Nat) : DWord := spGet 0 s.dev ((pa - devBase) / 8)
def devSet (s : State) (pa : Nat) (v : DWord) : State := { s with dev := spSet 0 s.dev ((pa - devBase) / 8) v }
def dbits (v : DWord) (hi lo : Nat) : Nat := v.toNat / 2 ^ lo % 2 ^ (hi + 1 - lo)
/-- A field of a word replaced. -/
def dput (v : DWord) (hi lo : Nat) (x : Nat) : DWord :=
  let w := hi + 1 - lo
  BitVec.ofNat 64 (v.toNat - dbits v hi lo * 2 ^ lo + x % 2 ^ w * 2 ^ lo)
/-- A field of a number of any width. -/
def nbits (v hi lo : Nat) : Nat := v / 2 ^ lo % 2 ^ (hi + 1 - lo)

def ctxBlock (c : Nat) : Nat := devBase + 0x4000 * c
def dieWin (d : Nat) : Nat := devBase + 0x10000000 + 0x100000 * d

/-- State of a context (19 R382): 1 active. -/
def ctxState (s : State) (c : Nat) : Nat := dbits (devGet s (ctxBlock c)) 1 0
def ctxActive (s : State) (c : Nat) : Bool := ctxState s c == 1
/-- First-level table address, lease exponent, switch threshold, migration age, D and the number of dies. -/
def ctxRoot (s : State) (c : Nat) : Nat := dbits (devGet s (ctxBlock c + 8)) 31 0 * 2 ^ 16
def ctxLease (s : State) (c : Nat) : Nat := dbits (devGet s (ctxBlock c + 32)) 28 24
def ctxMiga (s : State) (c : Nat) : Nat := dbits (devGet s (ctxBlock c + 32)) 36 32
def ctxSwth (s : State) (c : Nat) : Nat := dbits (devGet s (ctxBlock c + 32)) 63 48
def ctxDiam (s : State) (c : Nat) : Nat := dbits (devGet s (ctxBlock c + 40)) 3 0
def ctxNdie (s : State) (c : Nat) : Nat := dbits (devGet s (ctxBlock c + 40)) 15 8
/-- Entry v of the virtual die table (R387). -/
def vdValid (s : State) (c v : Nat) : Bool := v < 20 && (devGet s (ctxBlock c + 0x100 + 16 * v)).getLsbD 0
def vdPhys (s : State) (c v : Nat) : Nat := dbits (devGet s (ctxBlock c + 0x100 + 16 * v)) 12 8
def vdBanks (s : State) (c v : Nat) : Nat := dbits (devGet s (ctxBlock c + 0x100 + 16 * v)) 63 48
/-- A virtual die of the partition of an active context. -/
def vdIn (s : State) (c v : Nat) : Bool := vdValid s c v
/-- The virtual die that stands for G-die d. -/
def vdOf (s : State) (c d : Nat) : Option Nat := (List.range 20).find? (fun v => vdValid s c v && vdPhys s c v == d)
/-- Channel head c of a context (R388). -/
def chHead (s : State) (c ch : Nat) : DWord := devGet s (ctxBlock c + 0x800 + 16 * ch)
def chGiven (s : State) (c ch : Nat) : Bool := (chHead s c ch).getLsbD 0
def chGrid (s : State) (c ch : Nat) : Nat := dbits (chHead s c ch) 47 32
def chPkg (s : State) (c ch : Nat) : Bool := (chHead s c ch).getLsbD 15

/-- The k-th set bit of a bank mask (15 R346). -/
def nthBit (mask width k : Nat) : Option Nat := ((List.range width).filter (fun b => mask.testBit b))[k]?
def bankOf (s : State) (c v k : Nat) : Option Nat := if vdIn s c v then nthBit (vdBanks s c v) 16 k else none
/-- Index of a physical bank among the context's banks of a die. -/
def bankIndex (mask b : Nat) : Nat := ((List.range b).filter (fun i => mask.testBit i)).length
def bankOwner (s : State) (d b : Nat) : Option Nat :=
  let w := devGet s (dieWin d + 0x1000 * b + 0x40)
  if w.getLsbD 12 then some (dbits w 11 0) else none

/-! The gang map (22 R432): logical gang numbers of a die. -/

def mapPair (s : State) (d p : Nat) : Nat :=
  let w := devGet s (dieWin d + 0x28000 + p / 4 * 8)
  dbits w (16 * (p % 4) + 15) (16 * (p % 4))
def enabledGangs (s : State) (d : Nat) : Nat := (getDie s d).enabled
/-- Gangs of a die whose pairs are whole. -/
def pairedGangs (D : GDie) : Nat := D.enabled - D.lone.length
/-- The gang of logical number l; gangs without a partner are the last ones of their die (log entry 61). -/
def gangOfLogical (s : State) (d l : Nat) : Nat :=
  let D := getDie s d
  match D.lone[l - pairedGangs D]? with
  | some ph => if l < pairedGangs D then 960 * d + 2 * mapPair s d (l / 2) + l % 2 else 960 * d + ph
  | none => 960 * d + 2 * mapPair s d (l / 2) + l % 2
def logicalOf (s : State) (g : Nat) : Nat :=
  let d := gangDie g
  let D := getDie s d
  if D.lone.contains (gangPhys g) then pairedGangs D + D.lone.idxOf (gangPhys g)
  else 2 * ((List.range 480).find? (fun p => mapPair s d p == gangPhys g / 2)).getD 0 + gangPhys g % 2
/-- The locator of an engine of a gang for a context (11 R267). DEDUCED (log entry 142): a fault buffer entry's loc holds it with the
logical gang number too (19 R397; 22 R432). -/
def locator (s : State) (c g e : Nat) : Nat :=
  (vdOf s c (gangDie g)).getD 0 * 2 ^ 16 + logicalOf s g % 4096 * 16 + e
/-- The gang a locator names, if it lies in the partition (R267). -/
def locGang (s : State) (c : Nat) (loc : Word) : Option Nat :=
  let v := nbits loc.toNat 23 16
  let l := nbits loc.toNat 15 4
  if nbits loc.toNat 31 24 = 0 && vdIn s c v then
    (if l < enabledGangs s (vdPhys s c v) then some (gangOfLogical s (vdPhys s c v) l) else none)
  else none

/-! Registers. -/

def maskBit (m : Mask) (e : Nat) : Bool := m.getLsbD e
def lanes512 (f : Nat → Word) : BitVec 512 :=
  BitVec.ofNat 512 ((List.range 16).foldl (fun a i => a + (f i).toNat * 2 ^ (32 * i)) 0)
def lane (v : BitVec 512) (i : Nat) : Word := v.extractLsb' (32 * i) 32
def sReg (G : Gang) (r : Nat) : DWord := spGet 0 G.s r
def xRegE (E : Engine) (r : Nat) : Word := spGet 0 E.x r
def vRegE (E : Engine) (r : Nat) : BitVec 512 := spGet 0 E.v r
/-- p0 reads all ones (05 R119). -/
def pRegE (E : Engine) (r : Nat) : Half := if r = 0 then 0xFFFF else spGet 0 E.p r
def mRow (E : Engine) (m r : Nat) : BitVec 512 := spGet 0 E.m (16 * m + r)

def setXE (r : Nat) (v : Word) (E : Engine) : Engine := { E with x := spSet 0 E.x r v }
def setVE (r : Nat) (v : BitVec 512) (E : Engine) : Engine := { E with v := spSet 0 E.v r v }
/-- Writing p0 has no effect (05 R119). -/
def setPE (r : Nat) (v : Half) (E : Engine) : Engine := if r = 0 then E else { E with p := spSet 0 E.p r v }
def setMRow (m r : Nat) (v : BitVec 512) (E : Engine) : Engine := { E with m := spSet 0 E.m (16 * m + r) v }

/-- Lanes of `new` under a lane mask, the others of `old`. -/
def blend (mask : Half) (new old : BitVec 512) : BitVec 512 :=
  lanes512 (fun i => if mask.getLsbD i then lane new i else lane old i)

/-! Scratchpad bytes and accumulator words of an engine, by the team's own addresses (15 R353). -/

def granBad (H : EngineHw) (a : Nat) : Bool := H.spadBad.contains (a / 8)
def spadByte (H : EngineHw) (W : Win) (a : Nat) : Byte := spGet 0 H.spad (W.base + a)
def spadBytes (H : EngineHw) (W : Win) (a n : Nat) : List Byte := (List.range n).map (fun i => spadByte H W (a + i))
def spadWord (H : EngineHw) (W : Win) (a : Nat) : Word := BitVec.ofNat 32 (leNat (spadBytes H W a 4))
def spadBadIn (H : EngineHw) (W : Win) (a n : Nat) : Bool := (List.range n).any (fun i => granBad H (W.base + a + i))

/-- Physical writes to a scratchpad. A poisoned granule takes only a write of all its bytes (08 R211). -/
def spadPut (H : EngineHw) (ws : List (Nat × Byte)) : EngineHw :=
  let whole (g : Nat) : Bool := (List.range 8).all (fun i => ws.any (fun w => w.1 == 8 * g + i))
  { H with
    spad := ws.foldl (fun m w => if granBad H w.1 && !whole (w.1 / 8) then m else spSet 0 m w.1 w.2) H.spad
    spadBad := H.spadBad.filter (fun g => !whole g) }
def spadPutBytes (H : EngineHw) (W : Win) (a : Nat) (bs : List Byte) : EngineHw :=
  spadPut H (bs.zipIdx.map (fun p => (W.base + a + p.2, p.1)))

/-- Word of accumulator tile c, row and column (06 R161): tile c lies in step c/4 of the team. -/
def accIndex (W : Win) (c row col : Nat) : Nat := W.accBase * 1024 + c * 256 + row * 16 + col
def accWord (H : EngineHw) (W : Win) (c row col : Nat) : Word := spGet 0 H.acc (accIndex W c row col)
/-- Physical writes to the accumulator file. A poisoned 64-bit entry takes only a write of both words (08 R211). -/
def accPut (H : EngineHw) (ws : List (Nat × Word)) : EngineHw :=
  let whole (g : Nat) : Bool := (List.range 2).all (fun i => ws.any (fun w => w.1 == 2 * g + i))
  { H with
    acc := ws.foldl (fun m w => if H.accBad.contains (w.1 / 2) && !whole (w.1 / 2) then m else spSet 0 m w.1 w.2) H.acc
    accBad := H.accBad.filter (fun g => !whole g) }

/-- Tiles that are dense under the last ACFG (06 R144, R161); the whole of the team's steps at team start. An
ACFG still outstanding counts. The configuration word of team start stands as dense = acc. -/
def cfgWord (G : Gang) (e : Nat) : Word × Word :=
  match (G.tops.filter (fun o => o.eng == e && (match o.ins with | .acfg .. => true | _ => false))).getLast? with
  | some o => (o.xa, o.xb)
  | none => ((getEng G e).cfgA, (getEng G e).cfgB)
def cfgDense (w : Word) : Nat := nbits w.toNat 11 8
def denseTiles (G : Gang) (e : Nat) : Nat := 4 * cfgDense (cfgWord G e).1
/-- N of the keyed table, 0 where none is configured. -/
def cfgN (acc : Nat) (w : Word) : Nat := if cfgDense w < acc then 2 ^ nbits w.toNat 3 0 else 0
def cfgP (w : Word) : Nat := nbits w.toNat 7 4 + 1

/-! Tile lines and element groups (05 R134, 11 R259). -/

/-- Column of lane i in a line or group. -/
def lineCol (dir : Dir) (idx i : Nat) : Nat :=
  match dir with
  | .row => i
  | .col => idx
  | .diag => (i + idx) % 16
def lineRow (dir : Dir) (idx i : Nat) : Nat :=
  match dir with
  | .row => idx
  | .col => i
  | .diag => i
/-- Element of width w of a 64-byte row (04 R92). -/
def rowElem (row : BitVec 512) (w j : Nat) : Nat := row.toNat / 2 ^ (w * j) % 2 ^ w
def putElem (row : BitVec 512) (w j x : Nat) : BitVec 512 :=
  BitVec.ofNat 512 (row.toNat - rowElem row w j * 2 ^ (w * j) + x % 2 ^ w * 2 ^ (w * j))

/-- Read lane i of group g of a tile, zero-extended. -/
def tileElem (G : Gang) (W : Win) (e : Nat) (t : Tile) (dir : Dir) (idx w g i : Nat) : Word :=
  match t with
  | .m r => BitVec.ofNat 32 (rowElem (mRow (getEng G e) r.toNat (lineRow dir idx i)) w (16 * g + lineCol dir idx i))
  | .c r => accWord (getHw G e) W r.toNat (lineRow dir idx i) (lineCol dir idx i)

/-- Write lane i of group g of a tile. -/
def putTileElem (W : Win) (e : Nat) (t : Tile) (dir : Dir) (idx w g i : Nat) (v : Word) (G : Gang) : Gang :=
  match t with
  | .m r =>
    let row := lineRow dir idx i
    modEng G e (fun E => setMRow r.toNat row (putElem (mRow E r.toNat row) w (16 * g + lineCol dir idx i) v.toNat) E)
  | .c r => modHw G e (fun H => accPut H [(accIndex W r.toNat (lineRow dir idx i) (lineCol dir idx i), v)])

/-- A line of a tile under a lane mask. An accumulator line is written as one, so that whole entries count. -/
def putLine (W : Win) (e : Nat) (t : Tile) (dir : Dir) (idx w g : Nat) (mask : Half) (v : BitVec 512) (G : Gang) : Gang :=
  match t with
  | .m _ => (List.range 16).foldl (fun G i => if mask.getLsbD i then putTileElem W e t dir idx w g i (lane v i) G else G) G
  | .c r => modHw G e (fun H => accPut H (((List.range 16).filter (fun i => mask.getLsbD i)).map
      (fun i => (accIndex W r.toNat (lineRow dir idx i) (lineCol dir idx i), lane v i))))

/-! Landing (02 R56, R59). -/

def qOf (E : Engine) (k : Nat) : List Word :=
  if k = 0 then E.q0 else if k = 1 then E.q1 else if k = 2 then E.q2 else E.q3
def setQ (k : Nat) (l : List Word) (E : Engine) : Engine :=
  if k = 0 then { E with q0 := l } else if k = 1 then { E with q1 := l } else if k = 2 then { E with q2 := l } else { E with q3 := l }
def gangQ (G : Gang) (k : Nat) : List Word :=
  if k = 4 then G.q4 else if k = 5 then G.q5 else if k = 6 then G.q6 else G.q7
def setGangQ (k : Nat) (l : List Word) (G : Gang) : Gang :=
  if k = 4 then { G with q4 := l } else if k = 5 then { G with q5 := l } else if k = 6 then { G with q6 := l } else { G with q7 := l }

/-- Do something for each listed engine. -/
def forEng {α : Type} (es : List (Nat × α)) (f : Nat → α → Gang → Gang) (G : Gang) : Gang :=
  es.foldl (fun G p => f p.1 p.2 G) G

/-- SHSET's fields (06 R160): sh.rows is at most 64, and ep falls when it becomes 0. -/
def applyShape (w : Word) (E : Engine) : Engine :=
  let r := min (nbits w.toNat 6 0) 64
  { E with rows := r, cols := nbits w.toNat 15 8, k := nbits w.toNat 23 16, ep := E.ep && r != 0 }

/-- A register written again as a whole carries good parity (08 R211; log entry 80). -/
def healReg (e : Nat) (r : RegName) (G : Gang) : Gang :=
  if (getHw G e).regBad.contains r then modHw G e (fun H => { H with regBad := H.regBad.filter (· != r) }) else G

/-- A result under a lane mask rewrites a register as a whole when the mask is full; else the mark stays. -/
def healLanes (e : Nat) (r : RegName) (mask : Half) (G : Gang) : Gang := if mask = 0xFFFF then healReg e r G else G
/-- A pop frees its entry for a push of the next gang cycle (02 R52), and a bad entry goes with it (08 R208, log entry 80). -/
def notePop (k e : Nat) (G : Gang) : Gang :=
  healReg (if e = 16 then 0 else e) (.q e k) { G with popped := (k, e) :: G.popped }
/-- Rows written to a tile register rewrite it as a whole when they are all sixteen. -/
def healRows (e m : Nat) (rows : List Nat) (G : Gang) : Gang :=
  if (List.range 16).all (fun r => rows.contains r) then healReg e (.m e m) G else G
/-- The elements a line or group writes: row of the m registers or 65536 + accumulator word, first bit, width. -/
def lineHits (W : Win) (t : Tile) (dir : Dir) (idx w g : Nat) (mask : Half) : List (Nat × Nat × Nat) :=
  ((List.range 16).filter (fun i => mask.getLsbD i)).map (fun i => match t with
    | .m r => (16 * r.toNat + lineRow dir idx i, w * (16 * g + lineCol dir idx i), w)
    | .c r => (65536 + accIndex W r.toNat (lineRow dir idx i) (lineCol dir idx i), 0, 32))
/-- The T instructions outstanding in engine e have met these writes (05 R135). -/
def noteHits (e : Nat) (hs : List (Nat × Nat × Nat)) (G : Gang) : Gang :=
  { G with tops := G.tops.map (fun o => if o.eng == e then { o with hits := o.hits ++ hs } else o) }

/-- One landing. An ep stays 0 wherever sh.rows is 0 (13 R293), whatever an EPSET has read at its issue. -/
def applyWr (W : Win) (p : PathSlot) (w : Wr) (G : Gang) : Gang :=
  match w with
  | .s r v => healReg 0 (.s r) { G with s := spSet 0 G.s r v }
  | .x r es => forEng es (fun e v G => healReg e (.x e r) (modEng G e (setXE r v))) G
  | .v r es => forEng es (fun e mv G =>
      healLanes e (.v e r) mv.1 (modEng G e (fun E => setVE r (blend mv.1 mv.2 (vRegE E r)) E))) G
  | .p r es => forEng es (fun e mv G => healLanes e (.p e r) mv.1
      (modEng G e (fun E => setPE r ((mv.2 &&& mv.1) ||| (pRegE E r &&& ~~~mv.1)) E))) G
  | .line t dir idx es => forEng es (fun e mv G => noteHits e (lineHits W t dir idx 32 0 mv.1) (putLine W e t dir idx 32 0 mv.1 mv.2 G)) G
  | .group t dir idx es => forEng es (fun e x G =>
      noteHits e (lineHits W t dir idx x.1 x.2.1 x.2.2.1) (putLine W e t dir idx x.1 x.2.1 x.2.2.1 x.2.2.2 G)) G
  | .rows m es => forEng es (fun e rs G => noteHits e (rs.flatMap (fun r => (List.range 16).map (fun i => (16 * m + r.1, 32 * i, 32))))
      (healRows e m (rs.map (·.1)) (rs.foldl (fun G r => modEng G e (setMRow m r.1 r.2)) G))) G
  | .ep es => forEng es (fun e b G => modEng G e (fun E => { E with ep := b && E.rows != 0 })) G
  | .lc k v => { G with lc := spSet 0 G.lc k v }
  | .shape es => forEng es (fun e v G => modEng G e (applyShape v)) G
  | .patLoad es => forEng es (fun e v G => modEng G e (fun E =>
      let b := if E.patBank then 0 else 1
      { E with pat := spSet 0 E.pat b ((v.2 &&& v.1) ||| (spGet 0 E.pat b &&& ~~~v.1)) })) G
  | .patSwap es => es.foldl (fun G e => modEng G e (fun E => { E with patBank := !E.patBank })) G
  | .qpush k es => forEng es (fun e l G => modEng G e (fun E => setQ k (qOf E k ++ l) E)) G
  | .lnk v => modPath G p (fun P => { P with lnk := v })
  | .abase v => { G with abase := v }
  | .spad es => forEng es (fun e ws G => modHw G e (fun H =>
      spadPut H (ws.flatMap (fun w => (leBytes 4 w.2.toNat).zipIdx.map (fun b => (W.base + w.1 + b.2, b.1)))))) G

/-- Add a result of the current issue that lands after `lat` gang cycles. -/
def inFlight (s : State) (lat : Nat) (w : Wr) : State :=
  modCur s (fun G => { G with flight := G.flight ++ [⟨G.gc + lat, s.cur.path, w, none, G.gc⟩] })

/-- An interlocked destination of the current issue (02 R58). -/
def addIlk (s : State) (reg : Nat) (src : IlkSrc) : State :=
  modCur s (fun G => { G with
    ilks := G.ilks ++ [⟨G.nextId, s.cur.path, false, false, 32 * G.gc + (if s.cur.path = .B then 16 else 0) + s.cur.slot, reg, src⟩]
    nextId := G.nextId + 1 })

/-! Verdicts: whether an instruction of the bundle may issue now (02 R60, R63). -/

/-- What a trap records beside the bundle (21 R419). -/
structure TrapInfo where
  cause : BitVec 8
  va : VAddr
  emask : Mask
  code : BitVec 16
  refused : Option Nat   -- the unpopulated physical address of a refused access (08 R193)
  deriving DecidableEq, Repr

inductive Verdict where
  | ok
  | wait (h : Hold)
  | fault (vas : List (Nat × Nat))      -- not-present pages: address and rights needed (19 R396)
  | arrive (b : Nat)                    -- a BARX that makes its arrival now (11 R281)
  | endCtx (cause : BitVec 8) (va : Nat) -- the context ends (19 R384)
  | trap (t : TrapInfo)
  deriving DecidableEq, Repr

def trapOf (c : BitVec 8) : Verdict := .trap ⟨c, 0, 0, 0, none⟩

/-- The worse of two verdicts of one slot: a wait first, then the lowest cause (R63). -/
def Verdict.rank : Verdict → Nat
  | .wait _ => 0
  | .fault _ => 2 + 8
  | .trap t => 2 + t.cause.toNat
  | .endCtx c _ => 2 + c.toNat
  | .arrive _ => 1000
  | .ok => 1001
def Verdict.and (a b : Verdict) : Verdict :=
  match a, b with
  | .fault x, .fault y => .fault (x ++ y)
  | .trap x, .trap y => if x.cause = y.cause then .trap { x with emask := x.emask ||| y.emask }
      else if y.cause < x.cause then .trap y else .trap x
  | _, _ => if b.rank < a.rank then b else a
def andAll (vs : List Verdict) : Verdict := vs.foldl Verdict.and .ok
/-- A condition that must hold, else the bundle waits. -/
def waitUnless (c : Bool) (h : Hold) : Verdict := if c then .ok else .wait h
def trapIf (c : Bool) (cause : BitVec 8) : Verdict := if c then trapOf cause else .ok

/-! Taking an exception (21 R411, R413, R414). -/

/-- The opcode of an instruction's slot value. -/
def opcodeOf (i : Instr) : BitVec 8 :=
  match encode i with
  | some (_, w) => w.setWidth 8
  | none => 0

/-- A stop at a boundary that has come (13 R309). -/
def stopping (G : Gang) : Bool := G.stopReq.isSome && decide (G.stopAt ≤ G.gc)
/-- A cause latched by a path of a gang: the path stops, the gang stops from the next gang cycle on, and the
entry (TRAP_ENTRY) follows. If both half-gangs trap in one gang cycle, path A's record stands (R414). -/
def latchTrap (s : State) (g : Nat) (c : Cause) : State :=
  let s := modGang s g (fun G =>
    let G := modPath G c.path (fun P => { P with trapped := true, hold := .none })
    { G with cause := (match G.cause with | some d => some (if c.path = .A ∧ d.path = .B ∧ !d.deferred then c else d) | none => some c),
             preempted := G.preempted || G.stopReq == some .preempt,
             stopReq := some .trap, stopAt := if G.stopReq = some .trap then G.stopAt else G.gc + 1 })
  match (getGang s g).team with
  | some t => modTeam s t (fun T => { T with stopCyc := nowCyc s })
  | none => s

/-- The trap of the current bundle: no slot has an effect (02 R63). -/
def takeTrap (i : Instr) (t : TrapInfo) (s : State) : State :=
  latchTrap s s.cur.gang
    { cause := t.cause, va := t.va, pc := s.cur.pc, emask := t.emask, code := t.code, opc := opcodeOf i,
      slot := BitVec.ofNat 4 s.cur.slot, deferred := false, path := s.cur.path }

/-- The bundle stays unissued; a path that waits for a barrier's phase is so noted until it resumes (11 R281). -/
def holdPath (h : Hold) (s : State) : State :=
  modCurPath s (fun P => { P with hold := if P.barOpen.isSome && (P.barResume.isNone || P.hold == .barrier) then .barrier else h })

/-- A deferred cause (21 R412): kept until the gang's next bundle boundary; the first one found stands, with every engine in
which the same instruction has met it by then (R414, R419). -/
def deferCause (s : State) (g : Nat) (c : Cause) : State :=
  modGang s g (fun G => { G with defCause := (match G.defCause with
    | some d => some (if d.src.isSome ∧ d.src = c.src then { d with emask := d.emask ||| c.emask } else d)
    | none => some c) })

/-! Counters, queues and other shared pieces. -/

def subOne (n : Nat) : Nat := n - 1

/-- A fill under way allocates no line: its line was written, invalidated or acquired meanwhile. -/
def dropFills (f : Acc → Bool) (G : Gang) : Gang :=
  { G with txns := G.txns.map (fun T => match T.kind with
      | .lds .. => { T with accs := T.accs.map (fun a => if f a && decide (a.cls < 2) then { a with cls := 2 } else a) }
      | _ => T) }
/-- Later accesses of the path are performed after the reads it has made so far (10 R237, R238). -/
def orderPath (G : Gang) (p : PathSlot) : Gang := modPath G p (fun P => { P with acqId := G.nextId })
/-- Invalidate the gang's L1 and hold later accesses behind the reads made so far (10 R238). -/
def acquirePath (G : Gang) (p : PathSlot) : Gang :=
  orderPath (dropFills (fun _ => true) { G with l1 := [] }) p

end Sys2Proof.Machine
end

