-- ==== Sys2Proof/Machine/Operands.lean ====
section
/-! DEFINITION. Operand forms: which engines act, what each operand field reads, and the conditions that
every instruction of a slot shares: interlocks, queues, parity (02 R45–R51, R58, R60; 08 R208). -/

namespace Sys2Proof.Machine

/-- Engine e is active for the bundle: its bit in the issuing path's mask is set and its ep is true (02 R48). -/
def isActive (s : State) (e : Nat) : Bool := maskBit s.cur.mask e && (getEng (curGang s) e).ep
def actives (s : State) : List Nat := (List.range 16).filter (isActive s)
/-- Engines of the issuing path's mask, whatever their ep. -/
def pathEngines (s : State) : List Nat := (List.range 16).filter (maskBit s.cur.mask)
def maskOf (es : List Nat) : Mask := BitVec.ofNat 16 ((List.range 16).foldl (fun a e => if es.contains e then a + 2 ^ e else a) 0)

/-- The entry at a queue's head as engine e sees it (02 R50, R51). -/
def qHead (G : Gang) (e k : Nat) : Word :=
  if k < 4 then (qOf (getEng G e) k).headD 0 else (gangQ G k).headD 0
def qEmpty (G : Gang) (e k : Nat) : Bool :=
  if k < 4 then (qOf (getEng G e) k).isEmpty else (gangQ G k).isEmpty

/-- The specials 40–47 in engine e; lane is the V-space one (02 R46). -/
def specVal (G : Gang) (e ln n : Nat) : Word :=
  let E := getEng G e
  match n with
  | 0 => 0
  | 1 => BitVec.ofNat 32 ln
  | 2 => BitVec.ofNat 32 e
  | 3 => 0xFFFFFFFF
  | 4 => 0x3F800000
  | 5 => BitVec.ofNat 32 E.rows
  | 6 => BitVec.ofNat 32 E.cols
  | _ => BitVec.ofNat 32 E.k

/-- A V-space source of engine e, as 16 lanes. -/
def vVal (G : Gang) (e : Nat) : VSrc → BitVec 512
  | .reg r => vRegE (getEng G e) r.toNat
  | .queue k => lanes512 (fun _ => qHead G e k.toNat)
  | .spec n => lanes512 (fun i => specVal G e i n.toNat)
/-- An X-space source of engine e. -/
def xVal (G : Gang) (e : Nat) : XSrc → Word
  | .reg r => xRegE (getEng G e) r.toNat
  | .queue k => qHead G e k.toNat
  | .spec n => specVal G e 0 n.toNat
/-- The second operand of the index arithmetic: the immediate is sign-extended or zero-extended (05 R140). -/
def xbVal (G : Gang) (e : Nat) (signed : Bool) : XB → Word
  | .src a => xVal G e a
  | .imm n => if signed then n.signExtend 32 else n.setWidth 32

/-! The registers an instruction reads. -/

inductive Src where
  | s (r : SReg) | v (a : VSrc) | x (a : XSrc) | p (r : PReg) | t (t : Tile)
  deriving DecidableEq, Repr

def xbSrc : XB → List Src
  | .src a => [.x a]
  | .imm _ => []
def fillSrc : Fill → List Src
  | .s r => [.s r]
  | .imm _ => []
def xr (r : XReg) : Src := .x (.reg r)

/-- Operand fields read at issue. -/
def srcsOf : Instr → List Src
  | .add _ a b | .sub _ a b | .and _ a b | .or _ a b | .xor _ a b | .andn _ a b | .shl _ a b | .shr _ a b | .sar _ a b =>
      [.s a, .s b]
  | .min _ _ a b | .max _ _ a b | .cmp _ _ a b => [.s a, .s b]
  | .sel _ a b c => [.s a, .s b, .s c]
  | .popc _ a | .clz _ a => [.s a]
  | .mul _ a b | .mulh _ _ a b | .div _ _ a b | .rem _ _ a b => [.s a, .s b]
  | .addi _ a _ => [.s a]
  | .lih d _ => [.s d]
  | .br _ a b _ => [.s a, .s b]
  | .jmpr a => [.s a]
  | .gif _ _ a b _ | .gany _ _ a b | .gall _ _ a b | .gcnt _ _ a b => [.x a, .x b]
  | .gmsk (.cond _ a b) _ | .goff (.cond _ a b) => [.x a, .x b]
  | .enq a b => [.s a, .s b]
  | .recd a | .prio a => [.s a]
  | .csrw _ a => [.s a]
  | .qtop (.gangs a) _ => [.s a]
  | .qdie _ a b => [.s a, .s b]
  | .lds _ _ a _ => [.s a]
  | .sts _ d a _ => [.s d, .s a]
  | .amo _ _ _ a b => [.s a, .s b]
  | .cas _ _ a b c => [.s a, .s b, .s c]
  | .xmov _ (.x a) => [.x a]
  | .xmov _ (.s a) => [.s a]
  | .xadd _ a b | .xsub _ a b | .xmul _ a b | .xand _ a b | .xxor _ a b | .xshl _ a b | .xshr _ a b | .xadv _ _ a b =>
      .x a :: xbSrc b
  | .xpopc _ a | .xldc _ _ a | .xhash _ _ a => [.x a]
  | .xpfx _ a b => [.x a, .x b]
  | .xsel _ a b c => [.x a, .x b, .x c]
  | .xcmpa _ _ _ _ a b _ => [xr a, xr b]
  | .vaddf _ a b _ _ _ p | .vsubf _ a b _ _ _ p | .vmulf _ a b _ _ _ p => [.v a, .v b, .p p]
  | .vfmaf _ a b c _ _ _ p => [.v a, .v b, .v c, .p p]
  | .vminf _ a b _ p | .vmaxf _ a b _ p | .vcmpf _ _ a b _ p => [.v a, .v b, .p p]
  | .vrcp _ a _ p | .vrsq _ a _ p | .vex2 _ a _ p | .vlg2 _ a _ p | .vtanh _ a _ p => [.v a, .p p]
  | .vaddi _ a b _ p | .vsubi _ a b _ p | .vmuli _ a b _ p | .vmulhi _ _ a b p => [.v a, .v b, .p p]
  | .vand _ a b p | .vor _ a b p | .vxor _ a b p | .vshl _ a b p | .vshr _ a b p | .vsar _ a b p => [.v a, .v b, .p p]
  | .vmini _ _ a b p | .vmaxi _ _ a b p | .vcmpi _ _ a b p => [.v a, .v b, .p p]
  | .vmov _ a p | .vrot _ a _ p => [.v a, .p p]
  | .vbcs _ a p => [.s a, .p p]
  | .vsel _ a b pc p => [.v a, .v b, .p pc, .p p]
  | .plog _ (.bin _ a b) p => [.p a, .p b, .p p]
  | .plog _ (.not a) p | .plog _ (.mov a) p => [.p a, .p p]
  | .plog _ (.fromv a) p => [.v a, .p p]
  | .epset (.set a) | .epset (.and a) => [.v a]
  | .vcvt _ _ _ a _ _ p => [.v a, .p p]
  | .vqnt _ _ a b _ _ p | .vdqn _ _ a b _ _ p => [.v a, .v b, .p p]
  | .vred _ _ a _ _ p => [.v a, .p p]
  | .vperm _ a b _ p => [.v a, .v b, .p p]
  | .vpld a => [.x a]
  | .vtrd _ _ t _ _ _ p => [.t t, .p p]
  | .vtwr _ _ a _ _ _ p => [.v a, .p p]
  | .gshf _ a b f p => [.v a, .v b, .p p] ++ fillSrc f
  | .gpsh _ a b p => [.v a, .v b, .p p]
  | .gred _ _ a _ _ p | .gscan _ _ _ a _ _ p => [.v a, .p p]
  | .gbcst _ a _ f p => [.v a, .p p] ++ fillSrc f
  | .mma _ _ _ a b _ => [.t (.m a), .t (.m b)]
  | .mmag _ _ _ a x _ _ => [.t (.m a), xr x]
  | .ttrn _ _ ta _ _ => [.t ta]
  | .tdec _ _ _ ma => [.t (.m ma)]
  | .cbld a | .fmtw a _ | .shset a => [xr a]
  | .acfg a b => [xr a, xr b]
  | .join _ _ _ a b o => [xr a, xr b, xr o]
  | .jins _ _ a => [xr a]
  | .adrn .tup _ _ a _ => [xr a]
  | .adrn _ _ _ a b => [xr a, xr b]
  | .afold _ a => [xr a]
  | .ard (.key a) _ => [xr a]
  | .awr (.key a b) => [xr a, xr b]
  | .awr (.st a) | .awr (.org a) | .awr (.sres a) | .awr (.sover a) => [xr a]
  | .pred _ _ a | .pchk _ _ a _ => [xr a]
  | .ldv _ a _ p | .ldm _ a _ _ _ p => [.x a, .p p]
  | .ldg _ a b _ p => [.x a, .v b, .p p]
  | .ldmk _ a b _ _ => [.x a, .x b]
  | .ldx _ a b _ p => [.x a, .x b, .p p]
  | .ldb _ a _ _ => [.x a]
  | .ldw _ _ _ a b _ _ => [.x a, .x b]
  | .stv v a _ p => [.v v, .x a, .p p]
  | .stm t a _ _ _ p => [.t t, .x a, .p p]
  | .stg v a c _ p => [.v v, .x a, .v c, .p p]
  | .stmk m a c _ _ => [.t (.m m), .x a, .x c]
  | .stx v a c _ p => [.v v, .x a, .x c, .p p]
  | .dset _ _ a => [.s a]
  | .cpy _ a b _ _ | .cpsh _ a b _ _ _ | .cmc _ a b _ _ _ | .cfil _ a b _ _ => [.s a, .s b]
  | .cpyg _ a _ _ _ => [.s a]
  | .waitr _ a | .bari _ a => [.s a]
  | .sbc _ _ a => [.s a]
  | .sred _ _ _ _ a => [.s a]
  | .acqr _ a => [.s a]
  | _ => []

/-- The s register an instruction writes with an exposed latency (02 R58). -/
def exposedS : Instr → Option SReg
  | .add d _ _ | .sub d _ _ | .and d _ _ | .or d _ _ | .xor d _ _ | .andn d _ _ | .shl d _ _ | .shr d _ _ | .sar d _ _ => some d
  | .min _ d _ _ | .max _ d _ _ | .cmp _ d _ _ | .sel d _ _ _ | .popc d _ | .clz d _ => some d
  | .mul d _ _ | .mulh _ d _ _ | .div _ d _ _ | .rem _ d _ _ | .addi d _ _ | .li d _ | .lih d _ => some d
  | .gany _ d _ _ | .gall _ d _ _ | .gcnt _ d _ _ | .gmsk _ d | .qid _ d | .csrr d _ | .qtop _ d | .qdie d _ _ => some d
  | _ => none

def sSrcs (i : Instr) : List Nat := (srcsOf i).filterMap (fun a => match a with | .s r => some r.toNat | _ => none)

/-- R58: a register pending for an interlocked value is neither read nor written with an exposed latency. -/
def ilkBusy (G : Gang) (r : Nat) : Bool := G.ilks.any (fun k => k.reg == r)
def ilkThyme (G : Gang) (r : Nat) : Bool :=
  G.ilks.any (fun k => k.reg == r && (match k.src with | .sred _ _ => true | .sbc _ => true | _ => false))
/-- R58. DESIGN CHOICE (log entry 93): a bundle of path B waits too for a destination of path A's bundle of the same gang cycle. -/
def ilkCheck (i : Instr) (s : State) : Verdict :=
  let G := curGang s
  let rs := sSrcs i ++ (exposedS i).toList.map (·.toNat)
  match rs.find? (ilkThyme G) with
  | some r => .wait (.thyme r)
  | none => if rs.any (ilkBusy G) then .wait .other else .ok

/-- R50, R51: a named queue is empty in some active engine, or the gang's queue is empty. -/
def queueWait (s : State) (k : Nat) : Bool :=
  if k < 4 then (actives s).any (fun e => qEmpty (curGang s) e k) else qEmpty (curGang s) 0 k
def queueCheck (i : Instr) (s : State) : Verdict :=
  if (i.queues.map (·.toNat)).any (queueWait s) then .wait .queue else .ok

/-- Registers of engine e (or of the sequencer) behind an operand field (08 R208). -/
def srcReg (e : Nat) : Src → Option RegName
  | .s r => some (.s r.toNat)
  | .v (.reg r) => some (.v e r.toNat)
  | .v (.queue k) => some (.q (if k.toNat < 4 then e else 16) k.toNat)
  | .v (.spec _) => none
  | .x (.reg r) => some (.x e r.toNat)
  | .x (.queue k) => some (.q (if k.toNat < 4 then e else 16) k.toNat)
  | .x (.spec _) => none
  | .p r => if r = 0 then none else some (.p e r.toNat)
  | .t (.m r) => some (.m e r.toNat)
  | .t (.c _) => none
/-- EPSET acts in every engine of the path's mask, whatever its ep (05 R127). -/
def actsAnyEp : Instr → Bool
  | .epset .. => true
  | _ => false
/-- A bad register of the sequencer, or a gang's queue, which no engine raises. -/
def seqParity (s : State) (i : Instr) : Bool :=
  (srcsOf i).any (fun a => match srcReg 16 a with
    | some (.s r) => (getHw (curGang s) 0).regBad.contains (.s r)
    | some (.q 16 k) => (getHw (curGang s) 0).regBad.contains (.q 16 k)
    | _ => false)
/-- A read of a register whose parity fails: trap 0x0F at the reading bundle (R208). Marks of the sequencer's
registers and of the gang's queues stand with engine 0. DESIGN CHOICE (log entry 125): the sequencer reads an s register or one of
q4–q7 that an engine slot names, so its parity counts, as its interlock does, with no engine active too. -/
def parityBad (s : State) (i : Instr) (e : Nat) : Bool :=
  (srcsOf i).any (fun a => match srcReg e a with
    | some (.s r) => (getHw (curGang s) 0).regBad.contains (.s r)
    | some (.q 16 k) => (getHw (curGang s) 0).regBad.contains (.q 16 k)
    | some n => (isActive s e || (actsAnyEp i && maskBit s.cur.mask e)) && (getHw (curGang s) e).regBad.contains n
    | none => false)
def parityCheck (i : Instr) (s : State) : Verdict :=
  let bad := (List.range 16).filter (parityBad s i)
  if bad.isEmpty then .ok else .trap ⟨0x0F, 0, if seqParity s i then 0 else maskOf bad, 0, none⟩

/-- What every slot instruction checks. -/
def commonCheck (i : Instr) (s : State) : Verdict := andAll [ilkCheck i s, queueCheck i s, parityCheck i s]

/-- A check made in each active engine: the lowest cause stands, with the engines that raise it (R63, R414). -/
def engCheck (s : State) (f : Nat → Option (BitVec 8 × Nat)) : Verdict :=
  let rs := (actives s).filterMap (fun e => (f e).map (fun c => (e, c)))
  match rs with
  | [] => .ok
  | r :: _ =>
    let low := rs.foldl (fun a x => if x.2.1 < a then x.2.1 else a) r.2.1
    let of := rs.filter (fun x => x.2.1 == low)
    .trap ⟨low, BitVec.ofNat 52 ((of.head?.map (fun x => x.2.2)).getD 0), maskOf (of.map (·.1)), 0, none⟩

/-! The format table (04 R106–R109). -/

/-- The entries that outstanding FMTWs of earlier bundles have read for entry n of engine e, oldest first. -/
def fmtwImages (G : Gang) (e n : Nat) : List (BitVec 256) :=
  (G.tops.filter (fun o => o.eng == e && decide (o.t0 < G.gc))).flatMap (fun o => (o.out.getD []).filterMap (fun w => match w with
    | .fmtt k v => if k = n then some v else none
    | _ => none))
/-- The entry engine e selects: fmtt[lc0 mod 16]. While an FMTW of it is outstanding, the bundle sees the whole old
or the whole new entry, the same in all its slots (R109). DESIGN CHOICE (log entry 77): with several FMTWs of one entry
outstanding, it sees the old entry or any one of theirs. -/
def fmttEntry (s : State) (e : Nat) : BitVec 256 :=
  let G := curGang s
  let n := (spGet 0 G.lc 0).toNat % 16
  let old := spGet 0 (getEng G e).fmtt n
  match fmtwImages G e n with
  | [] => old
  | ws => (old :: ws).getD (freeAt s e % (ws.length + 1)) 0

def entBits (v : BitVec 256) (hi lo : Nat) : Nat := nbits v.toNat hi lo
/-- A reserved bit is set (R106, R108). -/
def entRsv (v : BitVec 256) : Bool :=
  entBits v 159 145 != 0 || entBits v 127 113 != 0 || entBits v 95 81 != 0 || entBits v 63 49 != 0 || entBits v 31 12 != 0
/-- The format of a code, none for 10–15. -/
def fmtCode (c : Nat) : Option Fmt := if c < 10 then some (fmtOf (BitVec.ofNat 4 c)) else none
def entFa (v : BitVec 256) : Option Fmt := fmtCode (entBits v 3 0)
def entFb (v : BitVec 256) : Option Fmt := fmtCode (entBits v 7 4)
/-- A format after selection: fmta of the entry for TAB; none where R108 raises a trap. -/
def pickFa (f : Fmt) (ent : BitVec 256) : Option Fmt := if f = .tab then (if entRsv ent then none else entFa ent) else some f
def pickFb (f : Fmt) (ent : BitVec 256) : Option Fmt := if f = .tab then (if entRsv ent then none else entFb ent) else some f

/-- The format engine e uses for a V, L or W instruction. -/
def selFmt (s : State) (e : Nat) (f : Fmt) : Fmt := (pickFa f (fmttEntry s e)).getD .f32
/-- Trap 0x02 in an engine whose selected format is not accepted. -/
def fmtCheck (s : State) (f : Fmt) (okF : Fmt → Bool) : Verdict :=
  if f = .tab then
    engCheck s (fun e => match pickFa f (fmttEntry s e) with
      | some g => if okF g then none else some (0x02, 0)
      | none => some (0x02, 0))
  else .ok

/-- A c tile outside the dense part raises 0x03 (06 R144); a poisoned entry of the elements read, 0x0F (08 R211); an engine
none of whose lanes is on raises nothing (11 R257). -/
def lineTileFail (s : State) (lanes : Nat → List Nat) (t : Tile) (dir : Dir) (idx : Nat) (isRead : Bool) (e : Nat) :
    Option (BitVec 8 × Nat) :=
  match t with
  | .m _ => none
  | .c r =>
    if (lanes e).isEmpty then none
    else if denseTiles (curGang s) e ≤ r.toNat then some (0x03, 0)
    else if isRead && (lanes e).any (fun i =>
        (getHw (curGang s) e).accBad.contains (accIndex (gangWin s s.cur.gang) r.toNat (lineRow dir idx i) (lineCol dir idx i) / 2)) then some (0x0F, 0)
    else none

end Sys2Proof.Machine
end

