-- ==== Sys2Proof/Machine/Flags.lean ====
section
/-! DEFINITION. Conditions: the condition codes of the S slot, VCMPF and VCMPI, and the predicate operations. The
architecture keeps no flags (04 R114; 14 R316; 05 R123, R125, R126). -/

namespace Sys2Proof.Machine

/-- A condition of R316 on values of any width. -/
def condHolds {w : Nat} (c : Cond) (a b : BitVec w) : Bool :=
  match c with
  | .eq => a == b
  | .ne => a != b
  | .lt => a.slt b
  | .ge => !(a.slt b)
  | .ltu => a.ult b
  | .geu => !(a.ult b)

/-- A condition of VCMPF on FP32 lanes (R123). -/
def fcondHolds (c : FCond) (a b : Word) : Bool :=
  let x := f32v a
  let y := f32v b
  match c with
  | .eq => x.eq y
  | .ne => !(x.eq y)
  | .lt => x.lt y
  | .le => x.le y
  | .gt => y.lt x
  | .ge => y.le x
  | .uno => x.isNan || y.isNan
  | .ord => !x.isNan && !y.isNan

/-- A condition of VCMPI (R125). -/
def icondHolds (c : ICond) (a b : Word) : Bool :=
  match c with
  | .eq => a == b
  | .ne => a != b
  | .lt => a.slt b
  | .le => !(b.slt a)
  | .gt => b.slt a
  | .ge => !(a.slt b)
  | .ltu => a.ult b
  | .leu => !(b.ult a)
  | .gtu => b.ult a
  | .geu => !(a.ult b)

/-- PLOG on two predicates (R126). -/
def plogHolds (op : PlogOp) (a b : Half) : Half :=
  match op with
  | .and => a &&& b
  | .or => a ||| b
  | .xor => a ^^^ b
  | .andn => a &&& ~~~b

/-- 16 lane bits of a test. -/
def laneBits (f : Nat → Bool) : Half :=
  BitVec.ofNat 16 ((List.range 16).foldl (fun a i => if f i then a + 2 ^ i else a) 0)

/-- Engines of the bundle's active set whose condition holds, and the whole set (14 R328). -/
def votersE (s : State) : List Nat := actives s
def votersC (s : State) (c : Cond) (a b : XSrc) : List Nat :=
  (actives s).filter (fun e => condHolds c (xVal (curGang s) e a) (xVal (curGang s) e b))

end Sys2Proof.Machine
end

