-- ==== Sys2Proof/Machine/Cipher.lean ====
section
/-! DEFINITION. The inline memory cipher (08 R205): AES-XTS with two 128-bit halves over one 32-byte sector. The
block cipher and the mode are taken from the standards the manual names (log entry 9). -/

namespace Sys2Proof.Machine

/-- Product in GF(2^8) modulo x^8 + x^4 + x^3 + x + 1, by bits of b. -/
def gmul (a b : Byte) : Byte :=
  ((List.range 8).foldl (fun (acc : Byte × Byte) i =>
    let t := if b.getLsbD i then acc.1 ^^^ acc.2 else acc.1
    let d := (acc.2 <<< 1) ^^^ (if acc.2.getLsbD 7 then 0x1B else 0)
    (t, d)) (0, a)).1

/-- The inverse in GF(2^8), 0 for 0: x^254. -/
def ginv (x : Byte) : Byte := (List.range 253).foldl (fun a _ => gmul a x) x

def rotl8 (x : Byte) (n : Nat) : Byte := x.rotateLeft n

def sboxOf (x : Byte) : Byte :=
  let i := ginv x
  i ^^^ rotl8 i 1 ^^^ rotl8 i 2 ^^^ rotl8 i 3 ^^^ rotl8 i 4 ^^^ 0x63

def sboxInv (y : Byte) : Byte := ginv (rotl8 y 1 ^^^ rotl8 y 3 ^^^ rotl8 y 6 ^^^ 0x05)

def xorBytes (a b : List Byte) : List Byte := List.zipWith (· ^^^ ·) a b

/-- One more round key of AES-128 from the last one. -/
def nextRoundKey (k : List Byte) (rc : Byte) : List Byte :=
  let w (i : Nat) : List Byte := (k.drop (4 * i)).take 4
  let t := match w 3 with
    | [a, b, c, d] => [sboxOf b ^^^ rc, sboxOf c, sboxOf d, sboxOf a]
    | l => l
  let w0 := xorBytes (w 0) t
  let w1 := xorBytes (w 1) w0
  let w2 := xorBytes (w 2) w1
  w0 ++ w1 ++ w2 ++ xorBytes (w 3) w2

/-- The eleven round keys. -/
def roundKeys (k : List Byte) : List (List Byte) :=
  ((List.range 10).foldl (fun (acc : List (List Byte) × List Byte × Byte) _ =>
    let n := nextRoundKey acc.2.1 acc.2.2
    (acc.1 ++ [n], n, gmul acc.2.2 2)) ([k], k, 1)).1

def byteAt (l : List Byte) (i : Nat) : Byte := l.getD i 0

/-- Rows shifted left (a state byte of row r, column c stands at 4 c + r). -/
def shiftRows (s : List Byte) : List Byte :=
  (List.range 16).map (fun i => byteAt s (4 * ((i / 4 + i % 4) % 4) + i % 4))
def unshiftRows (s : List Byte) : List Byte :=
  (List.range 16).map (fun i => byteAt s (4 * ((i / 4 + 4 - i % 4) % 4) + i % 4))

/-- Each column multiplied by the circulant matrix of a row of coefficients. -/
def mixWith (c : List Byte) (s : List Byte) : List Byte :=
  (List.range 16).map (fun i =>
    (List.range 4).foldl (fun a j => a ^^^ gmul (byteAt c ((j + 4 - i % 4) % 4)) (byteAt s (4 * (i / 4) + j))) 0)

def aesEncrypt (key blk : List Byte) : List Byte :=
  let ks := roundKeys key
  let rk (i : Nat) : List Byte := ks.getD i []
  let s := (List.range 9).foldl (fun s i => xorBytes (mixWith [2, 3, 1, 1] (shiftRows (s.map sboxOf))) (rk (i + 1)))
    (xorBytes blk (rk 0))
  xorBytes (shiftRows (s.map sboxOf)) (rk 10)

def aesDecrypt (key blk : List Byte) : List Byte :=
  let ks := roundKeys key
  let rk (i : Nat) : List Byte := ks.getD i []
  let s := (List.range 9).foldl
    (fun s i => mixWith [14, 11, 13, 9] (xorBytes ((unshiftRows s).map sboxInv) (rk (9 - i))))
    (xorBytes blk (rk 10))
  xorBytes ((unshiftRows s).map sboxInv) (rk 0)

def bytesOf (n len : Nat) : List Byte := (List.range len).map (fun i => BitVec.ofNat 8 (n / 256 ^ i))
def natOfBytes (l : List Byte) : Nat := l.foldr (fun b a => b.toNat + 256 * a) 0

/-- The next tweak: times x in GF(2^128), little-endian. -/
def xtsNext (t : List Byte) : List Byte :=
  let n := natOfBytes t
  bytesOf (if n < 2 ^ 127 then 2 * n else (2 * n % 2 ^ 128) ^^^ 0x87) 16

/-- One sector through the cipher; `enc` chooses the direction. The tweak is the sector's address over 32. -/
def xtsSector (enc : Bool) (key : BitVec 256) (sector : Nat) (d : BitVec 256) : BitVec 256 :=
  let k := bytesOf key.toNat 32
  let k1 := k.take 16
  let p := bytesOf d.toNat 32
  let t0 := aesEncrypt (k.drop 16) (bytesOf sector 16)
  let t1 := xtsNext t0
  let one (t b : List Byte) : List Byte := xorBytes (if enc then aesEncrypt k1 (xorBytes b t) else aesDecrypt k1 (xorBytes b t)) t
  BitVec.ofNat 256 (natOfBytes (one t0 (p.take 16) ++ one t1 (p.drop 16)))

end Sys2Proof.Machine
end

