-- ==== Sys2Proof/Machine/Memory.lean ====
section
/-! DEFINITION. Device memory: the physical map, home slices, the shared level with its replicas, team-private
versions and narrow-release records, the memory cipher, and the error log (08; 10 R242–R245; 22 R433, R434). -/

namespace Sys2Proof.Machine

/-- The one canonical form of memory: addresses strictly rising, no byte listed that reads 0 (what an unlisted one reads
as, 22 R436 step 6). -/
def Memory.wf (m : List Host.Cell) : Bool := spWf 0 m

/-! The physical address map (R191, R192). -/

def farBase : Nat := 0x010000000000
/-- Far memory lies interleaved on the four E-dies: the E-die of an address, and the address within it (R192). -/
def farEdie (pa : Nat) : Nat := nbits (pa - farBase) 13 12
def farAddr (pa : Nat) : Nat := nbits (pa - farBase) 47 14 * 2 ^ 12 + nbits (pa - farBase) 11 0
/-- An address behind which a DRAM die or a far-memory interface stands. -/
def populated (s : State) (pa : Nat) : Bool :=
  if pa < 0x002800000000 then pa % 2 ^ 33 < 6 * 2 ^ 30 && !s.mgmt.absentNear.contains (pa / 2 ^ 33)
  else farBase ≤ pa && pa < farBase + Config.farBytes
def isWindow (pa : Nat) : Bool := devBase ≤ pa

/-- The slice mask of the home range an address lies in; without one, all 20 slices (R200). -/
def homeMask (s : State) (pa : Nat) : Nat :=
  let hit (i : Nat) : Bool :=
    let w := devGet s (devBase + 0x30000000 + 8 * i)
    w.getLsbD 0 && dbits w 63 44 != 0 && decide (dbits w 21 2 ≤ pa / 2 ^ 28) && decide (pa / 2 ^ 28 < dbits w 41 22)
  match (List.range 64).find? hit with
  | some i => dbits (devGet s (devBase + 0x30000000 + 8 * i)) 63 44
  | none => 0xFFFFF
def fold16 (l : Nat) : Nat := (l % 2 ^ 16) ^^^ (l / 2 ^ 16 % 2 ^ 16) ^^^ (l / 2 ^ 32 % 2 ^ 8)
def popCount (n w : Nat) : Nat := ((List.range w).filter (fun i => n.testBit i)).length
/-- The home slice of an address (R199). -/
def homeSlice (s : State) (pa : Nat) : Nat :=
  let m := homeMask s pa
  (nthBit m 20 (fold16 (pa / 256) % popCount m 20)).getD 0
/-- The bank within the home slice (R199). -/
def homeBank (pa : Nat) : Nat :=
  let l := pa / 256
  (l % 16) ^^^ (l / 16 % 16) ^^^ (l / 256 % 16) ^^^ (l / 4096 % 16)

/-! Sectors in memory, as stored behind the cipher (R205). -/

def memSector (s : State) (sec : Nat) : BitVec 256 :=
  BitVec.ofNat 256 (leNat ((List.range 32).map (fun i => spGet 0 s.mem (32 * sec + i))))
def memPutSector (s : State) (sec : Nat) (v : BitVec 256) : State :=
  { s with mem := spSetList 0 s.mem (32 * sec) (leBytes 32 v.toNat) }
def setMemBad (s : State) (sec : Nat) (b : Bool) : State :=
  { s with memBad := if b then (if s.memBad.contains sec then s.memBad else sec :: s.memBad) else s.memBad.filter (· != sec) }
def keyVal (s : State) (slice slot : Nat) : BitVec 256 := spGet 0 s.keys (64 * slice + slot)
def sealSector (s : State) (slice key sec : Nat) (v : BitVec 256) : BitVec 256 :=
  if key = 0 then v else xtsSector true (keyVal s slice key) sec v
def openSector (s : State) (slice key sec : Nat) (v : BitVec 256) : BitVec 256 :=
  if key = 0 then v else xtsSector false (keyVal s slice key) sec v

/-! The shared level (R198, R204). -/

def slKey (sec slice : Nat) : Nat := 32 * sec + slice
def slGet (s : State) (sec slice : Nat) : Option SlSector := spFind s.sl (slKey sec slice)
/-- A sector's entry, in a line that has its place in the slice. -/
def slPut (s : State) (sec slice : Nat) (x : SlSector) : State := { s with sl := spPut s.sl (slKey sec slice) x }
def slDrop (s : State) (sec slice : Nat) : State := { s with sl := spDel s.sl (slKey sec slice) }
def lineSectors (line : Nat) : List Nat := (List.range 8).map (fun i => 8 * line + i)
def linePresent (s : State) (line slice : Nat) : Bool := (lineSectors line).any (fun q => (slGet s q slice).isSome)

/-- Write a sector's value back to memory if it is dirty, and its poison mark (R198, R211). -/
def writeBack (s : State) (sec slice : Nat) : State :=
  match slGet s sec slice with
  | some x =>
    if x.line then
      slPut (setMemBad (memPutSector s sec (sealSector s slice x.key sec x.data)) sec x.poison) sec slice { x with line := false }
    else if x.poison then setMemBad s sec true else s
  | none => s
/-- Drop a line of a slice after writing back its dirty sectors (R198, R205). -/
def evictLine (s : State) (line slice : Nat) : State :=
  (lineSectors line).foldl (fun s q => slDrop (writeBack s q slice) q slice) s
/-- A line held under another key slot is written back and dropped before the access (R205). -/
def rekey (s : State) (sec slice key : Nat) : State :=
  if (lineSectors (sec / 8)).any (fun q => match slGet s q slice with | some x => x.key != key | none => false)
  then evictLine s (sec / 8) slice else s

/-- The set of a line in its bank: 4 MiB of a bank in 16 ways of 256-byte lines are 1,024 sets (R198). Which set of its bank a
line goes to is not defined: its number modulo the sets, a DESIGN CHOICE (log entry 86). -/
def slSets : Nat := 64 * 2 ^ 20 / 16 / 16 / 256
def sameSet (l k : Nat) : Bool := homeBank (256 * l) == homeBank (256 * k) && l % slSets == k % slSets
/-- Ways of a bank in service: 16, without the retired ones (22 R429). -/
def slWays (s : State) (slice bank : Nat) : Nat := 16 - (s.badWays.filter (fun w => w.1 == slice && w.2.1 == bank)).length
/-- Lines a slice holds in the set of a line. -/
def setLines (s : State) (slice line : Nat) : List Nat :=
  ((s.sl.filter (fun c => c.1 % 32 == slice && sameSet (c.1 / 32 / 8) line)).map (fun c => c.1 / 32 / 8)).eraseDups
/-- A line of class 2 is first for eviction in its set (R194). -/
def streamed (s : State) (slice line : Nat) : Bool :=
  (lineSectors line).any (fun q => match slGet s q slice with | some x => x.cls == 2 | none => false)
/-- A line that enters a full set takes another line's way; the order of replacement is not defined (R198). -/
def makeRoom (s : State) (slice line : Nat) : State :=
  let ls := setLines s slice line
  if ls.contains line || decide (ls.length < slWays s slice (homeBank (256 * line))) then s
  else
    let f := ls.filter (streamed s slice)
    let q := if f.isEmpty then ls else f
    let (n, s) := drawFree s
    match q[n % q.length]? with
    | some k => evictLine s k slice
    | none => s
/-- Allocate a sector: its line has or takes a way of its set. -/
def slFill (s : State) (sec slice : Nat) (x : SlSector) : State := slPut (makeRoom s slice (sec / 8)) sec slice x

/-- The value a home gives for a sector and the state after it (R194, R204). -/
def slRead (s : State) (slice sec key cls : Nat) (byp : Bool) : BitVec 256 × Bool × State :=
  if cls = 3 then (memSector s sec, s.memBad.contains sec, s)
  else
    let s := rekey s sec slice key
    match slGet s sec slice with
    | some x => (x.data, x.poison, s)
    | none =>
      let v := openSector s slice key sec (memSector s sec)
      let bad := s.memBad.contains sec
      if byp then (v, bad, s) else (v, bad, slFill s sec slice ⟨false, key, v, bad, cls⟩)

/-- Bytes off to off + len − 1 of a sector replaced. -/
def mergeBytes (old : BitVec 256) (off len : Nat) (v : Nat) : BitVec 256 :=
  let lo := 2 ^ (8 * off)
  let w := 2 ^ (8 * len)
  BitVec.ofNat 256 (old.toNat - old.toNat / lo % w * lo + v % w * lo)
def sectorField (v : BitVec 256) (off len : Nat) : Nat := v.toNat / 2 ^ (8 * off) % 2 ^ (8 * len)

/-- Replicas of a line that hold a written sector are invalidated first (R203). -/
def dropReplicas (s : State) (line : Nat) : State := { s with repl := s.repl.filter (fun r => r.1 != line) }

/-- A published write of part or all of a sector at its home (R198, R203, R204, R211). -/
def slWrite (s : State) (slice sec off len v key cls : Nat) (byp : Bool) : State :=
  let whole := len = 32
  if cls = 3 then
    let s := dropReplicas s (sec / 8)
    if s.memBad.contains sec && !whole then s
    else setMemBad (memPutSector s sec (mergeBytes (memSector s sec) off len v)) sec false
  else
    let s := rekey (dropReplicas s (sec / 8)) sec slice key
    match slGet s sec slice with
    | some x =>
      if x.poison && !whole then s
      else slPut s sec slice ⟨true, key, mergeBytes x.data off len v, false, cls⟩
    | none =>
      let bad := s.memBad.contains sec
      let old := if whole then 0 else openSector s slice key sec (memSector s sec)
      if byp && !linePresent s (sec / 8) slice then
        if bad && !whole then s
        else setMemBad (memPutSector s sec (sealSector s slice key sec (mergeBytes old off len v))) sec false
      else if bad && !whole then slFill s sec slice ⟨false, key, old, true, cls⟩
      else slFill s sec slice ⟨true, key, mergeBytes old off len v, false, cls⟩

/-- A sector whose value is poisoned, in the shared level or, where the slice holds none, in memory (R211). -/
def markBad (s : State) (sec slice : Nat) : State :=
  match slGet s sec slice with
  | some x => slPut s sec slice { x with poison := true }
  | none => setMemBad s sec true

/-! The grid, and replicas (01 R9; R202). Sites are numbered 8 y + x. -/

def siteG (d : Nat) : Nat := 8 * (d / 4) + 2 * (d % 4) + d / 4 % 2
def siteS (d : Nat) : Nat := 8 * (d / 4) + 2 * (d % 4) + (1 - d / 4 % 2)
/-- Hops between two sites on the full grid of links (15 R358). -/
def gridDist (a b : Nat) : Nat := (a % 8 - b % 8) + (b % 8 - a % 8) + (a / 8 - b / 8) + (b / 8 - a / 8)
/-- Slice d lies next to G-die g, on a minimal route from it to the home slice. -/
def onRoute (g d home : Nat) : Bool :=
  gridDist (siteG g) (siteS d) == 1 && gridDist (siteS d) (siteS home) + 1 == gridDist (siteG g) (siteS home)
/-- A normal read of class 1 from a G-die hits a poisoned replica: it may hit the one on its route (R202), and whether it does is a
free choice. -/
def hitsBadReplica (s : State) (die sec cls : Nat) (byp : Bool) : Bool :=
  cls == 1 && !byp && freeAt s 3000 % 2 == 1
    && s.replBad.any (fun r => r.1 == sec && s.repl.contains (sec / 8, r.2) && onRoute die r.2 (homeSlice s (32 * sec)))

/-! Team-private versions (10 R242). -/

def privOf (s : State) (sec slice team : Nat) : Option Priv :=
  s.priv.find? (fun p => p.sector == sec && p.slice == slice && p.team == team)
/-- A private version becomes the published value, as one write; a poisoned one makes it poisoned (08 R208). -/
def publishOne (s : State) (p : Priv) : State :=
  let s := slWrite { s with priv := s.priv.filter (fun q => q != p) } p.slice p.sector 0 32 p.data.toNat p.key p.cls p.byp
  if p.poison then markBad s p.sector p.slice else s
def publishWhere (s : State) (f : Priv → Bool) : State := (s.priv.filter f).foldl publishOne s
def publishTeam (s : State) (team : Nat) : State := publishWhere s (fun p => p.team == team)
/-- What a release of a team publishes: not the versions of commands that are all still outstanding (R243). -/
def publishCovered (s : State) (team : Nat) : State :=
  let out (i : Nat) : Bool := match getTeam s team with
    | some T => T.copies.any (fun c => c.id == i && !c.finished)
    | none => false
  publishWhere s (fun p => p.team == team && !(p.cmds.all out && !p.cmds.isEmpty))
def publishSector (s : State) (sec slice : Nat) : State := publishWhere s (fun p => p.sector == sec && p.slice == slice)

/-! Narrow-release records (10 R244). -/

def dropTag (s : State) (sec slice : Nat) : State :=
  { s with ntag := s.ntag.filter (fun n => !(n.sector == sec && n.slice == slice)) }
/-- A full slice takes its oldest record's team, which publishes everywhere, and drops that team's records here. -/
def evictTag (s : State) (slice : Nat) : State :=
  match s.ntag.find? (fun n => n.slice == slice) with
  | some n => let s := publishTeam s n.team; { s with ntag := s.ntag.filter (fun m => !(m.slice == slice && m.team == n.team)) }
  | none => s
def recordTag (s : State) (sec slice : Nat) (team : Option Nat) : State :=
  match team with
  | none => dropTag s sec slice
  | some t =>
    let s := dropTag s sec slice
    let s := if 4096 ≤ (s.ntag.filter (fun n => n.slice == slice)).length then evictTag s slice else s
    { s with ntag := s.ntag ++ [⟨slice, sec, t⟩] }

/-! Accesses at a home. -/

/-- The memory port behind an address: near DRAM of an S-die, or far memory of an E-die (R192, R206). -/
def memPort (pa : Nat) : Nat := if pa < farBase then 20 + pa / 2 ^ 33 else 40 + farEdie pa
/-- A flit spent by a quality-of-service class: of the home slice's request queue, and of the memory port too where the slice
does not hold the sector (15 R359). -/
def spendFlit (pa cls : Nat) (s : State) : State :=
  let spend (port : Nat) (s : State) : State :=
    { s with budget := spSet 0 s.budget (4 * port + cls) (spGet 0 s.budget (4 * port + cls) + 1) }
  let s' := spend (homeSlice s pa) s
  if (slGet s (pa / 32) (homeSlice s pa)).isSome then s' else spend (memPort pa) s'

/-! Packets of the fabric (15 R358): what each is for, as a kind and a number. -/

def pktId (kind n : Nat) : Nat := 32 * n + kind
/-- Requests and responses of a gang's access. -/
def accPktId (g id k : Nat) (resp : Bool) : Nat := pktId (if resp then 1 else 0) (2 ^ 48 * g + 2 ^ 12 * id + k)
/-- A record, or a decrement, that a gang sends to a bank. -/
def storePktId (g id : Nat) : Nat := pktId 5 (2 ^ 48 * g + id)
/-- The decrement of a completed record. -/
def signalPktId (rec : Nat) : Nat := pktId 6 rec
def parkPktId (g : Nat) : Nat := pktId 7 g
def migrationPktId (rec : Nat) : Nat := pktId 8 rec
def leftPktId (team id : Nat) : Nat := pktId 9 (2 ^ 48 * team + id)
/-- A record that a control core sends to a bank. -/
def corePktId (bank core n : Nat) : Nat := pktId 10 (64 * (2 ^ 32 * n + bank) + core)
/-- What the issue of a path's bundle reads at a slice for its translation: page table entries. -/
def issuePktId (g : Nat) (p : PathSlot) (port : Nat) : Nat := pktId 11 (256 * (2 * g + (if p = .A then 0 else 1)) + port)
/-- A packet of this number, or its response, is still under way. -/
def underWay (s : State) (n : Nat) : Bool := s.pkts.any (fun p => p.id == n && (p.site != p.dst || p.back.isSome))

/-- A read of bytes inside one sector by an issuer of a team (R201, R242): value, poison, state. -/
def homeReadAt (s : State) (team : Option Nat) (pa len key cls : Nat) (byp : Bool) : Nat × Bool × State :=
  let sec := pa / 32
  let slice := homeSlice s pa
  match team.bind (privOf s sec slice) with
  | some p => if cls = 3 then
      let (v, bad, s) := slRead s slice sec key cls byp
      (sectorField v (pa % 32) len, bad, s)
    else (sectorField p.data (pa % 32) len, p.poison, s)
  | none =>
    let (v, bad, s) := slRead s slice sec key cls byp
    (sectorField v (pa % 32) len, bad, s)

/-- A published write inside one sector: pending private versions of it are published first (R242). -/
def homeWriteAt (s : State) (tag : Option Nat) (pa len v key cls : Nat) (byp : Bool) : State :=
  let sec := pa / 32
  let slice := homeSlice s pa
  let s := publishSector s sec slice
  slWrite (recordTag s sec slice tag) slice sec (pa % 32) len v key cls byp

/-- A copy write of command `cmd` inside one sector: another team's version is published first; class 3 is performed directly,
untagged; the others make a private version (R242). A write of the whole sector reads nothing (R198). DESIGN CHOICE (log entry 130):
a version written again is the newest of its slice. -/
def copyWriteAt (s : State) (team cmd pa len v key cls : Nat) (byp : Bool) : State :=
  let sec := pa / 32
  let slice := homeSlice s pa
  let s := publishWhere s (fun p => p.sector == sec && p.slice == slice && p.team != team)
  if cls = 3 then slWrite (dropTag s sec slice) slice sec (pa % 32) len v key cls byp
  else
    let cmds := match privOf s sec slice team with
      | some p => cmd :: p.cmds.filter (· != cmd)
      | none => [cmd]
    let (old, bad, s) := match privOf s sec slice team with
      | some p => (p.data, p.poison, s)
      | none => if len = 32 then (0, false, s) else slRead s slice sec key cls byp
    if bad && len != 32 then s
    else
      let s := { s with priv := s.priv.filter (fun p => !(p.sector == sec && p.slice == slice && p.team == team)) }
      let s := if 4096 ≤ (s.priv.filter (fun p => p.slice == slice)).length then
          (match s.priv.find? (fun p => p.slice == slice) with | some p => publishOne s p | none => s) else s
      { s with priv := s.priv ++ [⟨sec, slice, team, key, mergeBytes old (pa % 32) len v, cls, byp, false, cmds⟩] }

/-- The value of a doubleword or word under AMO (11 R264). -/
def amoNew (op : AmoOp) (dbl : Bool) (old b : Nat) : Nat :=
  let w := if dbl then 64 else 32
  let o := old % 2 ^ w
  let x := b % 2 ^ w
  match op with
  | .add => (o + x) % 2 ^ w
  | .and => o &&& x
  | .or => o ||| x
  | .xor => o ^^^ x
  | .smin => if sext64 w o ≤ sext64 w x then o else x
  | .smax => if sext64 w x ≤ sext64 w o then o else x
  | .umin => min o x
  | .umax => max o x
  | .swap => x
where
  sext64 (w n : Nat) : Int := if n < 2 ^ (w - 1) then (n : Int) else (n : Int) - (2 ^ w : Nat)

/-- ACQR's action before its read (10 R245): the team recorded for the sector publishes everywhere. -/
def remoteAcquire (s : State) (pa : Nat) : State :=
  let sec := pa / 32
  let slice := homeSlice s pa
  match s.ntag.find? (fun n => n.sector == sec && n.slice == slice) with
  | some n => dropTag (publishTeam s n.team) sec slice
  | none => s

/-! Interrupts and the error log (22 R433–R435). -/

def raiseIrq (s : State) (i : Irq) : State := { s with irqs := s.irqs ++ [i] }
/-- A control core that has been started: its E-die's cores run, and it is not retired (R429, R436). -/
def coreRuns (s : State) (n : Nat) : Bool := s.mgmt.coresEdies.testBit (n / 16) && !s.mgmt.retiredCores.contains n
def anyCore (s : State) : Bool := (List.range 64).any (coreRuns s)
def logBase : Nat := devBase + 0x40000000
/-- The fields of an error record (R434). -/
structure ErrRec where
  kind : Nat
  uclass : Nat
  uidx : Nat
  site : Nat
  paddr : Nat
  wcnt : Nat
  ctx : Option Nat
  lasting : Bool
  poison : Bool
  corr : Bool
  cause : Nat
  detail : Nat
  deriving DecidableEq, Repr
def errWords (s : State) (seq : Nat) (r : ErrRec) : List DWord :=
  let b (c : Bool) : Nat := if c then 1 else 0
  let v : Nat := r.detail % 2 ^ 248 + r.cause * 2 ^ 248 + b r.corr * 2 ^ 256 + b r.poison * 2 ^ 257 + b r.lasting * 2 ^ 258
    + b r.ctx.isSome * 2 ^ 259 + r.ctx.getD 0 * 2 ^ 260 + (min r.wcnt 255) * 2 ^ 272 + r.site * 2 ^ 280 + r.uidx * 2 ^ 288
    + r.uclass * 2 ^ 304 + r.kind * 2 ^ 312 + r.paddr * 2 ^ 320 + (s.mgmt.start % 2 ^ 16) * 2 ^ 368
    + (ptime s).toNat * 2 ^ 384 + seq * 2 ^ 448
  (List.range 8).map (fun i => BitVec.ofNat 64 (v / 2 ^ (64 * i)))
/-- Write an error record and raise wcount; count an overwritten record; interrupt the control cores except for
kinds 0x01, 0x05, 0x07 and 0x0A; a Redfish event where R433 says so. -/
def logErr (s : State) (r : ErrRec) : State :=
  let n := (devGet s logBase).toNat
  let seq := n + 1
  let unread := decide (2 ^ 21 ≤ n) &&
    (decide ((devGet s (logBase + 8)).toNat < seq - 2 ^ 21) || decide ((devGet s (logBase + 16)).toNat < seq - 2 ^ 21))
  let base := logBase + 0x01000000 + 64 * ((seq - 1) % 2 ^ 21)
  let s' := (errWords s seq r).zipIdx.foldl (fun s p => devSet s (base + 8 * p.2) p.1) s
  let s' := devSet s' logBase (BitVec.ofNat 64 seq)
  let s' := if unread then devSet s' (logBase + 24) (devGet s (logBase + 24) + 1) else s'
  let s' := if r.kind = 1 ∨ r.kind = 5 ∨ r.kind = 7 ∨ r.kind = 10 then s' else raiseIrq s' .errlog
  if r.lasting || r.kind == 0x0D || r.kind == 0x0E then
    { s' with mgmt := { s'.mgmt with lastEvents := s'.mgmt.lastEvents ++ [BitVec.ofNat 16 r.kind] } }
  else s'
/-- An access to an unpopulated address is refused and recorded (08 R193): the context it acts for, if any, and the cause that it
delivers to a gang, or 0. -/
def logUnpopulated (s : State) (site pa : Nat) (ctx : Option Nat) (cause : Nat) : State :=
  logErr s ⟨0x09, 0, 0, site, pa, 0, ctx, false, false, false, cause, 0⟩

/-! Plain bytes of the module's own areas: save areas, spill regions (13 R304, 21 R418). They are written through
the shared level as plaintext. -/

def areaClear (s : State) (pa len : Nat) : State :=
  { s with mem := spClear s.mem pa len,
           sl := s.sl.filter (fun c => !(decide (pa / 32 ≤ c.1 / 32) && decide (c.1 / 32 < (pa + len) / 32))),
           memBad := s.memBad.filter (fun q => !(decide (pa / 32 ≤ q) && decide (q < (pa + len) / 32)))
           repl := s.repl.filter (fun r => !(decide (pa / 256 ≤ r.1) && decide (r.1 ≤ (pa + len) / 256)))
           priv := s.priv.filter (fun p => !(decide (pa / 32 ≤ p.sector) && decide (p.sector < (pa + len) / 32)))
           ntag := s.ntag.filter (fun p => !(decide (pa / 32 ≤ p.sector) && decide (p.sector < (pa + len) / 32))) }
/-- Write a number of len bytes at an address that does not cross a sector. -/
def areaPut (s : State) (pa len v : Nat) : State := slWrite s (homeSlice s pa) (pa / 32) (pa % 32) len v 0 0 false
def areaByte (s : State) (pa : Nat) : Byte :=
  match slGet s (pa / 32) (homeSlice s pa) with
  | some x => BitVec.ofNat 8 (sectorField x.data (pa % 32) 1)
  | none => spGet 0 s.mem pa
def areaNat (s : State) (pa len : Nat) : Nat := leNat ((List.range len).map (fun i => areaByte s (pa + i)))
def areaBad (s : State) (pa len : Nat) : Bool :=
  (List.range ((len + 31) / 32)).any (fun i => match slGet s (pa / 32 + i) (homeSlice s (pa + 32 * i)) with
    | some x => x.poison
    | none => s.memBad.contains (pa / 32 + i))
/-- Write a list of bytes, directly to memory, after the range has been cleared from the shared level. -/
def areaWrite (s : State) (pa : Nat) (bs : List Byte) : State := { s with mem := spSetList 0 s.mem pa bs }

end Sys2Proof.Machine
end

