-- ==== Sys2Proof/Machine/Context.lean ====
section
/-! DEFINITION. Translation with leases, replayable faults and the fault buffer, the end of a team's admission and
the end of a context (19; 15 R353). -/

namespace Sys2Proof.Machine

/-! Translation (R390–R394). -/

/-- Rights: r 1, w 2, x 4. -/
abbrev Rights := Nat

inductive Tr where
  | ok (pa key cls home tick : Nat)
  | absent
  | ends               -- cause 0x09
  | bad (pa : Option Nat) -- a table entry is poisoned, or lies at an unpopulated address
  deriving DecidableEq, Repr

/-- One page table entry: cached under a live lease (which use never extends), or read at its home. A cached
entry may be used or read again: a free choice (R394, log entry 5). -/
def readEntry (s : State) (agent ctx level pa : Nat) (cached : Bool) : Option (DWord × Nat × Bool) :=
  let fresh : Option (DWord × Nat × Bool) :=
    if !populated s pa then none
    else
      let r := homeReadAt s none pa 8 0 0 true
      if r.2.1 then none else some (BitVec.ofNat 64 r.1, s.tick, true)
  match s.tlb.find? (fun t => t.agent == agent && t.pa == pa && decide (s.tick < t.tick + 2 ^ ctxLease s ctx)) with
  | some t => if cached && freeAt s (600 + level) % 2 == 0 then some (t.ent, t.tick, false) else fresh
  | none => fresh

/-- A malformed entry at a level (R391, R392). -/
def malformed (e : DWord) (level : Nat) : Bool :=
  if e.getLsbD 1 then
    e.getLsbD 48 || level == 1 || (level == 2 && dbits e 15 10 == 0 && dbits e 27 16 != 0)
  else level == 3 || dbits e 63 48 != 0 || dbits e 15 2 != 0

/-- The rest of a walk from level: the result, and the entries read on the way. -/
def walkFrom (s : State) (agent ctx va : Nat) (need : Rights) (copy : Bool) (table level tick : Nat)
    (seen : List TlbEnt) (cached : Bool) : Nat → Tr × List TlbEnt
  | 0 => (.ends, [])
  | fuel + 1 =>
    let idx := if level = 1 then nbits va 51 40 else if level = 2 then nbits va 39 28 else nbits va 27 16
    let pa := table + 8 * idx
    match readEntry s agent ctx level pa cached with
    | none => (.bad (if populated s pa then none else some pa), [])
    | some (e, t, isNew) =>
      let tick := min tick t
      let seen := if isNew then ⟨agent, pa, e, t⟩ :: seen else seen
      if !e.getLsbD 0 then (.absent, [])
      else if malformed e level then (.ends, [])
      else if !e.getLsbD 1 then walkFrom s agent ctx va need copy (dbits e 47 16 * 2 ^ 16) (level + 1) tick seen cached fuel
      else
        let base := dbits e 47 16 * 2 ^ 16
        let home := dbits e 15 10
        let have' := dbits e 51 49
        if dbits e 63 52 != ctx then (.ends, [])
        else if home = 0 && devBase ≤ base then (.ends, [])
        else if need &&& have' != need then (.ends, [])
        else if home != 0 && !copy then (.ends, [])
        else (.ok (base + (if level = 2 then va % 2 ^ 28 else va % 2 ^ 16)) (dbits e 9 4) (dbits e 3 2) home tick, seen)

/-- Translate an address for an agent of a context (R392). A walk through cached entries that does not permit the access is
made again from the tables: rights added, or a page made present, need no unmap. -/
def translate (s : State) (agent ctx va : Nat) (need : Rights) (copy : Bool) : Tr × List TlbEnt :=
  match walkFrom s agent ctx va need copy (ctxRoot s ctx) 1 s.tick [] true 3 with
  | (.ok pa key cls home tick, es) => (.ok pa key cls home tick, es)
  | _ => walkFrom s agent ctx va need copy (ctxRoot s ctx) 1 s.tick [] false 3
/-- The unpopulated address a translation meets: its target, or a table entry (08 R193). -/
def trRefused (s : State) : Tr → Option Nat
  | .ok pa _ _ _ _ => if populated s pa then none else some pa
  | .bad pa => pa
  | .absent | .ends => none
/-- Keep the entries a walk read (R394), which took their flits (15 R359). -/
def cacheWalk (s : State) (es : List TlbEnt) : State :=
  { es.foldl (fun s e => spendFlit e.pa 0 s) s with tlb := es ++ s.tlb.filter (fun t => !(es.any (fun e => e.agent == t.agent && e.pa == t.pa))) }

/-- A replay walks its translations again (R399): what the agent has cached goes. DESIGN CHOICE (log entry 116): it goes for all
that the agent does, which no rule makes keep a cached entry. -/
def dropWalks (agent : Nat) (s : State) : State := { s with tlb := s.tlb.filter (fun e => e.agent != agent) }

/-- Agents with translation caches: gangs, the copy engine of a team, the dispatcher of a G-die (R394). -/
def agGang (g : Nat) : Nat := g
def agCopy (t : Nat) : Nat := 100000 + t
def agDisp (d : Nat) : Nat := 50000 + d

/-! The fault buffer (R396–R399). -/

def fbAddr (d n : Nat) : Nat := dieWin d + 0x10000 + 32 * n
def fbState (s : State) (d n : Nat) : Nat := dbits (devGet s (fbAddr d n)) 1 0
def fbCtx (s : State) (d n : Nat) : Nat := dbits (devGet s (fbAddr d n + 24)) 11 0
def fbImage (s : State) (d n : Nat) : BitVec 256 :=
  BitVec.ofNat 256 (leNat ((List.range 4).flatMap (fun i => leBytes 8 (devGet s (fbAddr d n + 8 * i)).toNat)))
def fbWrite (s : State) (d n : Nat) (v : BitVec 256) : State :=
  (List.range 4).foldl (fun s i => devSet s (fbAddr d n + 8 * i) (BitVec.ofNat 64 (v.toNat / 2 ^ (64 * i)))) s

/-- The fields of an entry (R397), its state pending. -/
structure FaultRec where
  va : Nat
  ctx : Nat
  loc : Nat
  kind : Nat
  need : Nat
  path : Nat
  off : Nat
  cmd : Nat
  team : Nat             -- the team it holds, 0 for a record's: no field of the entry
  deriving DecidableEq, Repr
def faultImg (f : FaultRec) : BitVec 256 :=
  BitVec.ofNat 256 (1 + f.cmd % 256 * 2 ^ 56 + f.off % 2 ^ 64 * 2 ^ 64 + f.path * 2 ^ 144 + f.need * 2 ^ 145
    + f.kind * 2 ^ 148 + f.loc % 2 ^ 24 * 2 ^ 160 + f.ctx * 2 ^ 192 + f.va % 2 ^ 52 * 2 ^ 204)
def imgCtx (v : BitVec 256) : Nat := nbits v.toNat 203 192
def imgKind (v : BitVec 256) : Nat := nbits v.toNat 151 148
/-- Two entries of one bundle, piece or start on one page. -/
def sameFault (a b : BitVec 256) : Bool :=
  imgCtx a == imgCtx b && imgKind a == imgKind b && nbits a.toNat 183 160 == nbits b.toNat 183 160
    && nbits a.toNat 144 144 == nbits b.toNat 144 144 && nbits a.toNat 63 56 == nbits b.toNat 63 56
    && nbits a.toNat 255 220 == nbits b.toNat 255 220

def fbEntries (s : State) (d : Nat) : List (BitVec 256) :=
  ((List.range 32).filter (fun n => fbState s d n != 0)).map (fbImage s d)
def fbCount (s : State) (d c : Nat) : Nat := ((fbEntries s d).filter (fun v => imgCtx v == c)).length
def fbFree (s : State) (d : Nat) : Option Nat := (List.range 32).find? (fun n => fbState s d n == 0)

/-- The pending entries and the waits without one, each with the team it holds. -/
def faultsOf (s : State) (d : Nat) : List (BitVec 256 × Nat) :=
  ((List.range 32).filter (fun n => fbState s d n != 0)).map (fun n => (fbImage s d n, spGet 0 (getDie s d).owners n))
    ++ (getDie s d).waits.map (fun w => (w.img, w.team))
/-- A team among all that are admitted. -/
def teamKey (T : Team) : Nat := 65536 * T.recId + T.num
/-- An entry is written, with its interrupt. -/
def putFault (s : State) (d n : Nat) (img : BitVec 256) (team : Nat) : State :=
  raiseIrq (modDie (fbWrite s d n img) d (fun D => { D with owners := spSet 0 D.owners n team })) (.fault d)
/-- The rights of a further fault on a page join those of the entry, or of the wait, that the page has (R397). -/
def addNeed (s : State) (d : Nat) (f : FaultRec) : State :=
  let more (v : BitVec 256) (team : Nat) : BitVec 256 :=
    if sameFault (faultImg f) v && team == f.team then v ||| BitVec.ofNat 256 (f.need * 2 ^ 145) else v
  let s := (List.range 32).foldl (fun s n =>
    if fbState s d n = 1 then fbWrite s d n (more (fbImage s d n) (spGet 0 (getDie s d).owners n)) else s) s
  modDie s d (fun D => { D with waits := D.waits.map (fun w => { w with img := more w.img w.team }) })
/-- Record a not-present fault: an entry and an interrupt, or a wait without an entry (R397, R398). -/
def recordFault (s : State) (d : Nat) (f : FaultRec) : State :=
  let img := faultImg f
  let wait : State := modDie s d (fun D => { D with waits := D.waits ++ [⟨img, f.team⟩] })
  if (faultsOf s d).any (fun v => sameFault img v.1 && v.2 == f.team) then addNeed s d f
  else match fbFree s d with
    | some n => if fbCount s d f.ctx < 16 then putFault s d n img f.team else wait
    | none => wait
/-- The distinct pages among faulting accesses, each with its first address and all the rights needed there (R397). -/
def faultPages (vas : List (Nat × Nat)) : List (Nat × Nat) :=
  vas.foldl (fun l v =>
    if l.any (fun w => w.1 / 2 ^ 16 == v.1 / 2 ^ 16) then l.map (fun w => if w.1 / 2 ^ 16 = v.1 / 2 ^ 16 then (w.1, w.2 ||| v.2) else w)
    else l ++ [v]) []

/-- A freed entry goes to the oldest waiting fault of a context below 16 (R398). -/
def grantEntry (s : State) (d : Nat) : State :=
  match fbFree s d, (getDie s d).waits.find? (fun w => fbCount s d (imgCtx w.img) < 16) with
  | some n, some w =>
    putFault (modDie s d (fun D => { D with waits := D.waits.erase w })) d n w.img w.team
  | _, _ => s
def freeEntry (s : State) (d n : Nat) : State := grantEntry (fbWrite s d n 0) d

/-- A pending entry, or a wait for one, that matches. -/
def faultPending (s : State) (d : Nat) (f : BitVec 256 → Nat → Bool) : Bool := (faultsOf s d).any (fun v => f v.1 v.2)
/-- A path of a team's gang is held by entries of its bundle (kinds 1 and 3). -/
def faultHeld (s : State) (T : Team) (g : Nat) (p : PathSlot) : Bool :=
  faultPending s (gangDie g) (fun v k => k == teamKey T && imgCtx v == T.ctx && (imgKind v == 1 || imgKind v == 3)
    && nbits v.toNat 183 160 == locator s T.ctx g 0 && nbits v.toNat 144 144 == (if p = .A then 0 else 1))
def pathFaulted (s : State) (g : Nat) (p : PathSlot) : Bool :=
  match gangTeam s g with
  | none => false
  | some T => faultHeld s T g p
/-- A copy command is held by its entry (kind 2). -/
def copyFaulted (s : State) (T : Team) (c : Copy) : Bool :=
  faultPending s (gangDie c.gang) (fun v k => k == teamKey T && imgCtx v == T.ctx && imgKind v == 2
    && nbits v.toNat 183 160 == locator s T.ctx c.gang 0 && nbits v.toNat 63 56 == c.seq % 256)
/-- A team start is held by its entry (kind 4). -/
def startFaulted (s : State) (T : Team) : Bool :=
  T.gangs.any (fun g => faultPending s (gangDie g) (fun v k => k == teamKey T && imgCtx v == T.ctx && imgKind v == 4
    && nbits v.toNat 183 160 == locator s T.ctx g 0))

/-! Admission (15 R353). -/

/-- Save-area table entry of a gang and slot (21 R417). -/
def saveEntry (g slot : Nat) : Nat := dieWin (gangDie g) + 0x20000 + 32 * gangPhys g + 8 * slot

/-- A gang without a team: its hardware stays, a spare it held is released. -/
def idleGang (G : Gang) : Gang :=
  { Gang.start with hw := G.hw, frozen := G.frozen, freezes := G.freezes, gc := G.gc, incoming := G.incoming }

/-- A gang is to fetch every line of its pair's instruction cache again (14 R337). -/
def markUnits (g : Nat) (s : State) : State :=
  modPair s (gangPair g) (fun P => { P with refetch := P.icache.foldl (fun m u => spPut m (2 * u.1 + g % 2) true) P.refetch })
/-- A spare released and not yet free stays so when the gang's team leaves (13 R302, R308). -/
def keepSpare (g : Nat) (s : State) : State :=
  let G := getGang s g
  match G.spareFreeAt with
  | some c => if G.spare then modPair s (gangPair g) (fun P => { P with spareBusy := max P.spareBusy (nowCyc s + (c - G.gc)) }) else s
  | none => s

/-- Barista writes 0 to a team's window and accumulator steps, with valid check bits (R353). -/
def clearWindow (W : Win) (H : EngineHw) : EngineHw :=
  let len := (W.len + 4095) / 4096 * 4096
  { H with
    spad := spClear H.spad W.base len
    acc := spClear H.acc (1024 * W.accBase) (1024 * W.acc)
    slots := spClear H.slots (8192 * W.slot) 8192
    spadBad := H.spadBad.filter (fun g => decide (8 * g < W.base) || decide (W.base + len ≤ 8 * g))
    accBad := H.accBad.filter (fun g => decide (2 * g < 1024 * W.accBase) || decide (1024 * (W.accBase + W.acc) ≤ 2 * g)) }

/-- A team's admission ends: its gangs leave it, its windows are cleared, its table entries are freed. -/
def endAdmission (s : State) (t : Nat) : State :=
  match getTeam s t with
  | none => s
  | some T =>
    let W := teamWin T
    let s := T.gangs.foldl (fun s g =>
      let s := modGang (if (getGang s g).team = some t then keepSpare g s else s) g (fun G =>
        let G := if G.team = some t then idleGang G else G
        { G with hw := G.hw.map (fun h => (h.1, clearWindow W h.2)) })
      devSet s (saveEntry g T.slot) 0) s
    { s with teams := spDel s.teams t, signals := s.signals.map (fun x => { x with teams := x.teams.erase t }) }

/-- Unbind the channels of a context that are bound to a grid number (09 R214, 19 R388). -/
def unbindGrid (s : State) (c grid : Nat) : State :=
  let s := (List.range 64).foldl (fun s ch =>
    if chGrid s c ch = grid then
      let a := ctxBlock c + 0x800 + 16 * ch
      devSet s a (dput (dput (devGet s a) 47 32 0) 15 15 0)
    else s) s
  { s with rounds := s.rounds.filter (fun r => r.ctx != c || chGrid s c r.ch != 0),
           sbcs := s.sbcs.filter (fun r => r.ctx != c || chGrid s c r.ch != 0) }
def unbindAll (s : State) (c : Nat) : State :=
  let s := (List.range 64).foldl (fun s ch =>
    let a := ctxBlock c + 0x800 + 16 * ch
    devSet s a (dput (dput (devGet s a) 47 32 0) 15 15 0)) s
  { s with rounds := s.rounds.filter (fun r => r.ctx != c), sbcs := s.sbcs.filter (fun r => r.ctx != c) }

/-- A context ends (R384): its teams stop and their state is discarded, its records go without signalling, its
channels are unbound, its fault entries freed, its private versions published; then fva, fcause and floc are
written, the state becomes 2 and the control cores are interrupted. -/
def endContext (s : State) (c : Nat) (cause : BitVec 8) (va : Nat) (loc : Nat) : State :=
  if !ctxActive s c then s
  else
    let ts := (s.teams.filter (fun p => p.2.ctx == c)).map (·.1)
    let s := ts.foldl (fun s t => endAdmission (publishTeam s t) t) { s with left := s.left.filter (fun x => x.ctx != c) }
    let s := { s with dies := s.dies.map (fun d => (d.1, { d.2 with
      banks := d.2.banks.map (fun b => (b.1, if bankOwner s d.1 b.1 = some c then { b.2 with recs := [], ring := [], arr := [], tags := [], decs := [] } else b.2))
      waits := d.2.waits.filter (fun w => imgCtx w.img != c) })) }
    let s := unbindAll s c
    let s := (List.range 20).foldl (fun s d => (List.range 32).foldl (fun s n =>
      if fbState s d n != 0 && fbCtx s d n == c then freeEntry s d n else s) s) s
    let b := ctxBlock c
    let s := devSet s (b + 56) (BitVec.ofNat 64 va)
    let s := devSet s (b + 48) (dput (dput (devGet s (b + 48)) 63 56 cause.toNat) 55 32 loc)
    let s := devSet s b (dput (devGet s b) 1 0 2)
    raiseIrq s (.ctxEnd c)

/-! What a bundle's memory accesses meet before issue (11 R254, R263). -/

/-- The context of the current gang's team; without a team no access translates. -/
def curCtx (s : State) : Option Nat := (gangTeam s s.cur.gang).map (·.ctx)

/-- One access of a bundle as a verdict: 0x03 beyond 52 bits and 0x04 misaligned come first (R263, R390). -/
def accessVerdict (s : State) (va size : Nat) (need : Rights) : Verdict :=
  if 2 ^ 52 ≤ va then .trap ⟨0x03, BitVec.ofNat 52 va, 0, 0, none⟩
  else if va % size ≠ 0 then .trap ⟨0x04, BitVec.ofNat 52 va, 0, 0, none⟩
  else match curCtx s with
    | none => .wait .fault
    | some c =>
      match (translate s (agGang s.cur.gang) c va need false).1 with
      | .ok pa _ _ _ _ => if populated s pa then .ok else .trap ⟨0x0F, BitVec.ofNat 52 va, 0, 0, some pa⟩
      | .absent => .fault [(va, need)]
      | .ends => .endCtx 0x09 va
      | .bad pa => .trap ⟨0x0F, BitVec.ofNat 52 va, 0, 0, pa⟩

/-- The translation of an access whose verdict was good. -/
def accessTr (s : State) (va : Nat) (need : Rights) : Option (Nat × Nat × Nat × Nat) × List TlbEnt :=
  match curCtx s with
  | none => (none, [])
  | some c =>
    match translate s (agGang s.cur.gang) c va need false with
    | (.ok pa key cls _ tick, es) => (some (pa, key, cls, tick), es)
    | _ => (none, [])

/-- A bundle held on not-present pages (R396, R397): one entry per distinct page, with the rights all its accesses need. -/
def holdOnFaults (vas : List (Nat × Nat)) (s : State) : State :=
  match gangTeam s s.cur.gang with
  | none => s
  | some T =>
    let s := (faultPages vas).foldl (fun s v => recordFault s (gangDie s.cur.gang)
      ⟨v.1, T.ctx, locator s T.ctx s.cur.gang 0, 1, v.2, if s.cur.path = .A then 0 else 1, 0, 0, teamKey T⟩) s
    holdPath .fault s

/-- The bundle's access ends the context (R384, R404). -/
def endFromIssue (cause : BitVec 8) (va : Nat) (s : State) : State :=
  match curCtx s with
  | none => s
  | some c => endContext s c cause va (locator s c s.cur.gang 0)

end Sys2Proof.Machine
end

