-- ==== Sys2Proof/Machine/Stack.lean ====
section
/-! DEFINITION. The reconvergence stack with its spill region, merges, the end of a path and the spare sequencer
(13 R298–R308). -/

namespace Sys2Proof.Machine

/-- A stack entry (R303). -/
structure StkEnt where
  rpc : VAddr
  dpc : VAddr
  tmask : Mask
  fmask : Mask
  spreq : Bool
  split : Bool
  arrb : Bool
  arra : Bool
  phaseElse : Bool
  ownerB : Bool
  deferred : Bool
  deriving DecidableEq, Repr

def entOf (v : BitVec 256) : StkEnt :=
  { rpc := v.extractLsb' 200 52, dpc := v.extractLsb' 148 52, tmask := v.extractLsb' 132 16, fmask := v.extractLsb' 116 16,
    spreq := v.getLsbD 6, split := v.getLsbD 5, arrb := v.getLsbD 4, arra := v.getLsbD 3, phaseElse := v.getLsbD 2,
    ownerB := v.getLsbD 1, deferred := v.getLsbD 0 }
def bitOf (b : Bool) : BitVec 1 := if b then 1 else 0
def entBitsOf (e : StkEnt) : BitVec 256 :=
  (0 : BitVec 4) ++ e.rpc ++ e.dpc ++ e.tmask ++ e.fmask ++ (0 : BitVec 109) ++ bitOf e.spreq ++ bitOf e.split
    ++ bitOf e.arrb ++ bitOf e.arra ++ bitOf e.phaseElse ++ bitOf e.ownerB ++ bitOf e.deferred

/-- Entries in the spill region, top first (R304). -/
def spilledEnts (s : State) (G : Gang) : List (BitVec 256) :=
  ((List.range G.spilled).map (fun i => BitVec.ofNat 256 (areaNat s (G.stkb + 32 * i) 32))).reverse
/-- A slot of the spill region lies in a poisoned sector (08 R211). -/
def spillBad (s : State) (G : Gang) (i : Nat) : Bool := areaBad s (G.stkb + 32 * i) 32
/-- A readback met poison: the entry stays where it is, and the gang takes 0x0F at its next boundary (08 R211; 21 R412). -/
def deferSpill (s : State) (g : Nat) (p : PathSlot) : State :=
  deferCause s g { cause := 0x0F, va := 0, pc := (getPath (getGang s g) p).pc, emask := 0, code := 0, opc := 0, slot := 0,
                   deferred := true, path := p }
/-- Whether an entry governs a path: a pair entry, or a deferred entry the path owns (R298). -/
def governs (p : PathSlot) (v : BitVec 256) : Bool :=
  let e := entOf v
  !e.deferred || (e.ownerB == decide (p = .B))
/-- Index of the governing entry among the on-chip entries. -/
def govIdx (G : Gang) (p : PathSlot) : Option Nat := G.stack.findIdx? (governs p)
def govEnt (G : Gang) (p : PathSlot) : Option StkEnt := (govIdx G p).bind (fun i => G.stack[i]?.map entOf)
/-- The governing entry lies in the spill region: a GELSE or GEND waits (R304). -/
def govSpilled (s : State) (G : Gang) (p : PathSlot) : Bool :=
  (govIdx G p).isNone && (spilledEnts s G).any (governs p)
def stackDepth (G : Gang) : Nat := G.stack.length + G.spilled

/-- The transfer of a spilled entry sets out, in class 3 (15 R359). -/
def sendFlow (g pa : Nat) (back : Bool) (s : State) : State :=
  let n := (s.flows.map (·.id)).foldl max 0 + 1
  { s with flows := s.flows ++ [⟨n, g, pa, back⟩] }
/-- Push: a ninth on-chip entry sends the bottom one to the next free spill slot (R304). -/
def pushEnt (s : State) (g : Nat) (e : StkEnt) : State :=
  let G := getGang s g
  if G.stack.length < 8 then modGang s g (fun G => { G with stack := entBitsOf e :: G.stack })
  else
    let bottom := (G.stack.getLast?.getD 0).toNat
    let s := areaPut (sendFlow g (G.stkb + 32 * G.spilled) false s) (G.stkb + 32 * G.spilled) 32 bottom
    modGang s g (fun G => { G with stack := entBitsOf e :: G.stack.dropLast, spilled := G.spilled + 1 })
/-- The most recently spilled entry is read back beneath the on-chip ones, if there is one and room for it (R304). -/
def readBack (g : Nat) (s : State) : State :=
  let G := getGang s g
  if G.spilled = 0 || 8 ≤ G.stack.length then s
  else if spillBad s G (G.spilled - 1) then deferSpill s g .A
  else
    let v := BitVec.ofNat 256 (areaNat s (G.stkb + 32 * (G.spilled - 1)) 32)
    modGang (sendFlow g (G.stkb + 32 * (G.spilled - 1)) true s) g (fun G => { G with stack := G.stack ++ [v], spilled := G.spilled - 1 })
/-- Read back entries until eight stand on chip, after one that poison held back. -/
def refillStack (g : Nat) (s : State) : State := (List.range 8).foldl (fun s _ => readBack g s) s
/-- Pop the entry at an index; spilled entries are read back beneath the others (R304). -/
def popIdx (s : State) (g i : Nat) : State := refillStack g (modGang s g (fun G => { G with stack := G.stack.eraseIdx i }))
def setEnt (s : State) (g i : Nat) (f : StkEnt → StkEnt) : State :=
  modGang s g (fun G => { G with stack := G.stack.modify i (fun v => entBitsOf (f (entOf v))) })

/-! The whole stack: an index beyond the on-chip entries names one of the spill region (R304). -/

/-- Entry i of the whole stack. -/
def entAt (s : State) (G : Gang) (i : Nat) : Option StkEnt := ((G.stack ++ spilledEnts s G)[i]?).map entOf
/-- Write entry i, wherever it lies; a poisoned one stays as it is. -/
def setAny (s : State) (g i : Nat) (f : StkEnt → StkEnt) : State :=
  let G := getGang s g
  if i < G.stack.length then setEnt s g i f
  else if spillBad s G (stackDepth G - 1 - i) then s
  else match entAt s G i with
    | some e => areaPut s (G.stkb + 32 * (stackDepth G - 1 - i)) 32 (entBitsOf (f e)).toNat
    | none => s
/-- Pop entry i, wherever it lies: those beneath it stay, those of the spill region above it move down. -/
def popAny (s : State) (g i : Nat) : State :=
  let G := getGang s g
  if i < G.stack.length then popIdx s g i
  else
    let r := ((spilledEnts s G).eraseIdx (i - G.stack.length)).reverse
    modGang ((r.zipIdx.filter (fun v => decide (stackDepth G - 1 - i ≤ v.2))).foldl (fun s v => areaPut s (G.stkb + 32 * v.2) 32 v.1.toNat) s) g (fun G => { G with spilled := r.length })
/-- The pair entry (R299). -/
def pairIdx (s : State) (G : Gang) : Option Nat := (G.stack ++ spilledEnts s G).findIdx? (fun v => !(entOf v).deferred)
/-- Change the pair entry. -/
def setPair (s : State) (g : Nat) (f : StkEnt → StkEnt) : State :=
  match pairIdx s (getGang s g) with
  | some i => setAny s g i f
  | none => s

/-- An entry after slot B's path has become slot A's: the path that ended in slot A stands as the other one (R299). -/
def swapEnt (v : BitVec 256) : BitVec 256 :=
  let e := entOf v
  entBitsOf { e with arra := e.arrb, arrb := e.arra, ownerB := false, split := false, spreq := false }
def swapStack (s : State) (g : Nat) : State :=
  let G := getGang s g
  let s := (List.range G.spilled).foldl (fun s i => if spillBad s G i then s else
    areaPut s (G.stkb + 32 * i) 32 (swapEnt (BitVec.ofNat 256 (areaNat s (G.stkb + 32 * i) 32))).toNat) s
  modGang s g (fun G => { G with stack := G.stack.map swapEnt })

/-- Arrivals in open rounds: those of slot A stay as an ended path's, those of slot B become slot A's (09 R215). -/
def retagArrivals (s : State) (g : Nat) (f : PathSlot → Option PathSlot) : State :=
  { s with rounds := s.rounds.map (fun r => if r.due.isSome then r else
      { r with arrs := r.arrs.map (fun a => if a.gang = g ∧ some a.team = (getGang s g).team then { a with path := a.path.bind f } else a) }) }
def becomesA : PathSlot → Option PathSlot
  | .A => none
  | .B => some .A
/-- Actions in flight of slot B follow the path when it becomes or merges into slot A. -/
def retagB (G : Gang) : Gang :=
  { G with
    flight := G.flight.map (fun f => { f with path := .A })
    ilks := G.ilks.map (fun f => { f with path := .A })
    txns := G.txns.map (fun f => { f with path := .A })
    tops := G.tops.map (fun f => { f with path := .A })
    dsets := G.dsets.map (fun f => { f with path := .A }) }

/-- The paths that the words' stores precede, and those whose copies may read the words as they were, after slot B's path and slot A's
have become one (R301). -/
def mergeWords (ws : List OldWord) : List OldWord := ws.map (fun x => { x with owners := [.A], seen := [.A] })
/-- The same after a GIF of path p: both paths that come of it have p's stores behind them (10 R232). -/
def splitWords (p : PathSlot) (ws : List OldWord) : List OldWord :=
  (ws.filter (fun x => x.seen.contains p)).map (fun x =>
    { x with owners := if x.owners.contains p then [.A, .B] else [], seen := [.A, .B] })

/-- Release the spare sequencer, free from a gang cycle on (R302, R308). -/
def releaseSpare (c : Nat) (G : Gang) : Gang := if G.spare then { G with spareFreeAt := some c } else G

/-- Slot A's path has ended: its slot is free, or its mask is empty (R305). -/
def endedA (G : Gang) : Bool := !G.a.live || G.a.mask == 0
/-- The arrivals of the two paths at their merge: an ended path's stay as such, the other one's are the merged path's. Of two
that go on slot A's are (R301; log entry 108). -/
def mergedArrival (G : Gang) (p : PathSlot) : Option PathSlot :=
  match p with
  | .A => if endedA G then none else some .A
  | .B => if endedA G && G.b.mask != 0 then some .A else none
/-- The merge of R301 at a pair entry, with the deciding bundle issued in gang cycle t: slot A continues at `next`, as the path
that has not ended. DEDUCED (log entry 12): its narrow-release tag is set if either half's is. -/
def mergePair (s : State) (g i : Nat) (next : VAddr) (t : Nat) : State :=
  let G := getGang s g
  match entAt s G i with
  | none => s
  | some e =>
    let split := G.b.onspare
    let mask := (e.tmask ||| e.fmask) &&& ~~~G.retired
    let at' := if split then t + 8 else t + 4
    let s := retagArrivals s g (mergedArrival G)
    let s := modGang s g (fun G =>
      let place := stackDepth G - 1 - i
      let ended := G.ended.filter (fun x => x.place == place)
      let G := retagB G
      let G := { G with
        oldWords := mergeWords G.oldWords, relGc := (min G.relGc.1 G.relGc.2, min G.relGc.1 G.relGc.2)
        ilks := G.ilks.map (fun k => if ended.any (fun x => x.ilks.contains k.id) then { k with ended := false } else k) }
      let G := if split then releaseSpare (t + 8) G else G
      let A := if endedA G && G.b.live then { G.b with lnk := G.a.lnk } else G.a
      { G with
        a := { A with live := true, pc := next, mask := mask, entering := .none, parked := false, onspare := false, elig := at',
                        waited := false, hold := .none, tag := G.a.tag || G.b.tag,
                        acqId := ended.foldl (fun m x => max m x.acqId) (max G.a.acqId G.b.acqId),
                        own := G.a.own ++ G.b.own ++ ended.flatMap (·.own), eligPhases := none,
                        resolveAt := if mask = 0 then some t else none }
        b := Path.free, spareReq := false, handoverEnd := none, ended := G.ended.filter (fun x => x.place != place) })
    popAny s g i

/-- Mark a path arrived at its pair entry; merge when both have arrived. `next` follows the GEND. -/
def arrivePair (s : State) (g : Nat) (p : PathSlot) (i : Nat) (next : VAddr) (t : Nat) : State :=
  let s := setAny s g i (fun e => match p with | .A => { e with arra := true } | .B => { e with arrb := true })
  let s := modGang s g (fun G => modPath G p (fun P => { P with parked := true, pc := next, hold := .none }))
  match entAt s (getGang s g) i with
  | some e => if e.arra && e.arrb then mergePair s g i next t else s
  | none => s

/-! The end of a path (R305). -/

/-- Whether the resolution of an empty path leaves it without a mask: the slot ends, or waits arrived at a pair entry. Where the
other path has ended there too, or ends with it (`both`), the merged path goes on with what lies beneath. -/
def resolveEndsFrom (p : PathSlot) (both : Bool) (ret : Mask) : List (BitVec 256) → Bool
  | [] => true
  | v :: r =>
    let e := entOf v
    if !governs p v then resolveEndsFrom p both ret r
    else if !e.deferred then
      !((both || (match p with | .A => e.arrb | .B => e.arra)) && ((e.tmask ||| e.fmask) &&& ~~~ret == 0))
        || resolveEndsFrom .A false ret r
    else if e.phaseElse then ((e.tmask ||| e.fmask) &&& ~~~ret == 0) && resolveEndsFrom p both ret r
    else (e.fmask &&& ~~~ret == 0) && ((e.tmask ||| e.fmask) &&& ~~~ret == 0) && resolveEndsFrom p both ret r
/-- A path has emptied its mask, and its resolution is still to come. -/
def resolvesNext (G : Gang) (p : PathSlot) : Bool := let P := getPath G p; P.live && P.mask == 0 && P.resolveAt.isSome
def resolveEnds (s : State) (G : Gang) (p : PathSlot) : Bool :=
  resolveEndsFrom p (resolvesNext G (otherSlot p)) G.retired (G.stack ++ spilledEnts s G)

/-- The address after a GEND bundle, for a merge completed by a resolution: the parked path holds it. -/
def parkedNext (G : Gang) (p : PathSlot) (dflt : VAddr) : VAddr :=
  match p with
  | .A => if G.b.parked then G.b.pc else dflt
  | .B => if G.a.parked then G.a.pc else dflt

/-- An interlocked result after path p has ended: the other path's still, where both have issued it, else no path's. -/
def endIlk (p : PathSlot) (k : Ilk) : Ilk :=
  if k.both then { k with both := false, path := otherSlot p } else if k.path = p then { k with ended := true } else k
/-- The end of a slot: it is free, and path B gives up the spare it held or asked for (R308). A path whose pair entry
still waits for the other one has ended too, marked arrived: its slot is free (R299). Its arrivals in open rounds are kept (09
R215). -/
def endSlot (g : Nat) (p : PathSlot) (s : State) : State :=
  let s := retagArrivals s g (fun q => if q = p then none else some q)
  modGang (if p = .B then setPair s g (fun e => { e with split := false, spreq := false }) else s) g (fun G =>
    let G := if (getPath G p).onspare then releaseSpare (G.gc + 1) G else G
    let G := if p = .B then { G with spareReq := false, handoverEnd := none } else G
    let G := { G with ilks := G.ilks.map (endIlk p) }
    let G := setPath G p { Path.free with lnk := (getPath G p).lnk }
    if !G.a.live && !G.b.live then { G with run := .finishing, spareReq := false } else G)

/-- A path ends at the pair entry i: the merge there takes what it leaves. -/
def noteEnded (g : Nat) (p : PathSlot) (i : Nat) (s : State) : State :=
  modGang s g (fun G => { G with ended := ⟨stackDepth G - 1 - i, (getPath G p).own, (getPath G p).acqId,
    (G.ilks.filter (fun k => !k.ended && (k.path == p || k.both))).map (·.id)⟩ :: G.ended })
/-- The search for a path's governing entry meets a poisoned entry of the spill region. -/
def searchBad (s : State) (G : Gang) (p : PathSlot) : Bool :=
  let es := spilledEnts s G
  (govIdx G p).isNone
    && (List.range (((es.findIdx? (governs p)).map (· + 1)).getD es.length)).any (fun i => spillBad s G (G.spilled - 1 - i))
/-- The loop of R305. The governing entry may lie in the spill region: it is resolved there, unless poison keeps it from being
read. DESIGN CHOICE (log entry 131): a merged path with an empty mask that goes on through a deferred entry beneath the pair is
eligible at t + 4, with path B on the spare too. -/
def resolveLoop (g : Nat) (p : PathSlot) (t : Nat) : Nat → State → State
  | 0, s => s
  | fuel + 1, s =>
    let G := getGang s g
    let cont (pc : VAddr) (mask : Mask) (en : Entering) (s : State) : State :=
      modGang s g (fun G => modPath G p (fun P =>
        { P with pc := pc, mask := mask, entering := en, elig := t + 4, resolveAt := none, parked := false, waited := false,
                 eligPhases := none, hold := .none }))
    let gi := (G.stack ++ spilledEnts s G).findIdx? (governs p)
    if searchBad s G p then (if G.cause.isSome then s else deferSpill s g p)
    else match gi, gi.bind (entAt s G) with
    | some i, some e =>
      if !e.deferred then
        let s := modGang s g (fun G => modPath G p (fun P => { P with resolveAt := none }))
        let other := match p with | .A => e.arrb | .B => e.arra
        if other then arrivePair s g p i (parkedNext G p (getPath G p).pc) t
        else endSlot g p (noteEnded g p i <| setAny s g i (fun e => match p with | .A => { e with arra := true } | .B => { e with arrb := true }))
      else if !e.phaseElse then
        let mask := e.fmask &&& ~~~G.retired
        let s := setAny s g i (fun e => { e with phaseElse := true })
        if mask != 0 then cont e.dpc mask .diverged s
        else if (e.tmask ||| e.fmask) &&& ~~~G.retired == 0 then resolveLoop g p t fuel (popAny s g i)
        else resolveLoop g p t fuel s
      else
        let mask := (e.tmask ||| e.fmask) &&& ~~~G.retired
        if mask != 0 then cont e.rpc mask .none s
        else resolveLoop g p t fuel (popAny s g i)
    | _, _ => endSlot g p s

end Sys2Proof.Machine
end

