-- ==== Sys2Proof/Machine/Access.lean ====
section
/-! DEFINITION. Accesses of a gang to device memory after issue: their order, their performance at the home, the L1,
interlocked results and the fall of n.store (08 R194–R196, R201; 10 R233–R238, R241; 11 R254, R255, R263–R265, R286). -/

namespace Sys2Proof.Machine

/-! Issue of accesses. -/

/-- One access of the current path, translated as its check found, with the entries its walk leaves (R254, R263). -/
def accOf (s : State) (va len : Nat) (need : Rights) (op : AccOp) (byp : Bool) (eng ln : Nat) : Option Acc × List TlbEnt :=
  match accessTr s va need with
  | (some t, es) =>
    (some { va := va, pa := t.1, len := len, key := t.2.1, cls := t.2.2.1, byp := byp, op := op, rdTick := t.2.2.2,
            tag := if (curPath s).tag then (curGang s).team else none, eng := eng, lane := ln, done := false, got := 0,
            bad := false }, es)
  | (none, _) => (none, [])
def mkAcc (s : State) (va len : Nat) (need : Rights) (op : AccOp) (byp : Bool) (eng ln : Nat) : Option Acc × State :=
  let m := accOf s va len need op byp eng ln
  (m.1, cacheWalk s m.2)
/-- One more access of a bundle: all are translated in the state s that their check met; an entry that two walks leave
is cached once. -/
def addAcc (s : State) (r : List Acc × State) (va len : Nat) (need : Rights) (op : AccOp) (byp : Bool) (eng ln : Nat) :
    List Acc × State :=
  let m := accOf s va len need op byp eng ln
  (r.1 ++ m.1.toList, cacheWalk r.2 (m.2.filter (fun e => s.tlb.contains e || !r.2.tlb.contains e)))
/-- The transactions of the gang with a smaller id than this were issued before the bundle of the current issue. -/
def bundleSince (s : State) : Nat :=
  let G := curGang s
  ((G.txns.find? (fun T => T.t0 == G.gc && T.path == s.cur.path)).map (·.id)).getD G.nextId
/-- A transaction of instruction i. What the path has issued before its bundle precedes it in program order; accesses of one
bundle have no order among themselves (10 R232). -/
def addTxn (i : Instr) (s : State) (kind : TxnKind) (accs : List Acc) (due : Option Nat) : State :=
  modCur s (fun G =>
    let P := getPath G s.cur.path
    let own := P.own.filter (fun n => G.txns.any (fun T => T.id == n))
    modPath { G with
      txns := G.txns ++ [{ id := G.nextId, path := s.cur.path, kind := kind, accs := accs, due := due, after := P.acqId
                           prior := own.filter (fun n => G.txns.any (fun T => T.id == n && decide (T.t0 < G.gc))), since := bundleSince s, t0 := G.gc
                           opc := opcodeOf i, slot := BitVec.ofNat 4 s.cur.slot }]
      nextId := G.nextId + 1 } s.cur.path (fun P => { P with own := own ++ [G.nextId] }))
def raiseStore (s : State) : State := modCur s (fun G => { G with nstore := G.nstore + 1 })
/-- An interlocked destination filled by the transaction added next. -/
def ilkOfNext (s : State) (reg : Nat) : State := addIlk s reg (.mem ((curGang s).nextId + 1))

/-! Order of accesses. -/

def readsBack : TxnKind → Bool
  | .lds .. | .rmw .. | .acqr .. | .apLoad .. | .enq .. => true
  | .sts | .apStore | .recd .. => false
def storeClass : TxnKind → Bool
  | .sts | .apStore | .enq .. | .recd .. => true
  | _ => false
def isApLoad (T : Txn) : Bool :=
  match T.kind with
  | .apLoad _ _ _ => true
  | _ => false
/-- Two class 3 accesses of one agent to one target, in the order of their issue (08 R194). DEDUCED (log entry 100): a target is
a home slice, and the gang's sequencer with its engines is one agent, whichever of its paths issues. -/
def sameTarget (s : State) (a b : Acc) : Bool := a.cls == 3 && b.cls == 3 && homeSlice s b.pa == homeSlice s a.pa
/-- Access b of an earlier transaction number `id` comes before access a of one with these marks: it precedes it in program order
and is to its sector, or its class 3 keeps it before it. -/
def comesFirst (s : State) (prior : List Nat) (since : Nat) (a : Acc) (id : Nat) (b : Acc) : Bool :=
  (prior.contains id && b.pa / 32 == a.pa / 32) || (decide (id < since) && sameTarget s a b)
/-- A transaction before this one holds an access back: an access of it comes first, or it is a read an acquire or release waits
for. -/
def holdsBack (s : State) (T : Txn) (a : Acc) (U : Txn) : Bool :=
  U.accs.any (fun b => !b.done && comesFirst s T.prior T.since a U.id b)
    || (T.prior.contains U.id && decide (U.id < T.after) && readsBack U.kind)
def findTxn (G : Gang) (id : Nat) : Option Txn := G.txns.find? (fun T => T.id == id)
/-- Access k of a transaction may be performed now: none of the gang's holds it back, and no class 3 access that a finished
team has left on the gang is before it. -/
def accReady (s : State) (g : Nat) (T : Txn) (k : Nat) : Bool :=
  match T.accs[k]? with
  | some a => !a.done && !((getGang s g).txns.any (holdsBack s T a)) && !(s.left.any (fun y => y.gang == g && sameTarget s a y.acc))
  | none => false

/-! Performance at the home. -/

def setAcc (s : State) (g id k : Nat) (f : Acc → Acc) : State :=
  modGang s g (fun G => { G with txns := G.txns.map (fun T => if T.id == id then { T with accs := T.accs.modify k f } else T) })
/-- The gang's L1 loses a line. -/
def l1Drop (line : Nat) (G : Gang) : Gang :=
  dropFills (fun a => a.pa / 64 == line) { G with l1 := G.l1.filter (fun x => x.line != line) }

/-- The operation of an access in one step at its home (10 R241): the value read, whether it was poisoned. DESIGN CHOICE (log
entry 98): an AMO or CAS reads as with the bypass hint and writes as with hint 0 (08 R204 gives them no row), so that a CAS
which fails allocates nothing. -/
def actAtHome (s : State) (team : Option Nat) (a : Acc) : Nat × Bool × State :=
  match a.op with
  | .read => homeReadAt s team a.pa a.len a.key a.cls a.byp
  | .write v => (0, false, homeWriteAt s a.tag a.pa a.len v.toNat a.key a.cls a.byp)
  | .amo op b =>
    let r := homeReadAt (publishSector s (a.pa / 32) (homeSlice s a.pa)) none a.pa a.len a.key a.cls true
    if r.2.1 then (0, true, r.2.2)
    else (r.1, false, homeWriteAt r.2.2 a.tag a.pa a.len (amoNew op (a.len == 8) r.1 b.toNat) a.key a.cls false)
  | .cas b c =>
    let r := homeReadAt (publishSector s (a.pa / 32) (homeSlice s a.pa)) none a.pa a.len a.key a.cls true
    if r.2.1 then (0, true, r.2.2)
    else if r.1 = c.toNat % 2 ^ (8 * a.len) then
      (r.1, false, homeWriteAt r.2.2 a.tag a.pa a.len (b.toNat % 2 ^ (8 * a.len)) a.key a.cls false)
    else (r.1, false, r.2.2)
  | .acqr => homeReadAt (remoteAcquire s a.pa) team a.pa a.len a.key a.cls true
def isReadOp : AccOp → Bool
  | .read | .acqr => true
  | .write _ | .amo _ _ | .cas _ _ => false
def isAtomic : AccOp → Bool
  | .amo _ _ | .cas _ _ => true
  | .read | .write _ | .acqr => false
def isSts (T : Txn) : Bool :=
  match T.kind with
  | .sts => true
  | _ => false
/-- A gang's access is performed; an AMO or CAS takes its line out of the gang's L1, and a fill that may have read before an STS
was performed places no line (08 R195). -/
def performAcc (s : State) (g id k : Nat) (a : Acc) : State :=
  let r := actAtHome s (getGang s g).team a
  let bad := r.2.1 || (match a.op with | .read => hitsBadReplica s (gangDie g) (a.pa / 32) a.cls a.byp | _ => false)
  let s := if isAtomic a.op then modGang r.2.2 g (l1Drop (a.pa / 64))
    else if (findTxn (getGang s g) id).any isSts then modGang r.2.2 g (dropFills (fun x => x.pa / 64 == a.pa / 64))
    else r.2.2
  setAcc s g id k (fun a => { a with done := true, got := BitVec.ofNat 512 r.1, bad := bad })

/-! Accesses a finished gang leaves on their way (14 R325, 10 R241). -/

/-- Its AMOs and CASs that have not been performed. -/
def leftOf (ctx t rec g : Nat) (G : Gang) : List LeftAcc :=
  G.txns.flatMap (fun T => (T.accs.filter (fun a => !a.done && isAtomic a.op)).map (fun a => ⟨ctx, t, rec, g, T.id, T.after, T.prior, T.since, a⟩))
/-- One left by the same gang before it holds it back, as among the accesses of a gang that runs; of an earlier team, by class 3
alone. -/
def leftHolds (s : State) (x y : LeftAcc) : Bool :=
  y.gang == x.gang && (if y.team = x.team then
      comesFirst s x.prior x.since x.acc y.id y.acc || (x.prior.contains y.id && decide (y.id < x.after))
    else sameTarget s x.acc y.acc)
/-- One may be performed once those that hold it back have been. -/
def leftReady (s : State) (n : Nat) : Bool :=
  match s.left[n]? with
  | some x => !((s.left.take n).any (leftHolds s x))
  | none => false
def performLeft (s : State) (n : Nat) : State :=
  match s.left[n]? with
  | some x => { (actAtHome (spendFlit x.acc.pa 0 s) none x.acc).2.2 with left := s.left.eraseIdx n }
  | none => s

/-- The record an ENQ read, little-endian. -/
def recordOf (T : Txn) : BitVec 512 :=
  BitVec.ofNat 512 (T.accs.foldl (fun v a => v + a.got.toNat % 2 ^ 256 * 2 ^ (256 * a.lane)) 0)
/-- A queue bank of a G-die. -/
def bankAt (s : State) (die bank : Nat) : Bank := (spFind (getDie s die).banks bank).getD Bank.clear
def modBank (s : State) (die bank : Nat) (f : Bank → Bank) : State :=
  modDie s die (fun D => { D with banks := spPut D.banks bank (f ((spFind D.banks bank).getD Bank.clear)) })
/-- A record on its way to a bank. -/
def sendRecord (s : State) (die bank : Nat) (a : Arrival) : State :=
  modBank s die bank (fun B => { B with arr := B.arr ++ [a] })

/-- The bank has taken the record or the decrement of a transaction: its store is complete. -/
def storeTaken (s : State) (g id : Nat) : State :=
  modGang s g (fun G => { G with txns := G.txns.map (fun T => if T.id == id then { T with due := some G.gc } else T) })

/-- A deferred 0x0F of a transaction found bad after its issue (21 R412, R419). -/
def deferMem (s : State) (g : Nat) (T : Txn) (va : Nat) (em : Mask) : State :=
  deferCause s g { cause := 0x0F, va := BitVec.ofNat 52 va, pc := (getPath (getGang s g) T.path).pc, emask := em, code := 0,
                   opc := T.opc, slot := T.slot, deferred := true, path := T.path }

/-- The reads of one engine inside one sector are one access at the home: none of them sees another value than the others (10
R251). -/
def withAcc (T : Txn) (k : Nat) (a : Acc) : List Nat :=
  match T.kind with
  | .apLoad _ _ _ => ((T.accs.zipIdx).filter (fun x => !x.1.done && x.1.eng == a.eng && x.1.pa / 32 == a.pa / 32)).map (·.2)
  | _ => [k]
/-- The G-die of a gang has read a line of class 1: it may have a replica (08 R202). -/
def noteReader (die pa cls : Nat) (s : State) : State :=
  if cls = 1 ∧ !s.readers.contains (pa / 256, die) then { s with readers := (pa / 256, die) :: s.readers } else s
/-- Perform access k of a transaction; the last read of an ENQ sends the record, if none of it was poisoned. -/
def performTxn (s : State) (g id k : Nat) : State :=
  match findTxn (getGang s g) id with
  | none => s
  | some T =>
    match T.accs[k]? with
    | none => s
    | some a =>
      let s := spendFlit a.pa 0 s
      let s := if isReadOp a.op then noteReader (gangDie g) a.pa a.cls s else s
      let s := (withAcc T k a).foldl (fun s n => match T.accs[n]? with | some b => performAcc s g id n b | none => s) s
      match T.kind, findTxn (getGang s g) id with
      | .enq die bank, some T' =>
        if !T'.accs.all (·.done) then s
        else match T'.accs.find? (·.bad) with
          | some b => storeTaken (deferMem s g T' b.va 0) g id
          | none => sendRecord s die bank ⟨recordOf T', some (g, id), none, []⟩
      | _, _ => s

/-- A control core's load and store. DESIGN CHOICE (log entry 99): outside the windows they act with class 0 and hint 0, for no
rule gives them a cacheability class. -/
def coreRead (s : State) (pa key len : Nat) : State :=
  if isWindow pa then s
  else if !populated s pa then logUnpopulated s 0 pa none 0
  else (homeReadAt s none pa len key 0 false).2.2
def coreWrite (s : State) (pa key : Nat) (data : List Byte) : State :=
  if isWindow pa then s
  else if !populated s pa then logUnpopulated s 0 pa none 0
  else homeWriteAt s none pa data.length (leNat data) key 0 false
/-- A request a home may serve now: reads (HOME_READ) or writes (HOME_WRITE_PERFORM). Control cores read and write
up to 8 aligned bytes (10 R249). -/
def homeReady (s : State) (rd : Bool) (r : HomeReq) : Bool :=
  match r with
  | .txn g id k =>
    let G := getGang s g
    (match findTxn G id with
     | some T => accReady s g T k && (match T.accs[k]? with | some a => isReadOp a.op == rd | none => false)
     | none => false)
  | .left n => !rd && leftReady s n
  | .core pa _ data => anyCore s && decide (data.length ∈ [1, 2, 4, 8]) && pa.toNat % data.length == 0

def execHomeRead (r : HomeReq) (s : State) : Outcome :=
  .next (if homeReady s true r then
    (match r with
     | .txn g id k => performTxn s g id k
     | .left n => performLeft s n
     | .core pa key data => coreRead s pa.toNat key.toNat data.length) else s)
def execHomeWritePerform (r : HomeReq) (s : State) : Outcome :=
  .next (if homeReady s false r then
    (match r with
     | .txn g id k => performTxn s g id k
     | .left n => performLeft s n
     | .core pa key data => coreWrite s pa.toNat key.toNat data) else s)

/-! The L1 (08 R195, R196). -/

def l1Find (G : Gang) (pa : Nat) : Option L1Line := G.l1.find? (fun x => x.line == pa / 64)
def l1Bytes (x : L1Line) (pa len : Nat) : Nat := x.data.toNat / 2 ^ (8 * (pa % 64)) % 2 ^ (8 * len)
/-- The sequencer's own store updates a line that is present. -/
def l1Store (pa len v : Nat) (G : Gang) : Gang :=
  let sh := 2 ^ (8 * (pa % 64))
  let w := 2 ^ (8 * len)
  dropFills (fun a => a.pa / 64 == pa / 64)
    { G with l1 := G.l1.map (fun x => if x.line = pa / 64 then
        { x with data := BitVec.ofNat 512 (x.data.toNat - x.data.toNat / sh % w * sh + v % w * sh) } else x) }
/-- A fill evicts the line of a way of its set; the order that chooses the way is not defined. -/
def l1Put (line way : Nat) (data : BitVec 512) (G : Gang) : Gang :=
  { G with l1 := ⟨line, way, data⟩ :: G.l1.filter (fun x => x.line != line && !(x.line % 64 == line % 64 && x.way == way)) }

def dropTxn (id : Nat) (G : Gang) : Gang := { G with txns := G.txns.filter (fun T => T.id != id) }
def dropIlkOf (id : Nat) (G : Gang) : Gang :=
  { G with ilks := G.ilks.filter (fun k => match k.src with | .mem t => t != id | _ => true) }
/-- The interlocked register of a transaction takes a value now. -/
def answerIlk (id : Nat) (v : DWord) (G : Gang) : Gang :=
  { G with ilks := G.ilks.map (fun k => match k.src with
      | .mem t => if t = id then { k with src := .at G.gc v } else k
      | _ => k) }

/-- An LDS that fetched a line: both halves read, and its class allocates. -/
def fillReady (G : Gang) (id : Nat) : Bool :=
  match findTxn G id with
  | some T => (match T.kind with | .lds .. => T.accs.length == 2 && T.accs.all (·.done) | _ => false)
  | none => false
/-- A store of the gang's sequencer to a line has not been performed. -/
def stsPending (G : Gang) (line : Nat) : Bool := G.txns.any (fun U => isSts U && U.accs.any (fun b => !b.done && b.pa / 64 == line))
/-- The fill returns: the line is placed unless it was written or invalidated meanwhile or a store of either path to it is still
on its way, and the LDS has its value. -/
def execL1Fill (g id : Nat) (s : State) : Outcome :=
  .next (if fillReady (getGang s g) id then
    (match findTxn (getGang s g) id with
     | none => s
     | some T =>
       match T.kind, T.accs with
       | .lds _ size va, [lo, hi] =>
         let data := lo.got.toNat % 2 ^ 256 + hi.got.toNat % 2 ^ 256 * 2 ^ 256
         let own := if va % 64 < 32 then lo else hi
         let (w, s) := drawFree s
         let s := if lo.bad || hi.bad || 2 ≤ lo.cls || 2 ≤ hi.cls || stsPending (getGang s g) (lo.pa / 64) then s
                  else modGang s g (l1Put (lo.pa / 64) (w % 4) (BitVec.ofNat 512 data))
         if own.bad then deferMem (modGang s g (fun G => dropIlkOf id (dropTxn id G))) g T va 0
         else
           let v := BitVec.ofNat 64 (data / 2 ^ (8 * (va % 64)) % 2 ^ (8 * size))
           modGang s g (fun G => dropTxn id (answerIlk id v G))
       | _, _ => s) else s)

/-! Interlocked results (02 R58). -/

/-- The value of an interlocked register, once it can be written. -/
def ilkDue (G : Gang) (k : Ilk) : Bool :=
  match k.src with
  | .at c _ => decide (c ≤ G.gc)
  | .mem id =>
    (match findTxn G id with
     | some T => (match T.kind with | .lds .. => T.accs.length == 1 && T.accs.all (·.done) | .rmw .. | .acqr _ => T.accs.all (·.done) | _ => false)
     | none => false)
  | .sred _ _ => false
  | .sbc ch => G.fresh.getLsbD ch
def dropIlk (id : Nat) (G : Gang) : Gang := { G with ilks := G.ilks.filter (fun k => k.id != id) }
def setS (r : Nat) (v : DWord) (G : Gang) : Gang := healReg 0 (.s r) { G with s := spSet 0 G.s r v }
/-- An interlocked result is written, unless one of a later bundle or slot has been written in this gang cycle (02 R59). -/
def writeIlk (k : Ilk) (v : DWord) (G : Gang) : Gang :=
  if G.wrote.any (fun w => w.1 == k.reg && decide (k.order < w.2)) then G
  else setS k.reg v { G with wrote := (k.reg, k.order) :: G.wrote }
def findIlk (G : Gang) (id : Nat) : Option Ilk := G.ilks.find? (fun k => k.id == id)

/-- An interlocked value is written: a TIME, an L1 hit, a returned access, or a fresh broadcast (11 R264, R284). -/
def execInterlockedResultWrite (g id : Nat) (s : State) : Outcome :=
  let G := getGang s g
  .next (match findIlk G id with
    | none => s
    | some k =>
      if !ilkDue G k then s
      else match k.src with
        | .at _ v => modGang s g (fun G => dropIlk id (writeIlk k v G))
        | .sred _ _ => s
        | .sbc ch =>
          modGang s g (fun G => dropIlk id (writeIlk k (spGet 0 G.latch ch) { G with fresh := G.fresh &&& ~~~(BitVec.twoPow 64 ch) }))
        | .mem t =>
          (match findTxn G t with
           | none => s
           | some T =>
             let a := T.accs.headD ⟨0, 0, 0, 0, 0, false, .read, 0, none, 0, 0, true, 0, false⟩
             let s := modGang s g (fun G => dropIlk id (dropTxn t G))
             let s := match T.kind with
               | .acqr _ => modGang s g (fun G => { dropFills (fun _ => true) G with l1 := [] })
               | _ => s
             if a.bad then deferMem s g T a.va 0
             else modGang s g (writeIlk k (BitVec.ofNat 64 (a.got.toNat % 2 ^ (8 * a.len))))))

/-! Stores (11 R255) and aperture loads (R254). -/

def storeDone (T : Txn) : Bool :=
  match T.kind with
  | .sts | .apStore => T.accs.all (·.done)
  | .enq .. | .recd .. => T.due.isSome
  | _ => false
/-- The oldest store of the gang, which alone may lower n.store. -/
def oldestStore (G : Gang) : Option Txn := G.txns.find? (fun T => storeClass T.kind)
def execStoreAck (g id : Nat) (s : State) : Outcome :=
  .next (match oldestStore (getGang s g) with
    | some T => if T.id = id && storeDone T then modGang s g (fun G => { dropTxn id G with nstore := G.nstore - 1 }) else s
    | none => s)
/-- The accesses of a transaction not yet performed, those of them that f names. -/
def pendingOf (T : Txn) (f : Acc → Bool) : List (Nat × Nat) :=
  (T.accs.zipIdx.filter (fun a => !a.1.done && f a.1)).map (fun a => (T.id, a.2))
/-- Accesses that must be performed before access a of T, whichever path issued them (10 R232). -/
def heldBy (s : State) (G : Gang) (T : Txn) (a : Acc) : List (Nat × Nat) :=
  G.txns.flatMap (fun U => pendingOf U (fun b => comesFirst s T.prior T.since a U.id b
    || (T.prior.contains U.id && decide (U.id < T.after) && readsBack U.kind)))
/-- A left access is performed now, after those that hold it back. -/
def forceLeft : Nat → State → LeftAcc → State
  | 0, s, _ => s
  | n + 1, s, x =>
    let s := ((s.left.take (s.left.idxOf x)).filter (leftHolds s x)).foldl (forceLeft n) s
    performLeft s (s.left.idxOf x)
/-- The class 3 accesses that a finished team has left on the gang to the target of this one are performed now (08 R194). -/
def forceLefts (g : Nat) (a : Acc) (s : State) : State :=
  (s.left.filter (fun y => y.gang == g && sameTarget s a y.acc)).foldl (forceLeft (s.left.length + 1)) s
/-- An access is performed after those that hold it back, and theirs before them. -/
def forceAcc (g : Nat) : Nat → State → Nat × Nat → State
  | 0, s, _ => s
  | n + 1, s, k =>
    match findTxn (getGang s g) k.1 with
    | none => s
    | some T => (match T.accs[k.2]? with
      | none => s
      | some a => if a.done then s else performTxn (forceLefts g a ((heldBy s (getGang s g) T a).foldl (forceAcc g n) s)) g k.1 k.2)
/-- Every access of a transaction is performed now. -/
def forceTxn (s : State) (g id : Nat) : State :=
  match findTxn (getGang s g) id with
  | some T => (pendingOf T (fun _ => true)).foldl (forceAcc g ((getGang s g).txns.length + 1)) s
  | none => s

/-- The aperture loads that a path has out are performed by the time it arrives at a barrier or a round: they happen before what any
member does after the completion (10 R233, R252). Log entry 121. -/
def forceLoads (g : Nat) (p : PathSlot) (s : State) : State :=
  ((getGang s g).txns.filter (fun T => isApLoad T && (getPath (getGang s g) p).own.contains T.id)).foldl (fun s T => forceTxn s g T.id) s

/-- Lanes that an aperture load brings to engine e. -/
def apLanes (T : Txn) (e : Nat) : Half × BitVec 512 :=
  let mine := T.accs.filter (fun a => a.eng == e)
  (BitVec.ofNat 16 (mine.foldl (fun m a => m + 2 ^ a.lane) 0),
   lanes512 (fun i => match mine.find? (fun a => a.lane == i) with | some a => a.got.setWidth 32 | none => 0))
/-- The result in flight takes the data. -/
def fillFlight (T : Txn) (f : Flight) : Flight :=
  if f.txn = some T.id then
    { f with txn := none, w := (match f.w with
        | .v r es => .v r (es.map (fun x => if T.accs.any (fun a => a.eng == x.1) then
            (let y := apLanes T x.1; (x.1, x.2.1 ||| y.1, blend y.1 y.2 x.2.2)) else x))
        | w => w) }
  else f

/-- The bundle's stall once the last data has returned r gang cycles after issue (R254). -/
def apStall (bank r : Nat) : Nat := max bank (r - 6)
/-- The path whose issue stage an aperture load holds, until the gang cycle in which its last data returns is known. -/
def loadHolds (G : Gang) (p : PathSlot) (T : Txn) : Bool := isApLoad T && T.due.isNone && T.path == p && (getPath G p).own.contains T.id
def loadOut (G : Gang) (p : PathSlot) : Bool := G.txns.any (loadHolds G p)
/-- The gang cycles that data takes from its G-die's port to the engines: within the 8 of its crossing alone (09 R225, R226). DESIGN
CHOICE (log entry 137). -/
def dieDelay : Nat := 5
/-- The last response of a load has reached the G-die by gang cycle c: its data returns in cycle c + 5, and the stall of its bundle
follows from that (R254). -/
def returnLoad (c : Nat) (G : Gang) (T : Txn) : Gang :=
  match T.kind with
  | .apLoad _ t bank =>
    let st := apStall bank (c + dieDelay - t)
    modPath { G with
      txns := G.txns.map (fun U => if U.id = T.id then { U with due := some (c + dieDelay) } else U)
      flight := G.flight.map (fun f => if f.txn = some T.id then { f with land := max f.land (t + 6 + st) } else f) } T.path
      (fun P => if P.live ∧ P.own.contains T.id then { P with elig := max P.elig (t + 1 + st) } else P)
  | _ => G
/-- The last data of an aperture load returns: the L result takes it and lands 6 + s after issue. If a sector was
poisoned it is not written, and the cause is deferred (R254). -/
def execApertureLoadReturn (g id : Nat) (s : State) : Outcome :=
  .next (match findTxn (getGang s g) id with
    | none => s
    | some T =>
      match T.kind, T.due with
      | .apLoad _ _ _, some d =>
        if (getGang s g).gc < d then s
        else
          let s := forceTxn s g id
          (match findTxn (getGang s g) id with
           | none => s
           | some T =>
             let bad := T.accs.filter (·.bad)
             let s := modGang s g (fun G => { dropTxn id G with
               flight := if bad.isEmpty then G.flight.map (fillFlight T) else G.flight.filter (fun f => f.txn != some id) })
             if bad.isEmpty then s
             else deferMem s g T ((bad.head?.map (·.va)).getD 0) (maskOf (bad.map (·.eng))))
      | _, _ => s)

end Sys2Proof.Machine
end

