-- ==== Sys2Proof/Machine/Issue.lean ====
section
/-! DEFINITION. What the slots share at issue: release steps, named barriers, Thyme rounds, and the outcome an
instruction's verdict calls for (10 R237, R244–R247; 11 R281–R284; 09 R215–R220). -/

namespace Sys2Proof.Machine

/-! Release (10 R237). -/

/-- Step 1: the gang's n.store is 0 and every interlocked result the path issued has been written. -/
def relReady (G : Gang) (p : PathSlot) : Bool := G.nstore == 0 && !(G.ilks.any (fun k => !k.ended && (k.path == p || k.both)))
/-- A release of path p orders the store of a word that p has behind it before the copies issued after it: those of p, and of any path
that acquires from p where the store is p's alone (10 R233, R236). -/
def orderWord (p : PathSlot) (x : OldWord) : Option OldWord :=
  if !x.owners.contains p then some x
  else
    let seen := if x.owners == [p] then [] else x.seen.filter (· != p)
    if seen.isEmpty then none else some { x with seen := seen }
/-- A release that covers the team's copy engine orders the path's stores before copies issued after it. -/
def orderStores (p : PathSlot) (G : Gang) : Gang :=
  { G with oldWords := G.oldWords.filterMap (orderWord p)
           relGc := match p with | .A => (G.gc, G.relGc.2) | .B => (G.relGc.1, G.gc) }
/-- Steps 2 and 3 at a scope. -/
def doRelease (sc : Scope) (s : State) : State :=
  let s := modCur s (fun G => orderPath G s.cur.path)
  match sc with
  | .engine => s
  | .gang => modCurPath s (fun P => { P with tag := true })
  | .team => modCurPath (modCur s (orderStores s.cur.path)) (fun P => { P with tag := true })
  | .die | .package =>
    let s := modCur s (orderStores s.cur.path)
    let s := match (curGang s).team with
      | some t => publishCovered s t
      | none => s
    modCurPath s (fun P => { P with tag := false })
def relCheck (s : State) : Verdict := waitUnless (relReady (curGang s) s.cur.path) .other

/-- An acquire of the issuing path (10 R238). -/
def doAcquire (s : State) : State := modCur s (fun G => acquirePath G s.cur.path)

/-! Named barriers (11 R281, R282). -/

def barOf (T : Team) (b : Nat) : Barrier := (spFind T.bars b).getD Barrier.clear
def setBar (T : Team) (b : Nat) (x : Barrier) : Team := { T with bars := spPut T.bars b x }
def teamBar (s : State) (t b : Nat) : Barrier :=
  match getTeam s t with
  | some T => barOf T b
  | none => Barrier.clear

/-- A path that waits on the phase resumes in the fourth main cycle after its completion. -/
def resumeWaiter (b ph now : Nat) (P : Path) : Path :=
  if P.barOpen = some (b, ph) then { P with barResume := some (now + 4) } else P

/-- A phase completes: the count returns to 0, the phase number rises by 1. -/
def completePhase (s : State) (t b : Nat) : State :=
  match getTeam s t with
  | none => s
  | some T =>
    let x := barOf T b
    let s := modTeam s t (fun T => setBar T b { x with count := 0, phase := x.phase + 1, due := false, ends := (x.phase, nowCyc s) :: x.ends.filter (fun e => nowCyc s < e.2 + 4) })
    let wake (G : Gang) : Gang :=
      modPath (modPath G .A (resumeWaiter b x.phase (nowCyc s))) .B (resumeWaiter b x.phase (nowCyc s))
    let s := modTeam s t (fun T => { T with saved := T.saved.map (fun h => (h.1, wake h.2)) })
    T.gangs.foldl (fun s g => modGang s g (fun G => if G.team = some t then wake G else G)) s

/-- A count that has reached its target in this cycle completes the phase before another arrival is counted. -/
def settleBar (s : State) (t b : Nat) : State := if (teamBar s t b).due then completePhase s t b else s
/-- One arrival at a barrier of a team; a disabled barrier ignores it. -/
def barArrive (s : State) (t b : Nat) : State :=
  let s := settleBar s t b
  let x := teamBar s t b
  if x.target = 0 then s
  else modTeam s t (fun T => setBar T b { x with count := x.count + 1, due := decide (x.count + 1 = x.target) })

def curTeamNo (s : State) : Option Nat := (curGang s).team
def curBar (s : State) (b : Nat) : Barrier :=
  match curTeamNo s with
  | some t => teamBar s t b
  | none => Barrier.clear

/-- The main cycle in which a wait for a completed phase is over: the fourth after its last arrival (R282). DEDUCED (log entry
105): a BARW that meets its phase already completed, less than four cycles ago, waits to that cycle too. -/
def phaseOver (x : Barrier) (ph : Nat) : Option Nat := (x.ends.find? (fun e => e.1 == ph)).map (fun e => e.2 + 4)
/-- The phase a BARW without a recorded one waits for: the one open when its bundle became eligible (R281). -/
def eligPhase (b : Nat) (s : State) : Nat :=
  match (curPath s).eligPhases with
  | some ps => spGet 0 ps b
  | none => (curBar s b).phase
/-- Whether a BARW of the current path on barrier b may issue. -/
def barwCheck (b : Nat) (s : State) : Verdict :=
  let P := curPath s
  let x := curBar s b
  if x.target = 0 then .ok
  else match P.barOpen with
    | some _ => (match P.barResume with
      | some r => if r ≤ nowCyc s then .ok else .wait .barrier
      | none => .wait .barrier)
    | none =>
      let ph := (spFind P.barPhase b).getD (eligPhase b s)
      if ph = x.phase then .wait .barrier
      else (match phaseOver x ph with
        | some r => if r ≤ nowCyc s then .ok else .wait .barrier
        | none => .ok)
/-- A BARW that begins to wait notes the phase it waits for, and when its wait is over if the phase has completed. -/
def barwWait (b : Nat) (s : State) : State :=
  let x := curBar s b
  modCurPath s (fun P =>
    let ph := (spFind P.barPhase b).getD (eligPhase b s)
    if P.barOpen.isNone then { P with barOpen := some (b, ph), barResume := phaseOver x ph } else P)

/-- A BARX: it arrives once the release steps are done, then waits for the phase of that arrival. -/
def barxCheck (b : Nat) (s : State) : Verdict :=
  let P := curPath s
  if !P.barx then (if relReady (curGang s) s.cur.path then (if (curBar s b).target = 0 then .ok else .arrive b) else .wait .other)
  else match P.barResume with
    | some r => if r ≤ nowCyc s then .ok else .wait .barrier
    | none => if (curBar s b).target = 0 then .ok else .wait .barrier
/-- The arrival of a BARX or a BARA: release at team scope, the phase then open recorded, one arrival counted. -/
def recordPhase (b : Nat) (wait : Bool) (s : State) : State :=
  let s := forceLoads s.cur.gang s.cur.path (doRelease .team s)
  let s := match curTeamNo s with
    | some t => settleBar s t b
    | none => s
  let x := curBar s b
  let s := modCurPath s (fun P =>
    let P := { P with barPhase := spPut P.barPhase b x.phase }
    if wait then { P with barOpen := some (b, x.phase), barx := true, hold := .barrier } else P)
  match curTeamNo s with
  | some t => barArrive s t b
  | none => s
def barxArrive (b : Nat) (s : State) : State := recordPhase b true s

/-! Thyme rounds (09 R215–R219, 11 R283). -/

/-- The number of a grid in the channel heads (19 R388): 1 to 65,535. -/
def gridNo (recId : Nat) : Nat := recId % 65535 + 1
def Scope.isPkg : Scope → Bool
  | .package => true
  | _ => false

/-- Checks of R283 and R216. -/
def thymeCheck (sc : Scope) (ch : Nat) (s : State) : Verdict :=
  match sc with
  | .engine => trapOf 0x01
  | .gang => trapOf 0x01
  | .team => trapOf 0x01
  | .die | .package =>
    match gangTeam s s.cur.gang with
    | none => trapOf 0x0A
    | some T =>
      if !chGiven s T.ctx ch || chGrid s T.ctx ch != gridNo T.recId || chPkg s T.ctx ch != Scope.isPkg sc then trapOf 0x0A
      else .ok

/-- The slot of a channel's round state: per virtual die at die scope, 0 at package scope (19 R388). -/
def roundVd (T : Team) (pkg : Bool) : Nat := if pkg then 0 else T.vdie
/-- Live paths of a gang, wherever its context is held. A path whose mask is empty has ended, unless its
resolution hands it another mask (13 R305). -/
def livePaths (s : State) (t g : Nat) : List PathSlot :=
  let G := if (getGang s g).team = some t then getGang s g else
    ((getTeam s t).bind (fun T => spFind T.saved g)).getD Gang.start
  let on (p : PathSlot) : Bool :=
    let P := getPath G p
    P.live && (P.mask != 0 || (P.resolveAt.isSome && !resolveEnds s G p))
  (if on .A then [.A] else []) ++ (if on .B then [.B] else [])
/-- Members of a channel of a grid (R215): gangs of its teams, on the die or all, but for those whose last path
has ended (14 R325). A team that has not started is a member. -/
def chMembers (s : State) (c recId vd : Nat) (pkg : Bool) : List (Nat × Nat) :=
  s.teams.flatMap (fun p =>
    if p.2.ctx = c && p.2.recId = recId && (pkg || p.2.vdie == vd) then
      (p.2.gangs.filter (fun g => !p.2.done.contains g
        && (p.2.run == .admitted || p.2.run == .starting || !(livePaths s p.1 g).isEmpty))).map (fun g => (p.1, g))
    else [])
/-- A member has arrived in a round: its arrival has counted, or it arrived and each of its live paths did (R215). -/
def memberArrived (s : State) (r : Round) (m : Nat × Nat) : Bool :=
  r.joined.contains m || (r.arrs.any (fun a => a.team == m.1 && a.gang == m.2) &&
  (livePaths s m.1 m.2).all (fun p => r.arrs.any (fun a => a.team == m.1 && a.gang == m.2 && a.path == some p)))
/-- Members whose arrival counts by now; one that has counted stays counted. -/
def joinedNow (s : State) (r : Round) : List (Nat × Nat) :=
  ((r.joined ++ r.arrs.map (fun a => (a.team, a.gang))).filter (memberArrived s r)).eraseDups

def thymeCost (base per : Nat) (s : State) (c : Nat) (pkg : Bool) : Nat := if pkg then base + per * ctxDiam s c else base

/-- The open round of a channel slot. -/
def openRound (s : State) (c ch vd : Nat) : Option Round :=
  s.rounds.find? (fun r => r.ctx == c && r.ch == ch && r.vd == vd && r.due.isNone)
def putRound (s : State) (r : Round) : State :=
  { s with rounds := s.rounds.map (fun q => if q.ctx == r.ctx && q.ch == r.ch && q.vd == r.vd && q.due.isNone then r else q) }
/-- The number of the next round of a channel slot (R388). -/
def roundNumAddr (c ch vd : Nat) : Nat := ctxBlock c + 0xC00 + 8 * (20 * ch + vd)
/-- The round completes in the tick that holds its last arrival (R217); the slot goes on to the next number. -/
def checkRound (s : State) (c recId ch vd : Nat) (pkg : Bool) : State :=
  match openRound s c ch vd with
  | none => s
  | some r =>
    let ms := chMembers s c recId vd pkg
    let r := { r with joined := joinedNow s r }
    if ms.all (memberArrived s r) && !r.arrs.isEmpty then
      devSet (putRound s { r with due := some (s.tick + thymeCost 28 6 s c pkg), members := ms })
        (roundNumAddr c ch vd) (BitVec.ofNat 64 ((r.num + 1) % 8192))
    else putRound s r

/-- The saved round state a slot shows (R388). -/
def roundState (s : State) (c ch vd : Nat) : State :=
  let a := roundNumAddr c ch vd
  match openRound s c ch vd with
  | none => s
  | some r =>
    let vals := r.arrs.filterMap (·.val)
    let op := match vals with
      | v :: _ => (encSred v.1).toNat
      | [] => 0
    let red := match vals with
      | [] => 0
      | v :: vs => (vs.foldl (fun x y => sredOp v.1 x y.2) v.2).toNat
    devSet s a (BitVec.ofNat 64 (r.num % 8192 + (if vals.isEmpty then 0 else 2 ^ 13) + op * 2 ^ 14
      + (r.joined.length % 2 ^ 15) * 2 ^ 17 + red * 2 ^ 32))
where
  sredOp (op : SredOp) (a b : Word) : Word :=
    match op with
    | .add => a + b
    | .min => if a.slt b then a else b
    | .max => if a.slt b then b else a
    | .and => a &&& b
    | .or => a ||| b

/-- SRED's reduction of a round: the value every member receives, none for a round without SRED (R219). DESIGN CHOICE (log entry
110): the value of a gang that has left the channel before its arrival counted stays in it. -/
def roundValue (r : Round) : Option Word :=
  match r.arrs.filterMap (·.val) with
  | [] => none
  | v :: vs => some (if vs.all (fun x => x.1 == v.1) then vs.foldl (fun a x => roundState.sredOp v.1 a x.2) v.2 else 0)

/-- An arrival, held in the open round or opening one (R217, R246). -/
def thymeArrive (sc : Scope) (ch : Nat) (val : Option (SredOp × Word)) (s : State) : State :=
  match gangTeam s s.cur.gang with
  | none => s
  | some T =>
    let pkg := Scope.isPkg sc
    let vd := roundVd T pkg
    let s := forceLoads s.cur.gang s.cur.path (doRelease sc s)
    let a : Arrive := ⟨(curTeamNo s).getD 0, s.cur.gang, some s.cur.path, val⟩
    let s := match openRound s T.ctx ch vd with
      | some r => putRound s { r with arrs := r.arrs ++ [a] }
      | none =>
        let n := dbits (devGet s (roundNumAddr T.ctx ch vd)) 12 0
        { s with rounds := s.rounds ++ [⟨T.ctx, ch, vd, [a], [], [], none, n⟩] }
    roundState (checkRound s T.ctx T.recId ch vd pkg) T.ctx ch vd

/-- The number of the round that holds the path's last arrival. -/
def arrivalNum (s : State) (ch : Nat) (pkg : Bool) : Nat :=
  match gangTeam s s.cur.gang with
  | none => 0
  | some T =>
    ((s.rounds.filter (fun r => r.ctx == T.ctx && r.ch == ch && r.vd == roundVd T pkg
      && r.arrs.any (fun a => curTeamNo s == some a.team && a.gang == s.cur.gang && a.path == some s.cur.path))).getLast?.map (·.num)).getD 0

/-- The member has an arrival whose round's result has not taken effect in it (11 R283). DESIGN CHOICE (log entry 136): the arrival of
one path of a split gang holds a SYNW of the other path too, before the member's arrival counts. -/
def synwPending (s : State) (ch : Nat) (pkg : Bool) : Bool :=
  match gangTeam s s.cur.gang with
  | none => false
  | some T =>
    s.rounds.any (fun r => r.ctx == T.ctx && r.ch == ch && r.vd == roundVd T pkg && r.arrs.any (fun a => curTeamNo s == some a.team && a.gang == s.cur.gang))
    || (curGang s).heldThyme.any (fun h => match h with | .round c _ _ => c == ch | .sbc _ _ => false)

/-- A further arrival stalls: the member's arrival has counted in the open round, or this path has arrived in it (R217). -/
def arrivedOpen (s : State) (ch : Nat) (pkg : Bool) : Bool :=
  match gangTeam s s.cur.gang with
  | none => false
  | some T =>
    s.rounds.any (fun r => r.ctx == T.ctx && r.ch == ch && r.vd == roundVd T pkg && r.due.isNone
      && (r.joined.any (fun m => curTeamNo s == some m.1 && m.2 == s.cur.gang)
          || r.arrs.any (fun a => curTeamNo s == some a.team && a.gang == s.cur.gang && a.path == some s.cur.path)))

/-- A gang leaves every channel of its grid: rounds that waited for it alone complete in this tick (R215). -/
def recheckGrid (s : State) (c recId : Nat) : State :=
  s.rounds.foldl (fun s r =>
    if r.ctx = c && r.due.isNone && chGrid s c r.ch == gridNo recId then
      roundState (checkRound s c recId r.ch r.vd (chPkg s c r.ch)) c r.ch r.vd else s) s

/-- After one of its paths has ended or merged a gang's arrivals may count without it (R215). -/
def recheckTeam (s : State) (g : Nat) : State :=
  match gangTeam s g with
  | some T => recheckGrid s T.ctx T.recId
  | none => s

/-! The outcome of a verdict. -/

/-- What a waiting bundle notes: a BARW the phase it waits for. -/
def onWait : Instr → State → State
  | .barw b, s => barwWait b.toNat s
  | _, s => s

/-- The error record of a trap whose access an unpopulated address refused (08 R193). -/
def logTrap (t : TrapInfo) (s : State) : State :=
  match t.refused, curCtx s with
  | some pa, some c => logUnpopulated s (gangRegion s.cur.gang) pa (some c) 0x0F
  | _, _ => s
/-- The effect of an instruction under its verdict: it takes effect, the bundle waits, the context ends, a BARX
arrives, or the trap is taken (02 R60, R63). -/
def settle (i : Instr) (v : Verdict) (eff : State → State) (s : State) : State :=
  match v with
  | .ok => eff s
  | .wait h => holdPath h (onWait i s)
  | .fault vas => holdOnFaults vas s
  | .endCtx c va => endFromIssue c va s
  | .arrive b => barxArrive b s
  | .trap t => takeTrap i t (logTrap t s)

/-- An instruction under its verdict. Once the checks of the whole bundle are over its slots take effect together, and
no slot sees another's waits (02 R56, R60). -/
def commit (i : Instr) (v : Verdict) (eff : State → State) (s : State) : Outcome :=
  .next (settle i (if s.cur.go then .ok else v) eff s)

end Sys2Proof.Machine
end

