-- ==== Sys2Proof/Machine/Scalar.lean ====
section
/-! DEFINITION. Integer arithmetic of the S slot (14 R313–R319). -/

namespace Sys2Proof.Machine

/-- An s register as the issuing bundle reads it. -/
def sv (s : State) (r : SReg) : DWord := sReg (curGang s) r.toNat
/-- A result that lands in an s register (R313). -/
def sWrite (lat : Nat) (rd : SReg) (v : DWord) (s : State) : State := inFlight s lat (.s rd.toNat v)

/-- The divider of the sequencer that issues the path (R319). -/
def divFree (s : State) : Nat := if (curPath s).onspare then (curGang s).divSpare else (curGang s).div
def takeDivider (s : State) : State :=
  modCur s (fun G => if (getPath G s.cur.path).onspare then { G with divSpare := G.gc + 18 } else { G with div := G.gc + 18 })

/-- Checks of this chapter's arithmetic: DIV and REM wait while the divider is occupied. -/
def scalarCheck (i : Instr) (s : State) : Verdict :=
  (commonCheck i s).and (match i with
    | .div .. | .rem .. => waitUnless (decide (divFree s ≤ (curGang s).gc)) .other
    | _ => .ok)

/-- An arithmetic instruction: one result, landing after its latency. -/
def scalarOp (i : Instr) (lat : Nat) (rd : SReg) (f : State → DWord) (s : State) : Outcome :=
  commit i (scalarCheck i s) (fun s => sWrite lat rd (f s) s) s

def shAmt (b : DWord) : Nat := b.toNat % 64
/-- Bits [127:64] of the product. -/
def mulHigh (u : Bool) (a b : DWord) : DWord :=
  if u then BitVec.ofNat 64 (a.toNat * b.toNat / 2 ^ 64)
  else BitVec.ofInt 64 (a.toInt * b.toInt / (2 ^ 64 : Nat))
/-- Quotient and remainder (R317): truncation toward zero; a zero divisor gives all ones and the dividend. -/
def divRem (u : Bool) (a b : DWord) : DWord × DWord :=
  if b = 0 then (0xFFFFFFFFFFFFFFFF, a)
  else if u then (a / b, a % b)
  else if a = 0x8000000000000000 ∧ b = 0xFFFFFFFFFFFFFFFF then (0x8000000000000000, 0)
  else (BitVec.ofInt 64 (a.toInt.tdiv b.toInt), BitVec.ofInt 64 (a.toInt.tmod b.toInt))
def popc64 (a : DWord) : DWord := BitVec.ofNat 64 (popCount a.toNat 64)
def clz64 (a : DWord) : DWord := if a = 0 then 64 else BitVec.ofNat 64 (63 - a.toNat.log2)
def minMax (u larger : Bool) (a b : DWord) : DWord :=
  let less := if u then a.ult b else a.slt b
  if larger then (if less then b else a) else (if less then a else b)

def execAdd (rd ra rb : SReg) (s : State) : Outcome := scalarOp (.add rd ra rb) 1 rd (fun s => sv s ra + sv s rb) s
def execSub (rd ra rb : SReg) (s : State) : Outcome := scalarOp (.sub rd ra rb) 1 rd (fun s => sv s ra - sv s rb) s
def execAnd (rd ra rb : SReg) (s : State) : Outcome := scalarOp (.and rd ra rb) 1 rd (fun s => sv s ra &&& sv s rb) s
def execOr (rd ra rb : SReg) (s : State) : Outcome := scalarOp (.or rd ra rb) 1 rd (fun s => sv s ra ||| sv s rb) s
def execXor (rd ra rb : SReg) (s : State) : Outcome := scalarOp (.xor rd ra rb) 1 rd (fun s => sv s ra ^^^ sv s rb) s
def execAndn (rd ra rb : SReg) (s : State) : Outcome := scalarOp (.andn rd ra rb) 1 rd (fun s => sv s ra &&& ~~~(sv s rb)) s
def execShl (rd ra rb : SReg) (s : State) : Outcome := scalarOp (.shl rd ra rb) 1 rd (fun s => sv s ra <<< shAmt (sv s rb)) s
def execShr (rd ra rb : SReg) (s : State) : Outcome := scalarOp (.shr rd ra rb) 1 rd (fun s => sv s ra >>> shAmt (sv s rb)) s
def execSar (rd ra rb : SReg) (s : State) : Outcome :=
  scalarOp (.sar rd ra rb) 1 rd (fun s => (sv s ra).sshiftRight (shAmt (sv s rb))) s
def execMin (u : Bool) (rd ra rb : SReg) (s : State) : Outcome :=
  scalarOp (.min u rd ra rb) 1 rd (fun s => minMax u false (sv s ra) (sv s rb)) s
def execMax (u : Bool) (rd ra rb : SReg) (s : State) : Outcome :=
  scalarOp (.max u rd ra rb) 1 rd (fun s => minMax u true (sv s ra) (sv s rb)) s
def execCmp (c : Cond) (rd ra rb : SReg) (s : State) : Outcome :=
  scalarOp (.cmp c rd ra rb) 1 rd (fun s => if condHolds c (sv s ra) (sv s rb) then 1 else 0) s
def execSel (rd ra rb rc : SReg) (s : State) : Outcome :=
  scalarOp (.sel rd ra rb rc) 1 rd (fun s => if sv s rc = 0 then sv s rb else sv s ra) s
def execPopc (rd ra : SReg) (s : State) : Outcome := scalarOp (.popc rd ra) 1 rd (fun s => popc64 (sv s ra)) s
def execClz (rd ra : SReg) (s : State) : Outcome := scalarOp (.clz rd ra) 1 rd (fun s => clz64 (sv s ra)) s
def execMul (rd ra rb : SReg) (s : State) : Outcome := scalarOp (.mul rd ra rb) 3 rd (fun s => sv s ra * sv s rb) s
def execMulh (u : Bool) (rd ra rb : SReg) (s : State) : Outcome :=
  scalarOp (.mulh u rd ra rb) 3 rd (fun s => mulHigh u (sv s ra) (sv s rb)) s
def execDiv (u : Bool) (rd ra rb : SReg) (s : State) : Outcome :=
  commit (.div u rd ra rb) (scalarCheck (.div u rd ra rb) s)
    (fun s => takeDivider (sWrite 18 rd (divRem u (sv s ra) (sv s rb)).1 s)) s
def execRem (u : Bool) (rd ra rb : SReg) (s : State) : Outcome :=
  commit (.rem u rd ra rb) (scalarCheck (.rem u rd ra rb) s)
    (fun s => takeDivider (sWrite 18 rd (divRem u (sv s ra) (sv s rb)).2 s)) s
def execAddi (rd ra : SReg) (imm : BitVec 28) (s : State) : Outcome :=
  scalarOp (.addi rd ra imm) 1 rd (fun s => sv s ra + imm.signExtend 64) s
def execLi (rd : SReg) (imm : BitVec 32) (s : State) : Outcome := scalarOp (.li rd imm) 1 rd (fun _ => imm.setWidth 64) s
def execLih (rd : SReg) (imm : BitVec 32) (s : State) : Outcome :=
  scalarOp (.lih rd imm) 1 rd (fun s => imm ++ (sv s rd).setWidth 32) s

end Sys2Proof.Machine
end

