-- ==== Sys2Proof/Machine/Index.lean ====
section
/-! DEFINITION. The X slot: index arithmetic, cursors, the hash and the merge step (05 R139–R142). -/

namespace Sys2Proof.Machine

/-- A register x of engine e as read at issue. -/
def xv (s : State) (e : Nat) (r : XReg) : Word := xRegE (getEng (curGang s) e) r.toNat
def xa (s : State) (e : Nat) (a : XSrc) : Word := xVal (curGang s) e a

/-- A result in every active engine, landing 2 gang cycles after issue; destination zero discards it (02 R46). -/
def xWrite (xd : XDst) (f : Nat → Word) (s : State) : State :=
  match xd with
  | .zero => s
  | .reg r => inFlight s 2 (.x r.toNat ((actives s).map (fun e => (e, f e))))

/-- Scratchpad of the current gang's engine e, by the team's addresses. -/
def curHw (s : State) (e : Nat) : EngineHw := getHw (curGang s) e
def curWin (s : State) : Win := gangWin s s.cur.gang
def spWord (s : State) (e a : Nat) : Word := spadWord (curHw s e) (curWin s) a
/-- A scratchpad read of n bytes at an aligned address inside the window: 0x03, 0x04, 0x0F (R142, 08 R211, 15 R353). -/
def spReadFail (s : State) (e a n align : Nat) : Option (BitVec 8 × Nat) :=
  if (curWin s).len < a + n then some (0x03, a)
  else if a % align ≠ 0 then some (0x04, a)
  else if spadBadIn (curHw s e) (curWin s) a n then some (0x0F, a)
  else none

/-- N of XHASH: the field, or the engine's configuration (R142). -/
def hashN (s : State) (e : Nat) (lg : BitVec 4) : Nat :=
  if lg = 0 then cfgN (curWin s).acc (cfgWord (curGang s) e).1 else 2 ^ lg.toNat
/-- hash_key (R142). -/
def hashKey (key : Word) (n : Nat) : Nat := (key.toNat * 0x9E3779B1) % 2 ^ 32 / 2 ^ (32 - n.log2)

def strideBytes : Stride → Nat
  | .s8 => 8
  | .s4 => 4
  | .s16 => 16
/-- The column or row field of a coordinate word (R141). -/
def coordOf (row : Bool) (w : Word) : Nat := if row then nbits w.toNat 31 16 else nbits w.toNat 15 0

def xldcAddr (f : XField) (a : Word) : Nat := match f with | .w1 => (a + 4).toNat | _ => a.toNat

def indexCheck (i : Instr) (s : State) : Verdict :=
  (commonCheck i s).and (match i with
    | .xldc f _ a => engCheck s (fun e => spReadFail s e (xldcAddr f (xa s e a)) 4 4)
    | .xhash lg _ _ => if lg = 0 then engCheck s (fun e => if hashN s e lg = 0 then some (0x03, 0) else none) else .ok
    | .xcmpa _ _ _ _ ra rb _ =>
      (engCheck s (fun e => spReadFail s e (xv s e ra).toNat 4 4)).and (engCheck s (fun e => spReadFail s e (xv s e rb).toNat 4 4))
    | _ => .ok)

/-- An index instruction: one result per active engine. -/
def indexOp (i : Instr) (xd : XDst) (f : State → Nat → Word) (s : State) : Outcome :=
  commit i (indexCheck i s) (fun s => xWrite xd (f s) s) s

def execXli (xd : XDst) (imm : BitVec 32) (s : State) : Outcome := indexOp (.xli xd imm) xd (fun _ _ => imm) s
/-- XMOV from an s register takes its low 32 bits. -/
def execXmov (xd : XDst) (a : XMovSrc) (s : State) : Outcome :=
  indexOp (.xmov xd a) xd (fun s e => match a with
    | .x a => xa s e a
    | .s r => (sReg (curGang s) r.toNat).setWidth 32) s
def execXadd (xd : XDst) (a : XSrc) (b : XB) (s : State) : Outcome :=
  indexOp (.xadd xd a b) xd (fun s e => xa s e a + xbVal (curGang s) e true b) s
def execXsub (xd : XDst) (a : XSrc) (b : XB) (s : State) : Outcome :=
  indexOp (.xsub xd a b) xd (fun s e => xa s e a - xbVal (curGang s) e true b) s
def execXmul (xd : XDst) (a : XSrc) (b : XB) (s : State) : Outcome :=
  indexOp (.xmul xd a b) xd (fun s e => xa s e a * xbVal (curGang s) e true b) s
def execXand (xd : XDst) (a : XSrc) (b : XB) (s : State) : Outcome :=
  indexOp (.xand xd a b) xd (fun s e => xa s e a &&& xbVal (curGang s) e false b) s
def execXxor (xd : XDst) (a : XSrc) (b : XB) (s : State) : Outcome :=
  indexOp (.xxor xd a b) xd (fun s e => xa s e a ^^^ xbVal (curGang s) e false b) s
def execXshl (xd : XDst) (a : XSrc) (b : XB) (s : State) : Outcome :=
  indexOp (.xshl xd a b) xd (fun s e => xa s e a <<< ((xbVal (curGang s) e false b).toNat % 32)) s
def execXshr (xd : XDst) (a : XSrc) (b : XB) (s : State) : Outcome :=
  indexOp (.xshr xd a b) xd (fun s e => xa s e a >>> ((xbVal (curGang s) e false b).toNat % 32)) s
def execXpopc (xd : XDst) (a : XSrc) (s : State) : Outcome :=
  indexOp (.xpopc xd a) xd (fun s e => BitVec.ofNat 32 (popCount (xa s e a).toNat 32)) s
def execXpfx (xd : XDst) (a b : XSrc) (s : State) : Outcome :=
  indexOp (.xpfx xd a b) xd
    (fun s e => BitVec.ofNat 32 (popCount (xa s e a).toNat (min ((xa s e b).toNat % 64) 32))) s
def execXsel (xd : XDst) (a b c : XSrc) (s : State) : Outcome :=
  indexOp (.xsel xd a b c) xd (fun s e => if xa s e c = 0 then xa s e b else xa s e a) s
def execXldc (f : XField) (xd : XDst) (a : XSrc) (s : State) : Outcome :=
  indexOp (.xldc f xd a) xd
    (fun s e =>
      let w := spWord s e (xldcAddr f (xa s e a))
      match f with
      | .col => BitVec.ofNat 32 (coordOf false w)
      | .row => BitVec.ofNat 32 (coordOf true w)
      | .w0 => w
      | .w1 => w) s
/-- XADV: an immediate count is unsigned. -/
def execXadv (st : Stride) (xd : XDst) (a : XSrc) (b : XB) (s : State) : Outcome :=
  indexOp (.xadv st xd a b) xd
    (fun s e => xa s e a + BitVec.ofNat 32 (strideBytes st) * xbVal (curGang s) e false b) s
def execXhash (lg : BitVec 4) (xd : XDst) (a : XSrc) (s : State) : Outcome :=
  indexOp (.xhash lg xd a) xd (fun s e => BitVec.ofNat 32 (hashKey (xa s e a) (hashN s e lg))) s

/-- The code of a merge step (R142). -/
def mergeCode (ka kb : Nat) : Nat :=
  if ka = 0xFFFF ∧ kb = 0xFFFF then 3 else if ka < kb then 1 else if kb < ka then 2 else 0
def execXcmpa (rowA rowB : Bool) (sa sb : Stride) (ra rb : XReg) (xd : XDst) (s : State) : Outcome :=
  commit (.xcmpa rowA rowB sa sb ra rb xd) (indexCheck (.xcmpa rowA rowB sa sb ra rb xd) s)
    (fun s =>
      let code (e : Nat) : Nat := mergeCode (coordOf rowA (spWord s e (xv s e ra).toNat)) (coordOf rowB (spWord s e (xv s e rb).toNat))
      let moved (c : Nat) (r : XReg) (st : Stride) : List (Nat × Word) :=
        ((actives s).filter (fun e => code e == c)).map (fun e => (e, xv s e r + BitVec.ofNat 32 (strideBytes st)))
      let s' := inFlight s 2 (.x ra.toNat (moved 1 ra sa))
      let s' := inFlight s' 2 (.x rb.toNat (moved 2 rb sb))
      match xd with
      | .zero => s'
      | .reg r => inFlight s' 2 (.x r.toNat ((actives s).map (fun e => (e, BitVec.ofNat 32 (code e)))))) s

end Sys2Proof.Machine
end

