-- ==== Sys2Proof/Machine/Lsu.lean ====
section
/-! DEFINITION. Engine addresses of the L and W slots: the words each form names, their checks, bank conflicts, and
the decoded weights of LDW (11 R253–R262; 02 R57; 08 R188). -/

namespace Sys2Proof.Machine

def laneOn (s : State) (e : Nat) (p : PReg) : List Nat :=
  (List.range 16).filter (fun i => (pRegE (getEng (curGang s) e) p.toNat).getLsbD i)
def vw (s : State) (e : Nat) (a : VSrc) (i : Nat) : Word := lane (vVal (curGang s) e a) i
def w4 (i : Nat) : Word := BitVec.ofNat 32 (4 * i)
/-- Rows of a masked tile move that take part (R260). -/
def mkRows (s : State) (e : Nat) (rb : BitVec 2) : List Nat :=
  (List.range 16).filter (fun r => decide (16 * rb.toNat + r < (getEng (curGang s) e).rows))
/-- The words of LDMK and STMK. DESIGN CHOICE (log entry 102): a stride that is no multiple of 4 (R260) raises nothing where no
row beyond row 0 takes part; the words alone are checked. -/
def mkAddrs (s : State) (e : Nat) (a st : XSrc) (rb : BitVec 2) : List (Nat × Word) :=
  (mkRows s e rb).flatMap (fun r => (List.range 16).map (fun i =>
    (16 * r + i, xa s e a + BitVec.ofNat 32 r * xa s e st + w4 i)))

/-- Bits per source element of LDW, an LQ2 index counting 2 per element (04 R93). -/
def ldwSrcBits (f : Fmt) : Nat := if f = .lq2 then 2 else f.width
def ldwElems (dst : Fmt) : Nat := 512 / dst.width

/-- The words a form names in engine e, with the lane (or the place in its row) of each. -/
def laneAddrs (s : State) (e : Nat) : Instr → List (Nat × Word)
  | .ldv _ a _ p | .stv _ a _ p => (laneOn s e p).map (fun i => (i, xa s e a + w4 i))
  | .ldm _ a _ _ _ p | .stm _ a _ _ _ p => (laneOn s e p).map (fun i => (i, xa s e a + w4 i))
  | .ldg _ a b _ p => (laneOn s e p).map (fun i => (i, xa s e a + vw s e b i))
  | .stg _ a c _ p => (laneOn s e p).map (fun i => (i, xa s e a + vw s e c i))
  | .ldx _ a b _ p | .stx _ a b _ p => (laneOn s e p).map (fun i => (i, xa s e a + BitVec.ofNat 32 i * xa s e b))
  | .ldmk _ a b rb _ | .stmk _ a b rb _ => mkAddrs s e a b rb
  | .ldb _ a n _ => (List.range (n.toNat + 1)).map (fun i => (i, xa s e a + w4 i))
  | .ldw src dst _ a xs _ _ =>
    (List.range (ldwElems dst * ldwSrcBits (selFmt s e src) / 32)).map (fun i => (i, xa s e a + w4 i))
      ++ (List.range (ldwElems dst)).map (fun i => (i, xa s e xs + w4 i))
  | _ => []

def isAperture (a : Word) : Bool := a.getLsbD 31
/-- The virtual address an aperture address stands for (R253). -/
def apVa (s : State) (a : Word) : Nat := (curGang s).abase.toNat + (a.toNat - 0x80000000)
/-- The forms that reach the device aperture. -/
def reachesAperture : Instr → Bool
  | .ldv .. | .ldg .. | .ldx .. | .stv .. | .stg .. | .stx .. => true
  | _ => false
def isStoreForm : Instr → Bool
  | .stv .. | .stm .. | .stg .. | .stmk .. | .stx .. => true
  | _ => false
/-- A gather or scatter: its lanes lie all in scratchpad or all in the aperture; each word of LDV and STV decodes for itself.
DESIGN CHOICE (log entry 103): the strided forms LDX and STX count as such. -/
def isGather : Instr → Bool
  | .ldg .. | .ldx .. | .stg .. | .stx .. => true
  | _ => false
/-- The words of engine e in the aperture, and those in its scratchpad. -/
def apAddrs (s : State) (e : Nat) (i : Instr) : List (Nat × Word) := (laneAddrs s e i).filter (fun x => reachesAperture i && isAperture x.2)
def spAddrs (s : State) (e : Nat) (i : Instr) : List (Nat × Word) := (laneAddrs s e i).filter (fun x => !(reachesAperture i && isAperture x.2))
/-- Engine e has a word in the aperture. -/
def engAperture (s : State) (i : Instr) (e : Nat) : Bool := !(apAddrs s e i).isEmpty

/-- The causes engine e raises for its words (R253, R257): the lowest stands. -/
def addrFail (s : State) (i : Instr) (e : Nat) : Option (BitVec 8 × Nat) :=
  let as := laneAddrs s e i
  let len := (curWin s).len
  let out (a : Word) : Bool := !(isAperture a && reachesAperture i) && decide (len < a.toNat + 4)
  let mixed := isGather i && as.any (fun x => isAperture x.2) && as.any (fun x => decide (x.2.toNat < 0x20000))
  match as.find? (fun x => out x.2) with
  | some x => some (0x03, x.2.toNat)
  | none =>
    if mixed then some (0x03, ((as.find? (fun x => isAperture x.2)).map (fun x => x.2.toNat)).getD 0)
    else match as.find? (fun x => x.2.toNat % 4 != 0) with
      | some x => some (0x04, x.2.toNat)
      | none =>
        if isStoreForm i then none
        else (as.find? (fun x => !isAperture x.2 && spadBadIn (curHw s e) (curWin s) x.2.toNat 4)).map (fun x => (0x0F, x.2.toNat))

/-- Translation of every aperture word before issue (R254). -/
def apertureCheck (s : State) (i : Instr) : Verdict :=
  andAll ((actives s).flatMap (fun e =>
    (apAddrs s e i).map (fun x => match accessVerdict s (apVa s x.2) 4 (if isStoreForm i then 2 else 1) with
      | .trap t => .trap { t with emask := maskOf [e] }
      | v => v)))

/-! LDW (R262, 04 R91–R97, R104). -/

/-- The codebook of engine e: while a CBLD of an earlier bundle runs, the old or the new one as a whole (R262). -/
def cbOf (s : State) (e : Nat) : Sp Byte :=
  let G := curGang s
  let old := (getEng G e).cb
  let images : List (List Byte) := (G.tops.filter (fun o => o.eng == e && decide (o.t0 < G.gc))).flatMap (fun o => (o.out.getD []).filterMap (fun w =>
    match w with
    | .cb bs => some bs
    | _ => none))
  match images[freeAt s (16 + e) % (images.length + 1)]? with
  | some bs => spSetList 0 old 0 bs
  | none => old

def carriesBlocks : Fmt → Bool
  | .e4m3 | .e5m2 | .h4 | .lq2 => true
  | _ => false
/-- An E8M0 byte as a value. -/
def e8Val (b : Byte) : FVal := fmtVal .e8m0 b.toNat
/-- Addresses of the scales LDW reads: k / 32 block scales and a channel scale, with i = row and k = e. -/
def ldwBlock (ent : BitVec 256) (row k : Nat) : Nat := entBits ent 48 32 + row * (k / 32)
def ldwChan (ent : BitVec 256) (row : Nat) : Nat := entBits ent 112 96 + 2 * row
def ldwScaled (s : State) (e : Nat) (src : Fmt) : Bool := src == .tab && carriesBlocks (selFmt s e src)
def ldwFail (s : State) (src dst : Fmt) (row : Nat) (e : Nat) : Option (BitVec 8 × Nat) :=
  if ldwScaled s e src then
    let ent := fmttEntry s e
    let k := ldwElems dst
    let b := ldwBlock ent row k
    let c := ldwChan ent row
    let cha := ent.getLsbD 8
    if (curWin s).len < b + k / 32 then some (0x03, b)
    else if cha && decide ((curWin s).len < c + 2) then some (0x03, c)
    else if cha && c % 2 == 1 then some (0x04, c)
    else if spadBadIn (curHw s e) (curWin s) b (k / 32) || (cha && spadBadIn (curHw s e) (curWin s) c 2) then some (0x0F, b)
    else none
  else none

/-- Element t of a packed source region. -/
def packedElem (bits w t : Nat) : Nat := bits / 2 ^ (w * t) % 2 ^ w
/-- The exact value of source element t, before scales. -/
def srcVal (cb : Sp Byte) (f : Fmt) (bits t : Nat) : FVal :=
  match f with
  | .lq2 => fmtVal .e4m3 (lq2Byte cb (packedElem bits 16 (t / 8)) (t % 8))
  | f => fmtVal f (packedElem bits f.width t)
/-- The row LDW loads in engine e. -/
def ldwRow (s : State) (e : Nat) (src dst : Fmt) (a xs : XSrc) (row : Nat) : BitVec 512 :=
  let f := selFmt s e src
  let k := ldwElems dst
  let H := curHw s e
  let W := curWin s
  let bits := leNat (spadBytes H W (xa s e a).toNat (k * ldwSrcBits f / 8))
  let ent := fmttEntry s e
  let sc (t : Nat) : FVal :=
    if ldwScaled s e src then
      let b := e8Val (spadByte H W (ldwBlock ent row k + t / 32))
      if ent.getLsbD 8 then b.mul (fmtVal .f16 (leNat (spadBytes H W (ldwChan ent row) 2))) else b
    else .fin false 1 0
  let el (t : Nat) : Nat :=
    convert dst .rne true (((srcVal (cbOf s e) f bits t).mul (sc t)).mul (f32v (spadWord H W ((xa s e xs).toNat + 4 * t))))
  BitVec.ofNat 512 ((List.range k).foldl (fun v t => v + el t % 2 ^ dst.width * 2 ^ (dst.width * t)) 0)

/-! Bank conflicts (R188). -/

/-- Distinct scratchpad words an instruction names in engine e. -/
def bankWords (s : State) (e : Nat) : Option Instr → List Nat
  | none => []
  | some i => (((laneAddrs s e i).filter (fun x => !isAperture x.2)).map (fun x => x.2.toNat / 4)).eraseDups
def bankCount (ws : List Nat) : Nat :=
  (List.range 32).foldl (fun m b => max m (ws.filter (fun w => w % 32 == b)).length) 0
/-- The stall of a bundle with these L and W slots. DEDUCED (log entry 104): the words of both slots count together (08 R188), an
LDV's and an STV's too, though neither form conflicts with itself (R258). -/
def bankStall (s : State) (l w : Option Instr) : Nat :=
  (actives s).foldl (fun m e => max m (bankCount (bankWords s e l ++ bankWords s e w))) 0 - 1

/-! The slots' shared checks and effects. -/

/-- Room for LDB's pushes, those in flight counted (R261). -/
def ldbInFlight (G : Gang) (k e : Nat) : Nat :=
  (G.flight.map (fun f => match f.w with
    | .qpush q es => if q = k then ((es.filter (fun x => x.1 == e)).map (fun x => x.2.length)).sum else 0
    | _ => 0)).sum
def ldbRoom (s : State) (k n : Nat) : Bool :=
  (actives s).all (fun e => decide ((qOf (getEng (curGang s) e) k).length + ldbInFlight (curGang s) k e + n ≤ 32))

/-- Reads that an acquire of the path waits for: later accesses, those of the scratchpads among them, come after them (10 R238). -/
def acquirePending (s : State) : Bool :=
  let G := curGang s
  G.txns.any (fun U => (curPath s).own.contains U.id && readsBack U.kind && decide (U.id < (getPath G s.cur.path).acqId))
/-- Some active engine has a word of its scratchpad to access. -/
def hasSpadWord (s : State) (i : Instr) : Bool := (actives s).any (fun e => !(spAddrs s e i).isEmpty)
/-- An access of a scratchpad is made at issue, so it waits unissued behind an acquire of its path, as R285 and R238 state; one of
the aperture issues, and is performed after the reads that the acquire waits for (log entry 87). -/
def lwCheck (i : Instr) (s : State) : Verdict :=
  andAll [commonCheck i s, waitUnless (!acquirePending s || !hasSpadWord s i) .other,
    (match i with
     | .ldw src .. => fmtCheck s src (fun f => Fmt.ldwSrcOk f && f != .tab)
     | _ => .ok),
    engCheck s (addrFail s i),
    apertureCheck s i,
    (match i with
     | .ldm t _ dir idx _ p => engCheck s (lineTileFail s (fun e => laneOn s e p) t dir idx.toNat false)
     | .stm t _ dir idx _ p => engCheck s (lineTileFail s (fun e => laneOn s e p) t dir idx.toNat true)
     | .ldw src dst _ _ _ row _ => engCheck s (ldwFail s src dst row.toNat)
     | .ldb q3 _ n _ => waitUnless (ldbRoom s (if q3 then 3 else 2) (n.toNat + 1)) .other
     | .stv .. | .stg .. | .stx .. =>
       waitUnless (!((actives s).any (engAperture s i)) || decide ((curGang s).nstore < 63)) .other
     | _ => .ok)]

/-- The issue stage of the path is held for n further cycles (R57). -/
def holdStage (n : Nat) (s : State) : State :=
  modCur s (fun G =>
    let p := if (getPath G s.cur.path).live then s.cur.path else .A
    modPath G p (fun P => { P with elig := max P.elig (G.gc + 1 + n) }))

/-- A vector load (R258): scratchpad lanes are read now, aperture lanes are brought by a transaction, whose return holds the stage for
longer (R254). -/
def vLoad (i : Instr) (d : VDst) (byp : Bool) (s : State) : State :=
  let es := actives s
  let ap := es.filter (engAperture s i)
  let part (e : Nat) : Nat × Half × BitVec 512 :=
    let as := spAddrs s e i
    (e, BitVec.ofNat 16 (as.foldl (fun m x => m + 2 ^ x.1) 0),
     lanes512 (fun k => match as.find? (fun x => x.1 == k) with | some x => spWord s e x.2.toNat | none => 0))
  let id := (curGang s).nextId
  let fl : Option Nat := if ap.isEmpty then none else some id
  let s' := match d with
    | .zero => s
    | .reg r => modCur s (fun G => { G with flight := G.flight ++ [⟨G.gc + 6 + s.cur.stall, s.cur.path, .v r.toNat (es.map part), fl, G.gc⟩] })
  let s' := if ap.isEmpty then s' else
    let r := ap.foldl (fun (acc : List Acc × State) e => (apAddrs s e i).foldl (fun acc x =>
      addAcc s acc (apVa s x.2) 4 1 .read byp e x.1) acc) ([], s')
    addTxn i r.2 (.apLoad d (curGang s).gc s.cur.stall) r.1 none
  holdStage s.cur.stall s'

/-- The words a store writes in engine e; of several lanes naming one word the highest stands. -/
def lastOf (ws : List (Nat × Word)) : List (Nat × Word) :=
  ws.foldr (fun x r => if r.any (fun y => y.1 == x.1) then r else x :: r) []
/-- A store's scratchpad words land after 2 cycles; its aperture words go to their homes (R255, R258). -/
def vStore (i : Instr) (byp : Bool) (val : Nat → Nat → Word) (s : State) : State :=
  let es := actives s
  let ap := es.filter (engAperture s i)
  let words (as : List (Nat × Word)) (e : Nat) : List (Nat × Word) := lastOf (as.map (fun x => (x.2.toNat, val e x.1)))
  let s' := inFlight s 2 (.spad (es.map (fun e => (e, words (spAddrs s e i) e))))
  let s' := if ap.isEmpty then s' else
    let r := ap.foldl (fun (acc : List Acc × State) e => (words (apAddrs s e i) e).foldl (fun acc x =>
      addAcc s acc (apVa s (BitVec.ofNat 32 x.1)) 4 2 (.write (x.2.setWidth 512)) byp e 0) acc) ([], s')
    raiseStore (addTxn i r.2 .apStore r.1 none)
  holdStage s.cur.stall s'

/-- The word of a tile line that goes with lane i (R259). -/
def tileWord (s : State) (e : Nat) (t : Tile) (dir : Dir) (idx i : Nat) : Word := tileElem (curGang s) (curWin s) e t dir idx 32 0 i

end Sys2Proof.Machine
end

