-- ==== Sys2Proof/Machine/TUnit.lean ====
section
/-! DEFINITION. T instructions at issue: their checks, the values they take along, their counters, and the resources
that order them in an engine (06 R143–R149, R161). -/

namespace Sys2Proof.Machine

inductive TClass where | tile | join | pred
  deriving DecidableEq, Repr
def tClass : Instr → TClass
  | .acfg .. | .aclr | .join .. | .jins .. | .adrn .. | .afold .. | .aspl .. | .ard .. | .awr .. => .join
  | .pred .. | .pchk .. => .pred
  | _ => .tile
/-- Formats a T instruction names; where it names one only, no format is taken from an entry's fmtb (04 R107, R108). -/
def tFmts : Instr → Fmt × Fmt
  | .mma fa fb .. | .mmag fa fb .. | .tdec fa fb .. | .join fa fb .. => (fa, fb)
  | .ttrn f .. | .jins f .. | .adrn _ f .. | .pred f .. | .pchk f .. => (f, .f32)
  | _ => (.f32, .f32)
/-- The instruction selects a format-table entry (04 R107). -/
def selects (i : Instr) : Bool :=
  (tFmts i).1 == .tab || (tFmts i).2 == .tab || (match i with | .pred .. | .pchk .. => true | _ => false)
def tabScales (i : Instr) : Bool := (tFmts i).1 == .tab || (tFmts i).2 == .tab
/-- Register operands opa, opb and opc, where the form has them. -/
def tRegs : Instr → Option XReg × Option XReg × Option XReg
  | .mmag _ _ _ _ x _ _ => (some x, none, none)
  | .cbld x | .fmtw x _ | .shset x | .jins _ _ x | .afold _ x | .pred _ _ x => (some x, none, none)
  | .acfg a b => (some a, some b, none)
  | .join _ _ _ a b o => (some a, some b, some o)
  | .adrn .tup _ _ a _ => (some a, none, none)
  | .adrn _ _ _ a b => (some a, some b, none)
  | .ard (.key a) _ => (some a, none, none)
  | .awr (.key a b) => (some a, some b, none)
  | .awr (.st a) | .awr (.org a) | .awr (.sres a) | .awr (.sover a) => (some a, none, none)
  | .pchk _ _ a _ => (some a, none, none)
  | _ => (none, none, none)
def regOf (s : State) (e : Nat) : Option XReg → Word
  | some r => xv s e r
  | none => 0
def tXa (s : State) (e : Nat) (i : Instr) : Word := regOf s e (tRegs i).1
def tXb (s : State) (e : Nat) (i : Instr) : Word := regOf s e (tRegs i).2.1
def tXc (s : State) (e : Nat) (i : Instr) : Word := regOf s e (tRegs i).2.2

/-! Tables read at issue. -/

/-- Doublewords of the group table of MMAG, or of a Sage descriptor. -/
def tTable (s : State) (e : Nat) (i : Instr) : List (BitVec 64) :=
  let a := (tXa s e i).toNat
  let n := match i with
    | .mmag _ _ _ _ _ g _ => g.val
    | .pred .. | .pchk .. => 4
    | _ => 0
  (List.range n).map (fun k => BitVec.ofNat 64 (leNat (spadBytes (curHw s e) (curWin s) (a + 8 * k) 8)))
def grpFirst (t : BitVec 64) : Nat := nbits t.toNat 39 32
def grpCount (t : BitVec 64) : Nat := nbits t.toNat 47 40
def grpAddr (t : BitVec 64) : Nat := nbits t.toNat 31 0
/-- Rows a group covers (R153). -/
def grpRows (rows rb : Nat) (t : BitVec 64) : List Nat :=
  (List.range 16).filter (fun i => decide (grpFirst t ≤ i) && decide (i < grpFirst t + grpCount t) && decide (16 * rb + i < rows))
/-- A Sage descriptor as one number (R170). -/
def descOf (t : List (BitVec 64)) : Nat := (t.foldr (fun w v => w.toNat + 2 ^ 64 * v) 0)
def sgBase (d : Nat) : Nat := nbits d 223 208
def sgNe (d : Nat) : Nat := nbits d 207 192
def sgRk (d : Nat) : Nat := nbits d 183 176
def sgD (d : Nat) : Nat := nbits d 175 160
def sgX (d : Nat) : Nat := nbits d 31 0
def sgQ (d : Nat) : Nat := nbits d 63 32
def sgR (d : Nat) : Nat := nbits d 95 64
def sgQs (d : Nat) : Nat := nbits d 127 96
def sgRs (d : Nat) : Nat := nbits d 159 128
def elemBytes (f : Fmt) : Nat := f.width / 8

/-! Checks at issue (R144). -/

/-- The lowest cause that holds. -/
def lowest (cs : List (Bool × BitVec 8 × Nat)) : Option (BitVec 8 × Nat) :=
  (cs.filter (·.1)).foldl (fun o c => match o with
    | none => some c.2
    | some x => if c.2.1 < x.1 then some c.2 else some x) none
def cOut (s : State) (e : Nat) (c : CReg) : Bool := decide (denseTiles (curGang s) e ≤ c.toNat)
def tileOut (s : State) (e : Nat) : Tile → Bool
  | .m _ => false
  | .c c => cOut s e c
/-- Scale bytes of one operand: block scales where its format carries them, channel scales where enabled. -/
def scaleCauses (len k : Nat) (f : Fmt) (bs cs : Nat) (ch : Bool) : List (Bool × BitVec 8 × Nat) :=
  [(carriesBlocks f && decide (len < bs + 16 * (k / 32)), 0x03, bs), (ch && decide (len < cs + 32), 0x03, cs), (ch && cs % 2 == 1, 0x04, cs)]
def macCauses (s : State) (e : Nat) (i : Instr) (fa fb : Fmt) (groups : List Nat) : List (Bool × BitVec 8 × Nat) :=
  match macK fa fb with
  | none => [(true, 0x02, 0)]
  | some k =>
    if tabScales i then
      let ent := fmttEntry s e
      let len := (curWin s).len
      scaleCauses len k fa (entBits ent 48 32) (entBits ent 112 96) (ent.getLsbD 8)
        ++ groups.flatMap (fun n => scaleCauses len k fb (entBits ent 80 64 + 64 * n) (entBits ent 144 128 + 32 * n) (ent.getLsbD 9))
    else []
/-- An ACFG's operands (R161). -/
def acfgCauses (len acc : Nat) (a b : Nat) : List (Bool × BitVec 8 × Nat) :=
  let dense := nbits a 11 8
  let pm1 := nbits a 7 4
  let lgn := nbits a 3 0
  let base := nbits b 16 0
  [(nbits a 31 12 != 0, 0x03, 0), (decide (acc < dense), 0x03, 0),
   (dense == acc && (pm1 != 0 || lgn != 0), 0x03, 0),
   (decide (dense < acc) && (decide (lgn < 4) || decide (12 < lgn) || decide ((acc - dense) * 512 < 2 ^ lgn)), 0x03, 0),
   (decide (16383 < nbits b 31 17), 0x03, 0), (decide (len < base + 8 * nbits b 31 17), 0x03, base), (base % 8 != 0, 0x04, base)]
def streamCauses (len a : Nat) : List (Bool × BitVec 8 × Nat) := [(decide (len ≤ a), 0x03, a), (a % 8 != 0, 0x04, a)]
/-- Bytes an ADRN can write (R167). -/
def adrnBytes (lay : Layout) (f : Fmt) (n : Nat) (xb : Word) : Nat :=
  match lay with
  | .tup => 8 * (n + 1)
  | _ => nbits xb.toNat 31 16 * nbits xb.toNat 15 0 * elemBytes f
def adrnCauses (len n : Nat) (lay : Layout) (f : Fmt) (xa : Nat) (xb : Word) : List (Bool × BitVec 8 × Nat) :=
  let nr := nbits xb.toNat 31 16
  let nc := nbits xb.toNat 15 0
  [(lay != .tup && (nr == 0 || nc == 0), 0x03, xa), (lay == .blk && (nr % 16 != 0 || nc % 16 != 0), 0x03, xa),
   (decide (len < xa + adrnBytes lay f n xb), 0x03, xa),
   (xa % (if lay = .tup then 8 else elemBytes f) != 0, 0x04, xa)]
def sageCauses (len : Nat) (isPred : Bool) (f : Fmt) (d : Nat) : List (Bool × BitVec 8 × Nat) :=
  let x := sgX d
  let dd := sgD d
  let ne := sgNe d
  let out (a n : Nat) : Bool × BitVec 8 × Nat := (decide (len < a + n), 0x03, a)
  [(nbits d 255 224 != 0 || nbits d 191 184 != 0, 0x03, 0), (ne == 0 || decide (4096 < ne), 0x03, 0),
   out x (dd * elemBytes f), (x % elemBytes f != 0, 0x04, x)]
  ++ (if isPred then
        [(sgRk d != 32 && sgRk d != 64, 0x03, 0), (dd == 0 || dd % 32 != 0 || decide (16384 < dd), 0x03, 0),
         out (sgQ d) (sgRk d * dd / 2), out (sgR d) (ne * sgRk d / 2), out (sgQs d) (sgRk d * dd / 32), out (sgRs d) (ne * sgRk d / 32)]
      else
        [(nbits d 183 176 != 0 || nbits d 159 96 != 0, 0x03, 0), (dd == 0 || dd % 64 != 0 || decide (16384 < dd), 0x03, 0),
         out (sgQ d) (ne * dd / 64), out (sgR d) (4 * ne), (sgR d % 4 != 0, 0x04, sgR d)])

/-- The causes engine e raises for a T instruction. DESIGN CHOICE (log entry 91): an MMAG with TAB and no group that is not empty
has its A scale addresses checked all the same (04 R97). DEDUCED (log entry 92): every ARD and AWR is of the keyed class and
raises 0x03 without a keyed table (R161). -/
def tFail (i : Instr) (s : State) (e : Nat) : Option (BitVec 8 × Nat) :=
  let len := (curWin s).len
  let acc := (curWin s).acc
  let a := (tXa s e i).toNat
  let ent := fmttEntry s e
  let cw := cfgWord (curGang s) e
  let keyed : List (Bool × BitVec 8 × Nat) := [(cfgN acc cw.1 == 0, 0x03, 0)]
  let spBad (n : Nat) : Bool × BitVec 8 × Nat := (spadBadIn (curHw s e) (curWin s) a n, 0x0F, a)
  let region (n al : Nat) : List (Bool × BitVec 8 × Nat) := [(decide (len < a + n), 0x03, a), (a % al != 0, 0x04, a)]
  match i with
  | .shset _ => none
  | _ =>
  if selects i && entRsv ent then some (0x02, 0)
  else match pickFa (tFmts i).1 ent, pickFb (tFmts i).2 ent with
  | some fa, some fb' =>
    let fb := match i with | .mma .. | .mmag .. | .tdec .. | .join .. => fb' | _ => fa
    (match i with
     | .mma _ _ c _ _ _ => lowest ((cOut s e c, 0x03, 0) :: macCauses s e i fa fb [0])
     | .mmag _ _ c _ _ g rb =>
       let tbl := tTable s e i
       let live := (List.range g.val).filter (fun n => !(grpRows (getEng (curGang s) e).rows rb.toNat (tbl.getD n 0)).isEmpty)
       if g.val = 0 then lowest ((cOut s e c, 0x03, 0) :: macCauses s e i fa fb [])
       else if len < a + 8 * g.val then lowest [((macK fa fb).isNone, 0x02, 0), (true, 0x03, a)]
       else lowest ((cOut s e c, 0x03, 0) :: (a % 8 != 0, 0x04, a) :: spBad (8 * g.val) :: macCauses s e i fa fb live
         ++ live.flatMap (fun n => let b := grpAddr (tbl.getD n 0); [(b % 64 != 0, 0x04, b), (decide (len < b + 1024), 0x03, b)]))
     | .tzero t => lowest [(tileOut s e t, 0x03, 0)]
     | .ttrn _ td ta _ _ =>
       lowest [((td.isC || ta.isC) && fa.width != 32, 0x02, 0), (tileOut s e td || tileOut s e ta, 0x03, 0)]
     | .tdec .. => lowest [(fa != .lq2 || fb != .e4m3, 0x02, 0)]
     | .cbld _ => lowest (region 2048 64)
     | .fmtw _ _ => lowest (region 32 32)
     | .shset _ => none
     | .acfg _ _ => lowest (acfgCauses len acc a (tXb s e i).toNat)
     | .aclr | .aspl _ | .ard _ _ | .awr _ => lowest keyed
     | .join .. => lowest ([(!(fa.joinOk && fa != .tab && fb.joinOk && fb != .tab), 0x02, 0)] ++ keyed ++ streamCauses len a
         ++ streamCauses len (tXb s e i).toNat)
     | .jins .. => lowest ([(!(fa.joinOk && fa != .tab), 0x02, 0)] ++ keyed ++ streamCauses len a)
     | .adrn lay _ _ _ _ =>
       if !(fa.drainOk && fa != .tab) then some (0x02, 0)
       else lowest (keyed ++ adrnCauses len (cfgN acc cw.1) lay fa a (tXb s e i))
     | .afold c _ => lowest ((cOut s e c, 0x03, 0) :: keyed)
     | .pred .. | .pchk .. =>
       let isPred := match i with | .pred .. => true | _ => false
       if !(fa.sageOk && fa != .tab) || (!isPred && entBits ent 11 10 == 3) then some (0x02, 0)
       else if len < a + 32 then some (0x03, a)
       else lowest ((a % 32 != 0, 0x04, a) :: spBad 32 :: sageCauses len isPred fa (descOf (tTable s e i)))
     | _ => none)
  | _, _ => some (0x02, 0)

def tCounter (G : Gang) : TClass → Nat
  | .tile => G.ntile
  | .join => G.njoin
  | .pred => G.npred
def tCheck (i : Instr) (s : State) : Verdict :=
  andAll [commonCheck i s, waitUnless (decide (tCounter (curGang s) (tClass i) < 63)) .other, engCheck s (tFail i s)]

/-! Issue. -/

def raiseT (c : TClass) (G : Gang) : Gang :=
  match c with
  | .tile => { G with ntile := G.ntile + 1 }
  | .join => { G with njoin := G.njoin + 1 }
  | .pred => { G with npred := G.npred + 1 }
def lowerT (c : TClass) (G : Gang) : Gang :=
  match c with
  | .tile => { G with ntile := G.ntile - 1 }
  | .join => { G with njoin := G.njoin - 1 }
  | .pred => { G with npred := G.npred - 1 }

/-- What engine e takes along from the issue. -/
def mkTOp (i : Instr) (s : State) (e : Nat) : TOp :=
  let G := curGang s
  let E := getEng G e
  let H := getHw G e
  let ent := fmttEntry s e
  { id := G.nextId, eng := e, ins := i, path := s.cur.path, pc := s.cur.pc, t0 := (curGang s).gc, xa := tXa s e i, xb := tXb s e i,
    xc := tXc s e i, rows := E.rows, cols := E.cols, k := E.k, fa := (pickFa (tFmts i).1 ent).getD .f32,
    fb := (pickFb (tFmts i).2 ent).getD .f32, ea := if selects i then ent else 0, eb := if selects i then ent else 0,
    tbl := tTable s e i, begun := false, done := none, out := none, snapM := E.m, snapSpad := H.spad, snapAcc := H.acc,
    join := none, sage := none, pushes := [], pushAt := 0, hits := [] }
/-- The counter's own entry where no engine runs the instruction: it falls one gang cycle after issue (R145). -/
def idleTOp (i : Instr) (s : State) (lat : Nat) : TOp :=
  { id := (curGang s).nextId, eng := 16, ins := i, path := s.cur.path, pc := s.cur.pc, t0 := (curGang s).gc, xa := 0, xb := 0, xc := 0, rows := 0,
    cols := 0, k := 0, fa := .f32, fb := .f32, ea := 0, eb := 0, tbl := [], begun := true,
    done := some ((curGang s).gc + lat), out := some [], snapM := [], snapSpad := [], snapAcc := [], join := none, sage := none,
    pushes := [], pushAt := 0, hits := [] }
def tIssue (i : Instr) (s : State) : State :=
  let es := actives s
  let ops := if es.isEmpty then [idleTOp i s 1] else es.map (mkTOp i s)
  modCur s (fun G => raiseT (tClass i) { G with tops := G.tops ++ ops, nextId := G.nextId + 1 })

/-- A T instruction: its checks, then one entry in the issue queue of every active engine. -/
def tOp (i : Instr) (s : State) : Outcome := commit i (tCheck i s) (tIssue i) s

def execMma (fa fb : Fmt) (c : CReg) (a b : MReg) (rb : BitVec 2) (s : State) : Outcome := tOp (.mma fa fb c a b rb) s
def execMmag (fa fb : Fmt) (c : CReg) (a : MReg) (x : XReg) (g : Fin 17) (rb : BitVec 2) (s : State) : Outcome :=
  tOp (.mmag fa fb c a x g rb) s
def execTzero (t : Tile) (s : State) : Outcome := tOp (.tzero t) s
def execTtrn (f : Fmt) (td ta : Tile) (dir : Dir) (rot : BitVec 4) (s : State) : Outcome := tOp (.ttrn f td ta dir rot) s
def execTdec (fa fb : Fmt) (md ma : MReg) (s : State) : Outcome := tOp (.tdec fa fb md ma) s
def execCbld (x : XReg) (s : State) : Outcome := tOp (.cbld x) s
def execFmtw (x : XReg) (e : BitVec 4) (s : State) : Outcome := tOp (.fmtw x e) s
/-- SHSET: the shape lands after 2 cycles and n.tile falls with it; R146 does not hold it (R160). -/
def execShset (x : XReg) (s : State) : Outcome :=
  commit (.shset x) (tCheck (.shset x) s)
    (fun s =>
      let es := actives s
      let s' := inFlight s 2 (.shape (es.map (fun e => (e, xv s e x))))
      let ops := if es.isEmpty then [idleTOp (.shset x) s 1] else es.map (fun e => { idleTOp (.shset x) s 2 with eng := e })
      modCur s' (fun G => raiseT .tile { G with tops := G.tops ++ ops, nextId := G.nextId + 1 })) s
def execAcfg (a b : XReg) (s : State) : Outcome := tOp (.acfg a b) s
def execAclr (s : State) : Outcome := tOp .aclr s
def execJoin (fa fb : Fmt) (d a b o : XReg) (s : State) : Outcome := tOp (.join fa fb d a b o) s
def execJins (f : Fmt) (d a : XReg) (s : State) : Outcome := tOp (.jins f d a) s
def execAdrn (lay : Layout) (f : Fmt) (d a b : XReg) (s : State) : Outcome := tOp (.adrn lay f d a b) s
def execAfold (c : CReg) (a : XReg) (s : State) : Outcome := tOp (.afold c a) s
def execAspl (d : XReg) (s : State) : Outcome := tOp (.aspl d) s
def execArd (sel : ArdSel) (d : XReg) (s : State) : Outcome := tOp (.ard sel d) s
def execAwr (sel : AwrSel) (s : State) : Outcome := tOp (.awr sel) s
def execPred (f : Fmt) (d a : XReg) (s : State) : Outcome := tOp (.pred f d a) s
def execPchk (f : Fmt) (d a e : XReg) (s : State) : Outcome := tOp (.pchk f d a e) s

/-! Resources (R146). -/

inductive Res where
  | m (r : Nat) | c (r : Nat) | keyed | codebook | sage | spad (lo hi : Nat) | config
  deriving DecidableEq, Repr
def tileRes : Tile → Res
  | .m r => .m r.toNat
  | .c r => .c r.toNat
/-- Whether two resources meet: scratchpad by byte range, an empty one meets nothing. -/
def resMeets : Res → Res → Bool
  | .spad a b, .spad c d => decide (max a c < min b d)
  | x, y => x == y

/-- The spill ring as the engine's configuration gives it. -/
def ringBase (E : Engine) : Nat := nbits E.cfgB.toNat 16 0
def ringLen (E : Engine) : Nat := nbits E.cfgB.toNat 31 17
def ringRes (E : Engine) : Res := .spad (ringBase E) (ringBase E + 8 * ringLen E)
def cfgOfTile : Tile → List Res
  | .m _ => []
  | .c _ => [.config]
/-- Groups that are not empty; an MMA is its own group 0 (R153). -/
def liveGroups (o : TOp) : List Nat :=
  match o.ins with
  | .mmag _ _ _ _ _ _ rb => (o.tbl.zipIdx.filter (fun t => !(grpRows o.rows rb.toNat t.1).isEmpty)).map (·.2)
  | .mma .. => [0]
  | _ => []
/-- Scale bytes that a TAB form reads (04 R97). -/
def scaleRes (o : TOp) : List Res :=
  if tabScales o.ins then
    let k := (macK o.fa o.fb).getD 0
    let one (c : Bool) (a n : Nat) : List Res := if c && n != 0 then [.spad a (a + n)] else []
    one (carriesBlocks o.fa) (entBits o.ea 48 32) (16 * (k / 32)) ++ one (o.ea.getLsbD 8) (entBits o.ea 112 96) 32
      ++ (liveGroups o).flatMap (fun n => one (carriesBlocks o.fb) (entBits o.eb 80 64 + 64 * n) (16 * (k / 32))
        ++ one (o.eb.getLsbD 9) (entBits o.eb 144 128 + 32 * n) 32)
  else []
def lqRes (o : TOp) : List Res := if o.fa = .lq2 || o.fb = .lq2 then [.codebook] else []
/-- The regions a PRED or PCHK reads, as one range from the lowest to the highest byte. -/
def sageRange (o : TOp) : Res :=
  let d := descOf o.tbl
  let isPred := match o.ins with | .pred .. => true | _ => false
  let rs : List (Nat × Nat) := (o.xa.toNat, 32) :: (sgX d, sgD d * elemBytes o.fa) ::
    (if isPred then [(sgQ d, sgRk d * sgD d / 2), (sgR d, sgNe d * sgRk d / 2), (sgQs d, sgRk d * sgD d / 32), (sgRs d, sgNe d * sgRk d / 32)]
     else [(sgQ d, sgNe d * sgD d / 64), (sgR d, 4 * sgNe d)])
  .spad (rs.foldl (fun a r => min a r.1) o.xa.toNat) (rs.foldl (fun a r => max a (r.1 + r.2)) 0)
/-- What an instruction reads and what it writes, whatever its selector (R146). Ranges are taken from the lowest to the highest byte. -/
def tReads (E : Engine) (len : Nat) (o : TOp) : List Res :=
  match o.ins with
  | .mma _ _ c a b _ => [.m a.toNat, .m b.toNat, .c c.toNat, .config] ++ lqRes o ++ scaleRes o
  | .mmag _ _ c a _ g _ =>
    [.m a.toNat, .c c.toNat, .config, .spad o.xa.toNat (o.xa.toNat + 8 * g.val)] ++ lqRes o ++ scaleRes o
      ++ (o.tbl.filter (fun t => !(grpRows o.rows (match o.ins with | .mmag _ _ _ _ _ _ rb => rb.toNat | _ => 0) t).isEmpty)).map
           (fun t => .spad (grpAddr t) (grpAddr t + 1024))
  | .tzero t => cfgOfTile t
  | .ttrn _ td ta _ _ => tileRes ta :: (cfgOfTile td ++ cfgOfTile ta)
  | .tdec _ _ _ ma => [.m ma.toNat, .codebook]
  | .cbld _ => [.spad o.xa.toNat (o.xa.toNat + 2048)]
  | .fmtw _ _ => [.spad o.xa.toNat (o.xa.toNat + 32)]
  | .join .. => [.config, .spad o.xa.toNat len, .spad o.xb.toNat len]
  | .jins .. => [.config, .spad o.xa.toNat len]
  | .aspl _ => [.config, ringRes E]
  | .aclr | .adrn .. => [.config]
  | .afold c _ => [.config, .c c.toNat]
  | .ard _ _ => [.config, .keyed, .sage]
  | .awr _ => [.config]
  | .pred .. => [sageRange o]
  | .pchk .. => [.sage, sageRange o]
  | _ => []
def tWrites (E : Engine) (o : TOp) : List Res :=
  match o.ins with
  | .mma _ _ c _ _ _ => [.c c.toNat]
  | .mmag _ _ c _ _ _ _ => [.c c.toNat]
  | .tzero t => [tileRes t]
  | .ttrn _ td _ _ _ => [tileRes td]
  | .tdec _ _ md _ => [.m md.toNat]
  | .cbld _ => [.codebook]
  | .acfg _ _ => [.config, .keyed]
  | .aclr => [.keyed]
  | .join .. | .jins .. | .aspl _ => [.keyed, ringRes E]
  | .adrn lay _ _ _ _ => [.keyed, .spad o.xa.toNat (o.xa.toNat + adrnBytes lay o.fa (2 ^ nbits E.cfgA.toNat 3 0) o.xb)]
  | .afold c _ => [.keyed, .c c.toNat]
  | .awr _ => [.keyed, .sage, ringRes E]
  | .pred .. | .pchk .. => [.sage]
  | _ => []
def isMac : Instr → Bool
  | .mma .. | .mmag .. => true
  | _ => false
/-- The resources two instructions conflict on. -/
def clashes (E : Engine) (len : Nat) (a b : TOp) : List Res :=
  let wa := tWrites E a
  let wb := tWrites E b
  wa.filter (fun r => (tReads E len b ++ wb).any (fun q => resMeets r q))
    ++ (tReads E len a).filter (fun r => wb.any (fun q => resMeets r q))
/-- b must wait for the earlier a. MMAs that only share their destination tile wait for the MAC array alone. -/
def waitsFor (E : Engine) (len : Nat) (b a : TOp) : Bool :=
  match b.ins with
  | .acfg _ _ => true
  | _ =>
    let cs := clashes E len b a
    !cs.isEmpty && !(isMac a.ins && isMac b.ins && tWrites E a == tWrites E b && cs.all (fun r => (tWrites E b).contains r))

/-- Groups that take the array; MMA counts as one. -/
def macPasses (o : TOp) : Nat :=
  match o.ins with
  | .mma .. => 1
  | .mmag _ _ _ _ _ _ rb => (o.tbl.filter (fun t => !(grpRows o.rows rb.toNat t).isEmpty)).length
  | _ => 0
/-- The MAC array is free: the one in it occupies it until 16 cycles before its completion (R152, R154). -/
def macFree (G : Gang) (e : Nat) : Bool :=
  G.tops.all (fun o => !(o.eng == e && o.begun && decide (0 < macPasses o)
    && (match o.done with | some d => decide (G.gc + 16 < d) | none => false)))
/-- Operation o may begin now: everything ahead of it has begun and no earlier one it conflicts with remains. One that takes the
array, or conflicts with an MMA or MMAG on the tile that both accumulate into, waits until the array is free. -/
def canBegin (G : Gang) (len : Nat) (o : TOp) : Bool :=
  let E := getEng G o.eng
  let ahead := G.tops.filter (fun a => a.eng == o.eng && decide (a.id < o.id))
  !o.begun && ahead.all (fun a => a.begun) && ahead.all (fun a => !(waitsFor E len o a))
    && ((macPasses o == 0 && ahead.all (fun a => (clashes E len o a).isEmpty)) || macFree G o.eng)

end Sys2Proof.Machine
end

