-- ==== Sys2Proof/Machine/CopyEngine.lean ====
section
/-! DEFINITION. The C slot: descriptors, DSET, the checks of copy commands at issue, and their entry into the command
queue (11 R266–R270, R272–R278; 15 R353). -/

namespace Sys2Proof.Machine

/-! Descriptors (R266). -/

abbrev Desc := BitVec 256
def dcSrc (d : Desc) : Nat := nbits d.toNat 63 0
def dcDst (d : Desc) : Nat := nbits d.toNat 127 64
def dcLen (d : Desc) : Nat := nbits d.toNat 151 128
def dcRows (d : Desc) : Nat := nbits d.toNat 175 160
def dcSstr (d : Desc) : Int := (d.extractLsb' 192 32).toInt
def dcDstr (d : Desc) : Int := (d.extractLsb' 224 32).toInt
def aKind (a : Nat) : Nat := nbits a 63 60
def aHint (a : Nat) : Bool := a.testBit 59
def aAddr (a : Nat) : Nat := nbits a 51 0
def putDWord (d : Desc) (n : Nat) (v : Word) : Desc :=
  BitVec.ofNat 256 (d.toNat - nbits d.toNat (32 * n + 31) (32 * n) * 2 ^ (32 * n) + v.toNat * 2 ^ (32 * n))

/-- Whether a bundle of a path issued in gang cycle u reads a DSET's new value: the third bundle of its own path does;
the other path's may within two gang cycles and does later (R268). -/
def dsetSeen (s : State) (p : PathSlot) (u : Nat) (x : DsetPend × Nat) : Bool :=
  if x.1.path = p then x.1.left == 0
  else if u ≤ x.1.t + 2 then freeAt s (900 + x.2) % 2 == 1
  else true
/-- Descriptor register k as the current bundle reads it. -/
def descReg (s : State) (k : Nat) : Desc :=
  let G := curGang s
  ((G.dsets.zipIdx.filter (fun x => x.1.d == k && dsetSeen s s.cur.path G.gc x)).foldl
    (fun d x => putDWord d x.1.n x.1.v) (spGet 0 G.d k))
/-- After a bundle of a path: its older DSETs come nearer. -/
def countDsets (p : PathSlot) (G : Gang) : Gang :=
  { G with dsets := G.dsets.map (fun x => if x.path = p ∧ x.t < G.gc then { x with left := x.left - 1 } else x) }
/-- DSETs in effect for every path become the register's value, in issue order. -/
def settleDsetList (gc : Nat) : List DsetPend → Sp (BitVec 256) → List DsetPend × Sp (BitVec 256)
  | [], d => ([], d)
  | x :: r, d =>
    if x.left = 0 ∧ x.t + 2 < gc then settleDsetList gc r (spSet 0 d x.d (putDWord (spGet 0 d x.d) x.n x.v))
    else (x :: r, d)
def settleDsets (G : Gang) : Gang :=
  let r := settleDsetList G.gc G.dsets G.d
  { G with dsets := r.1, d := r.2 }

/-! Forms (R272). -/

def copyOpOf : Instr → Option CopyOp
  | .cpy .. => some .cpy
  | .cpyg .. => some .cpyg
  | .cpsh .. => some .cpsh
  | .cmc .. => some .cmc
  | .cprf .. => some .cprf
  | .cfls .. => some .cfls
  | .cinv .. => some .cinv
  | .cfil .. => some .cfil
  | _ => none
/-- Source and destination kinds a form takes; none where it uses no such address. -/
def srcKinds : CopyOp → Option (List Nat)
  | .cpy | .cpsh | .cmc => some [0, 1]
  | .cpyg | .cprf => some [0]
  | .cfls | .cinv | .cfil => none
def dstKinds : CopyOp → Option (List Nat)
  | .cpy | .cpsh => some [0, 1, 2]
  | .cpyg | .cmc => some [1]
  | .cfls | .cinv => some [0]
  | .cfil => some [0, 1]
  | .cprf => none
/-- Locator registers of the source and of the destination, where the form has such fields. -/
def copyLocs : Instr → Option SReg × Option SReg
  | .cpy _ a b _ _ | .cpsh _ a b _ _ _ | .cmc _ a b _ _ _ => (some a, some b)
  | .cfil _ _ b _ _ => (none, some b)
  | _ => (none, none)
def copyDescNo : Instr → Nat
  | .cpy d .. | .cpyg d .. | .cpsh d .. | .cmc d .. | .cprf d .. | .cfls d .. | .cinv d .. | .cfil d .. => d.toNat
  | _ => 0

/-! Checks at issue (R267, R270, R276). -/

/-- Rows a command covers as the issue knows them: CPYG's count, else the descriptor's. -/
def issueRows (i : Instr) (s : State) (d : Desc) : Nat :=
  match i with
  | .cpyg _ a _ _ _ => (sv s a).toNat
  | _ => dcRows d
/-- The least and the greatest first byte of n rows. -/
def rowEnds (a : Nat) (str : Int) (n : Nat) : Int × Int :=
  let z : Int := (a : Int) + str * ((n : Int) - 1)
  (min (a : Int) z, max (a : Int) z)
/-- Cause 0x0B of one address word. -/
def addrBad (kinds : List Nat) (a : Nat) (str : Int) (len rows win : Nat) (checkRows : Bool) : Bool :=
  let k := aKind a
  !kinds.contains k || nbits a 58 52 != 0 || (aHint a && k != 0)
    || (k == 1 && nbits a 51 17 != 0) || (k == 2 && (nbits a 51 2 != 0 || len % 4 != 0))
    || (checkRows && rows != 0 &&
        (let e := rowEnds (aAddr a) str rows
         (k == 0 && (decide (e.1 < 0) || decide ((2 ^ 52 : Int) < e.2 + len)))
         || (k == 1 && (decide (e.1 < 0) || decide (((min win 0x20000 : Nat) : Int) < e.2 + len)))))
/-- An unused locator field names a register (rsv 0, R272). -/
def locRsv (k : Nat) (used : Bool) : Option SReg → Bool
  | some r => (!used || k != 1) && r != 0
  | none => false
/-- A locator that names no gang of the partition (R267). -/
def locBad (s : State) (k : Nat) (used : Bool) : Option SReg → Bool
  | some r => used && k == 1 && (match curCtx s with | some c => (locGang s c ((sv s r).setWidth 32)).isNone | none => true)
  | none => false
/-- The causes of a copy command; the lowest stands (R63). DESIGN CHOICE (log entry 114): of a CMC whose destination is of another
kind than 1, opb other than s0 is an unused locator, whose cause 0x01 comes before the 0x0B of the kind. -/
def copyCauses (i : Instr) (op : CopyOp) (s : State) : Verdict :=
  let d := descReg s (copyDescNo i)
  let win := (gangWin s s.cur.gang).len
  let n := issueRows i s d
  let ks := aKind (dcSrc d)
  let kd := aKind (dcDst d)
  let us := (srcKinds op).isSome
  let ud := (dstKinds op).isSome
  let ls := copyLocs i
  if locRsv ks us ls.1 || locRsv kd ud ls.2 then trapOf 0x01
  else if locBad s ks us ls.1 || (locBad s (if op = .cmc then 1 else kd) ud ls.2) then trapOf 0x0A
  else if nbits d.toNat 191 176 != 0 || nbits d.toNat 159 152 != 0 || dcLen d == 0 || dcRows d == 0
      || (op == .cpyg && decide (256 < n))
      || (match srcKinds op with | some k => addrBad k (dcSrc d) (dcSstr d) (dcLen d) n win (op != .cpyg) | none => false)
      || (match dstKinds op with | some k => addrBad k (dcDst d) (dcDstr d) (dcLen d) n win true | none => false) then trapOf 0x0B
  else .ok

/-- Commands of the team that stand in the queue; one that started in this cycle still holds its entry (R269). -/
def queuedCopies (s : State) : Nat :=
  match gangTeam s s.cur.gang with
  | some T => (T.copies.filter (fun c => !c.started || c.begunAt == nowCyc s)).length
  | none => 0
def queueFull (s : State) : Bool := decide (32 ≤ queuedCopies s)
/-- Room for one more command: in the queue, and in the counter. -/
def copyRoom (s : State) : Verdict := (waitUnless (!queueFull s) .full).and (waitUnless (decide ((curGang s).ncopy < 63)) .copy)
def copyCheck (i : Instr) (s : State) : Verdict :=
  match copyOpOf i with
  | none => commonCheck i s
  | some op =>
    andAll [commonCheck i s, copyCauses i op s,
      (match i with
       | .cpsh _ _ _ (some _) _ _ => waitUnless (queueFull s || decide ((curGang s).ncopy < 63)) .copy
       | _ => copyRoom s)]

/-! Issue. -/

def execDset (d : DReg) (n : BitVec 3) (sa : SReg) (s : State) : Outcome :=
  commit (.dset d n sa) (copyCheck (.dset d n sa) s)
    (fun s => modCur s (fun G => { G with
      dsets := G.dsets ++ [⟨s.cur.path, d.toNat, n.toNat, (sv s sa).setWidth 32, G.gc, 2⟩] })) s

/-- A command enters the team's queue and raises n.copy (R269). -/
def enterCopy (op : CopyOp) (d : DReg) (la lb : Word) (pat : DWord) (mask : Mask) (n : Nat) (cls : BitVec 2)
    (bar : Option (BitVec 4)) (s : State) : State :=
  match (curGang s).team with
  | none => s
  | some t =>
    let G := curGang s
    let two := match getTeam s t with | some T => T.gangs.length == 2 | none => false
    let c : Copy :=
      { id := 2 * G.copySeq + s.cur.gang % 2, gang := s.cur.gang, path := s.cur.path, seq := G.copySeq, op := op,
        desc := descReg s d.toNat, la := la, lb := lb, pat := pat, mask := mask, n := n, cls := cls.toNat,
        bar := bar.map (·.toNat), slice := if op = .cpy && two then some G.cpySeq else none, started := false,
        nextOff := 0, ahead := [], held := none, rows := [], dropped := [], stop := false, finished := false, begunAt := 0, qbuf := [] }
    let s := modTeam s t (fun T => { T with copies := T.copies ++ [c] })
    modCur s (fun G => { G with copySeq := G.copySeq + 1, cpySeq := if op = .cpy then G.cpySeq + 1 else G.cpySeq,
                                ncopy := G.ncopy + 1 })
def locWord (s : State) (r : SReg) : Word := (sv s r).setWidth 32

def execCpy (d : DReg) (sa sb : SReg) (cls : BitVec 2) (bar : Option (BitVec 4)) (s : State) : Outcome :=
  commit (.cpy d sa sb cls bar) (copyCheck (.cpy d sa sb cls bar) s)
    (fun s => enterCopy .cpy d (locWord s sa) (locWord s sb) 0 0 0 cls bar s) s
/-- CPYG: the engines of its mask within the issuing path's mask (R276). -/
def execCpyg (d : DReg) (sa : SReg) (mask : Mask) (cls : BitVec 2) (bar : Option (BitVec 4)) (s : State) : Outcome :=
  commit (.cpyg d sa mask cls bar) (copyCheck (.cpyg d sa mask cls bar) s)
    (fun s => enterCopy .cpyg d 0 0 0 (mask &&& s.cur.mask) (sv s sa).toNat cls bar s) s
/-- CPSH: with a flag register a full queue refuses the command and sets the flag (R274). -/
def execCpsh (d : DReg) (sa sb : SReg) (nb : Option SReg) (cls : BitVec 2) (bar : Option (BitVec 4)) (s : State) : Outcome :=
  commit (.cpsh d sa sb nb cls bar) (copyCheck (.cpsh d sa sb nb cls bar) s)
    (fun s =>
      let go := enterCopy .cpsh d (locWord s sa) (locWord s sb) 0 0 0 cls bar s
      match nb with
      | none => go
      | some r =>
        let c := (curGang s).gc + 1
        if queueFull s then addIlk s r.toNat (.at c 1) else addIlk go r.toNat (.at c 0)) s
def execCmc (d : DReg) (sa sb : SReg) (mask : Mask) (cls : BitVec 2) (bar : Option (BitVec 4)) (s : State) : Outcome :=
  commit (.cmc d sa sb mask cls bar) (copyCheck (.cmc d sa sb mask cls bar) s)
    (fun s => enterCopy .cmc d (locWord s sa) (locWord s sb) 0 mask 0 cls bar s) s
def execCprf (d : DReg) (cls : BitVec 2) (bar : Option (BitVec 4)) (s : State) : Outcome :=
  commit (.cprf d cls bar) (copyCheck (.cprf d cls bar) s) (fun s => enterCopy .cprf d 0 0 0 0 0 cls bar s) s
def execCfls (d : DReg) (cls : BitVec 2) (bar : Option (BitVec 4)) (s : State) : Outcome :=
  commit (.cfls d cls bar) (copyCheck (.cfls d cls bar) s) (fun s => enterCopy .cfls d 0 0 0 0 0 cls bar s) s
def execCinv (d : DReg) (cls : BitVec 2) (bar : Option (BitVec 4)) (s : State) : Outcome :=
  commit (.cinv d cls bar) (copyCheck (.cinv d cls bar) s) (fun s => enterCopy .cinv d 0 0 0 0 0 cls bar s) s
def execCfil (d : DReg) (sa sb : SReg) (cls : BitVec 2) (bar : Option (BitVec 4)) (s : State) : Outcome :=
  commit (.cfil d sa sb cls bar) (copyCheck (.cfil d sa sb cls bar) s)
    (fun s => enterCopy .cfil d 0 (locWord s sb) (sv s sa) 0 0 cls bar s) s

end Sys2Proof.Machine
end

