-- ==== Sys2Proof/Machine/Tensor.lean ====
section
/-! DEFINITION. Results of the tile-class T instructions, computed from what an operation took along at issue and what
its engine holds while it runs (06 R147, R150–R160; 04 R96, R97, R111). -/

namespace Sys2Proof.Machine

/-! What an operation reads. An element that an L- or W-slot result, a VTWR or a copy has changed since the issue is
read as it stood at issue or as it stands: bit k of the free number decides for element k (R147). -/

structure TView where
  G : Gang
  W : Win
  o : TOp
  n : Nat
  deriving Repr

def pick {α : Type} [DecidableEq α] (n k : Nat) (old new : α) : α := if old = new then new else if n.testBit k then old else new
def tvEng (v : TView) : Engine := getEng v.G v.o.eng
def tvHw (v : TView) : EngineHw := getHw v.G v.o.eng
/-- Row r of tile register m. -/
def tvRow (v : TView) (m r : Nat) : BitVec 512 :=
  let old := spGet 0 v.o.snapM (16 * m + r)
  let new := mRow (tvEng v) m r
  if old = new then new else lanes512 (fun i => pick v.n (16 * (16 * m + r) + i) (lane old i) (lane new i))
/-- A byte of the scratchpad, chosen word by word. -/
def tvByte (v : TView) (a : Nat) : Byte :=
  pick v.n (4096 + a / 4) (spGet 0 v.o.snapSpad (v.W.base + a)) (spadByte (tvHw v) v.W a)
def tvNat (v : TView) (a n : Nat) : Nat := leNat ((List.range n).map (fun i => tvByte v (a + i)))
def tvBad (v : TView) (a n : Nat) : Bool := spadBadIn (tvHw v) v.W a n
/-- A word of an accumulator tile. -/
def tvAcc (v : TView) (c row col : Nat) : Word :=
  let k := accIndex v.W c row col
  pick v.n (65536 + k) (spGet 0 v.o.snapAcc k) (spGet 0 (tvHw v).acc k)
def accBadAt (v : TView) (c row col : Nat) : Bool := (tvHw v).accBad.contains (accIndex v.W c row col / 2)

/-! Matrix products (R150–R154). -/

/-- Element t of a row of k elements in format f. -/
def opElem (cb : Sp Byte) (f : Fmt) (row : BitVec 512) (t : Nat) : FVal :=
  match f with
  | .lq2 => fmtVal .e4m3 (lq2Byte cb (rowElem row 16 (t / 8)) (t % 8))
  | f => fmtVal f (rowElem row f.width t)

/-- Scale of block b of row or column x: block scale times channel scale, those that do not apply counting as 1. -/
def scaleAt (v : TView) (f : Fmt) (bs cs : Nat) (ch : Bool) (k x b : Nat) : FVal :=
  let one : FVal := .fin false 1 0
  if tabScales v.o.ins then
    let blk := if carriesBlocks f then e8Val (tvByte v (bs + x * (k / 32) + b)) else one
    if ch then blk.mul (fmtVal .f16 (tvNat v (cs + 2 * x) 2)) else blk
  else one
def scaleBadAt (v : TView) (f : Fmt) (bs cs : Nat) (ch : Bool) (k x : Nat) : Bool :=
  tabScales v.o.ins && ((carriesBlocks f && tvBad v (bs + x * (k / 32)) (k / 32)) || (ch && tvBad v (cs + 2 * x) 2))

/-- One pass of the array: rows in `rows` of c tile, with A register a and the B rows given (R151). Group number n
moves the scales of B. Elements that meet poison are left out. -/
def macPass (v : TView) (c a rb n : Nat) (rows : List Nat) (bRow : Nat → BitVec 512) (bBad : Nat → Bool) (cIn : Nat → Nat → Word) :
    List (Nat × Nat × Word) × Bool :=
  let o := v.o
  let k := (macK o.fa o.fb).getD 0
  let lim := min k o.k
  let cb := (tvEng v).cb
  let bsa := entBits o.ea 48 32
  let csa := entBits o.ea 112 96
  let bsb := entBits o.eb 80 64 + 64 * n
  let csb := entBits o.eb 144 128 + 32 * n
  let aVal (i t : Nat) : FVal := (opElem cb o.fa (tvRow v a i) t).mul (scaleAt v o.fa bsa csa (o.ea.getLsbD 8) k i (t / 32))
  let bVal (j t : Nat) : FVal := (opElem cb o.fb (bRow j) t).mul (scaleAt v o.fb bsb csb (o.eb.getLsbD 9) k j (t / 32))
  let live := (rows.filter (fun i => decide (16 * rb + i < o.rows))).flatMap
    (fun i => ((List.range 16).filter (fun j => decide (j < o.cols))).map (fun j => (i, j)))
  let bad (x : Nat × Nat) : Bool :=
    scaleBadAt v o.fa bsa csa (o.ea.getLsbD 8) k x.1 || scaleBadAt v o.fb bsb csb (o.eb.getLsbD 9) k x.2 || bBad x.2 || accBadAt v c x.1 x.2
  (((live.filter (fun x => !bad x)).map (fun x =>
      (x.1, x.2, if lim = 0 then cIn x.1 x.2
        else macElement (cIn x.1 x.2) ((List.range lim).map (fun t => (aVal x.1 t).mul (bVal x.2 t)))))), live.any bad)

def accWrites (v : TView) (c : Nat) (ws : List (Nat × Nat × Word)) : List TWr := ws.map (fun w => .acc (accIndex v.W c w.1 w.2.1) w.2.2)

/-- Groups in ascending order, each seeing the rows the ones before it wrote (R154). -/
def macGroups (v : TView) (c a rb : Nat) : List (Nat × BitVec 64) → (List (Nat × Nat × Word)) → Bool → List (Nat × Nat × Word) × Bool
  | [], acc, bad => (acc, bad)
  | (n, t) :: r, acc, bad =>
    let rows := grpRows v.o.rows rb t
    if rows.isEmpty then macGroups v c a rb r acc bad
    else
      let base := grpAddr t
      let cIn (i j : Nat) : Word := match acc.find? (fun w => w.1 == i && w.2.1 == j) with
        | some w => w.2.2
        | none => tvAcc v c i j
      let p := macPass v c a rb n rows (fun j => BitVec.ofNat 512 (tvNat v (base + 64 * j) 64)) (fun j => tvBad v (base + 64 * j) 64) cIn
      macGroups v c a rb r (p.1 ++ acc.filter (fun w => !(p.1.any (fun x => x.1 == w.1 && x.2.1 == w.2.1)))) (bad || p.2)

/-! Tile moves and tables (R155–R159). -/

def tileElemV (v : TView) (t : Tile) (w r col : Nat) : Nat :=
  match t with
  | .m m => rowElem (tvRow v m.toNat r) w col
  | .c c => (tvAcc v c.toNat r (col % 16)).toNat
/-- Element (r, 16 h + i) of td in a TTRN (R156). -/
def trnElem (v : TView) (ta : Tile) (dir : Dir) (rot w h r i : Nat) : Nat :=
  match dir with
  | .row => tileElemV v ta w r (16 * h + i)
  | .col => tileElemV v ta w i (16 * h + r)
  | .diag => tileElemV v ta w i (16 * h + (i + r + rot) % 16)
def tileWritesOf (v : TView) (td : Tile) (row : Nat → BitVec 512) : List TWr :=
  match td with
  | .m m => (List.range 16).map (fun r => .mrow m.toNat r (row r))
  | .c c => (List.range 16).flatMap (fun r => (List.range 16).map (fun j => .acc (accIndex v.W c.toNat r j) (lane (row r) j)))
def packRow (w : Nat) (f : Nat → Nat) : BitVec 512 :=
  BitVec.ofNat 512 ((List.range (512 / w)).foldl (fun a j => a + f j % 2 ^ w * 2 ^ (w * j)) 0)

/-- A NaN element decoded by TDEC is written as the canonical one (04 R89, R93). -/
def canonE4m3 (b : Nat) : Nat := if b % 128 = 127 then 0x7F else b
/-- Results of a tile-class instruction, and whether it met poison (04 R111; 06 R144). -/
def tileResult (v : TView) : List TWr × Bool :=
  let o := v.o
  match o.ins with
  | .mma _ _ c a b rb =>
    let p := macPass v c.toNat a.toNat rb.toNat 0 (List.range 16) (tvRow v b.toNat) (fun _ => false) (tvAcc v c.toNat)
    (accWrites v c.toNat p.1, p.2)
  | .mmag _ _ c a _ _ rb =>
    let p := macGroups v c.toNat a.toNat rb.toNat (o.tbl.zipIdx.map (fun t => (t.2, t.1))) [] false
    (accWrites v c.toNat p.1, p.2)
  | .tzero t => (tileWritesOf v t (fun _ => 0), false)
  | .ttrn _ td ta dir rot =>
    let w := o.fa.width
    let bad := match ta with
      | .m _ => false
      | .c c => (List.range 16).any (fun r => (List.range 16).any (fun j => accBadAt v c.toNat r j))
    if bad then ([], true)
    else (tileWritesOf v td (fun r => packRow w (fun j => trnElem v ta dir rot.toNat w (j / 16) r (j % 16))), false)
  | .tdec _ _ md ma =>
    ((List.range 16).map (fun r => .mrow md.toNat r
      (packRow 8 (fun j => canonE4m3 (lq2Byte (tvEng v).cb (rowElem (tvRow v ma.toNat r) 16 (j / 8)) (j % 8))))), false)
  | .cbld _ =>
    if tvBad v o.xa.toNat 2048 then ([], true)
    else ([.cb ((List.range 2048).map (fun i => tvByte v (o.xa.toNat + i)))], false)
  | .fmtw _ e =>
    if tvBad v o.xa.toNat 32 then ([], true) else ([.fmtt e.toNat (BitVec.ofNat 256 (tvNat v o.xa.toNat 32))], false)
  | _ => ([], false)

/-- Cycles from begin to completion of a tile-class instruction. -/
def tileCycles (o : TOp) : Nat :=
  match o.ins with
  | .mma .. => 80
  | .mmag .. => if macPasses o = 0 then 2 else 16 + 64 * macPasses o
  | .tzero _ => 4
  | .ttrn .. => 16
  | .tdec .. => 8
  | .cbld _ => 64
  | .fmtw _ _ => 4
  | _ => 2

end Sys2Proof.Machine
end

