-- ==== Sys2Proof/Machine/Join.lean ====
section
/-! DEFINITION. The keyed table and its spill ring, the join unit's formation of products, and the results of the
join-class instructions (06 R161–R169; 07 R174–R182). -/

namespace Sys2Proof.Machine

/-! The table of one engine for the team that runs (R163). Slot n of the team stands under key 8192 · (admission
slot) + n. -/

def ktN (E : Engine) (W : Win) : Nat := cfgN W.acc E.cfgA
def ktP (E : Engine) : Nat := cfgP E.cfgA
def slotAt (H : EngineHw) (W : Win) (n : Nat) : Option KSlot := spFind H.slots (8192 * W.slot + n)
/-- The accumulator entry that holds slot n of the table: the keyed part follows the dense steps (DEDUCED, log entry 24). -/
def slotEntry (E : Engine) (W : Win) (n : Nat) : Nat := (W.accBase + cfgDense E.cfgA) * 512 + n
def slotBad (E : Engine) (H : EngineHw) (W : Win) (n : Nat) : Bool := H.accBad.contains (slotEntry E W n)
def putSlot (W : Win) (n : Nat) (k : KSlot) (H : EngineHw) : EngineHw := { H with slots := spPut H.slots (8192 * W.slot + n) k }
/-- Every slot of the team becomes empty. DESIGN CHOICE (log entry 128): a poison mark of a slot's entry stays. -/
def emptyTable (W : Win) (H : EngineHw) : EngineHw := { H with slots := spClear H.slots (8192 * W.slot) 8192 }
/-- Occupied slots: slot, key, value. -/
def occupied (H : EngineHw) (W : Win) : List (Nat × Word × Word) :=
  (H.slots.filter (fun p => p.1 / 8192 == W.slot)).filterMap (fun p => match p.2 with
    | .occ k v => some (p.1 % 8192, k, v)
    | .vacated => none)

/-- Where an entry goes (R163). -/
inductive Place where
  | hit (slot : Nat) (old : Word) | at (slot : Nat) | ring
  deriving DecidableEq, Repr
def probeFrom (H : EngineHw) (W : Win) (N h : Nat) (key : Word) (vac : Option Nat) : List Nat → Place
  | [] => match vac with | some s => .at s | none => .ring
  | n :: r =>
    let s := (h + n) % N
    match slotAt H W s with
    | none => match vac with | some x => .at x | none => .at s
    | some .vacated => probeFrom H W N h key (match vac with | some x => some x | none => some s) r
    | some (.occ k v) => if k = key then .hit s v else probeFrom H W N h key vac r
def probe (E : Engine) (H : EngineHw) (W : Win) (key : Word) : Place :=
  let N := ktN E W
  probeFrom H W N (hashKey key N) key none (List.range (min (ktP E) N))
/-- A probe window holds a poisoned slot. -/
def probeBad (E : Engine) (H : EngineHw) (W : Win) (key : Word) : Bool :=
  let N := ktN E W
  (List.range (min (ktP E) N)).any (fun n => slotBad E H W ((hashKey key N + n) % N))

def keyedRound (v : FVal) : Word := flushKeepSign (round32 .rne v)
def keyedAdd (old : Word) (v : FVal) : Word := flushKeepSign (round32 .rne (FVal.add .rne (f32v old) v))

/-! The spill ring (R179). -/

def ringPut (W : Win) (key v : Word) (E : Engine) (H : EngineHw) : Engine × EngineHw :=
  let a := ringBase E + 8 * E.ringTail
  ({ E with ringTail := (E.ringTail + 1) % ringLen E, spillCount := E.spillCount + 1 },
   spadPutBytes H W a (leBytes 4 key.toNat ++ leBytes 4 v.toNat))

inductive Placed where | placed | spilled | refused
  deriving DecidableEq, Repr
/-- Place an entry; `raw` is the value as written where one is given (AWR), else the exact value is rounded. -/
def placeEntry (W : Win) (key : Word) (v : FVal) (E : Engine) (H : EngineHw) : Placed × Engine × EngineHw :=
  match probe E H W key with
  | .hit s old => (.placed, E, putSlot W s (.occ key (keyedAdd old v)) H)
  | .at s => (.placed, E, putSlot W s (.occ key (keyedRound v)) H)
  | .ring =>
    if E.spillCount < ringLen E then
      let r := ringPut W key (keyedRound v) E H
      (.spilled, r.1, r.2)
    else (.refused, E, H)

/-- The relative key of a row and a column (R163). -/
def relKey (E : Engine) (i j : Nat) : Word :=
  BitVec.ofNat 32 ((i + 65536 - E.row0.toNat) % 65536 * 65536 + (j + 65536 - E.col0.toNat) % 65536)

/-! Forming products and reading tuples (R164–R166, 07 R176–R178). -/

/-- The coordinate word and the value word of the tuple at an address; where a byte of it lies beyond the window, an end
marker (15 R353). -/
def tupleAt (v : TView) (a : Nat) : Word × Word :=
  if v.W.len < a + 8 then (0xFFFFFFFF, 0) else (BitVec.ofNat 32 (tvNat v a 4), BitVec.ofNat 32 (tvNat v (a + 4) 4))
def tupleBad (v : TView) (a : Nat) : Bool := decide (a + 8 ≤ v.W.len) && tvBad v a 8
def tcol (w : Word) : Nat := coordOf false w
def trow (w : Word) : Nat := coordOf true w
/-- Consecutive tuples from an address whose column (or row) is k. -/
def extent (v : TView) (row : Bool) (k : Nat) : Nat → Nat → Nat
  | 0, _ => 0
  | fuel + 1, a =>
    if v.W.len < a + 8 then 0
    else if coordOf row (tupleAt v a).1 = k then 1 + extent v row k fuel (a + 8) else 0
/-- One of the first n + 1 tuples from an address, those of a group and the one after them, is poisoned. -/
def tuplesBad (v : TView) (n a : Nat) : Bool := (List.range (n + 1)).any (fun i => tupleBad v (a + 8 * i))
def tval (f : Fmt) (w : Word) : FVal := fmtVal f (w.toNat % 2 ^ f.width)

def keyBank (E : Engine) (W : Win) (key : Word) : Nat := hashKey key (ktN E W) % 16
/-- Room for one more placement in its bank's queue of 8. -/
def bankRoomFor (E : Engine) (W : Win) (j : JoinRun) (key : Word) : Bool :=
  decide ((j.pend.filter (fun p => keyBank E W p.key == keyBank E W key)).length < 8)
/-- Placements that can be in flight: 8 in each bank's queue (07 R175; 21 R422). -/
def maxPend : Nat := 128
/-- Whether the join unit, about to send a product, sends one at a time: from where the ring has no room for one more placement in
flight until it has room again for all that can be (07 R178). -/
def singly (E : Engine) (j : JoinRun) : JoinRun :=
  let free := ringLen E - E.spillCount
  { j with single := if j.single then decide (free < maxPend) else decide (free < j.pend.length + 1) }
/-- One sent alone follows the one before it by 4 cycles at least, and that one has placed, spilled or been refused. -/
def mayForm (E : Engine) (W : Win) (gc : Nat) (j : JoinRun) (key : Word) : Bool :=
  bankRoomFor E W j key
    && (!j.single || (j.pend.isEmpty && (match j.sent with | some c => decide (c + 4 ≤ gc) | none => true)))
/-- A placement formed in gang cycle gc reaches its bank in the next one (07 R176). -/
def sendPend (gc : Nat) (key : Word) (num : Nat) (v : FVal) (j : JoinRun) : JoinRun :=
  { j with pend := j.pend ++ [⟨key, num, v, gc + 1⟩], sent := some gc }
def finishRun (gc code : Nat) (j : JoinRun) : JoinRun := { j with finished := true, code := code, last := max j.last gc }

/-- One move of the join unit: a product formed (the flag), a cursor advanced, a group opened or closed, or nothing but the
note of how products are sent. -/
inductive Form where
  | go (product : Bool) (j : JoinRun) | stay (j : JoinRun) | bad
  deriving Repr
/-- A move of JOIN in gang cycle gc: a cursor advance takes 1 cycle, the extent of a group ⌈max(ga, gb) / 4⌉ (R176). -/
def formJoin (v : TView) (gc : Nat) (j : JoinRun) : Form :=
  let E := tvEng v
  let o := v.o
  if j.ga ≠ 0 then
    if j.next < j.ga * j.gb then
      let ua := j.a + 8 * (j.next / j.gb)
      let wb := j.b + 8 * (j.next % j.gb)
      if tupleBad v ua || tupleBad v wb then .bad
      else
        let key := relKey E (trow (tupleAt v ua).1) (tcol (tupleAt v wb).1)
        let j := singly E j
        if mayForm E v.W gc j key then
          .go true { sendPend gc key j.next ((tval o.fa (tupleAt v ua).2).mul (tval o.fb (tupleAt v wb).2)) j with next := j.next + 1 }
        else .stay j
    else if j.pend.isEmpty then .go false { j with a := j.a + 8 * j.ga, b := j.b + 8 * j.gb, ga := 0, gb := 0, next := 0 }
    else .stay j
  else if tupleBad v j.a || tupleBad v j.b then .bad
  else
    let ka := tcol (tupleAt v j.a).1
    let kb := trow (tupleAt v j.b).1
    if ka = 0xFFFF ∨ kb = 0xFFFF then .go false { finishRun gc 0 j with next := 0 }
    else if ka < kb then .go false { j with a := j.a + 8, ready := gc + 1 }
    else if kb < ka then .go false { j with b := j.b + 8, ready := gc + 1 }
    else
      let ga := extent v false ka 16385 j.a
      let gb := extent v true kb 16385 j.b
      if tuplesBad v ga j.a || tuplesBad v gb j.b then .bad else
      .go false { j with ga := ga, gb := gb, ready := gc + (max ga gb + 3) / 4 }
def formJins (v : TView) (gc : Nat) (j : JoinRun) : Form :=
  let E := tvEng v
  if tupleBad v j.a then .bad
  else
    let t := tupleAt v j.a
    if trow t.1 = 0xFFFF then (if j.pend.isEmpty then .go false (finishRun gc 0 j) else .stay j)
    else
      let key := relKey E (trow t.1) (tcol t.1)
      let j := singly E j
      if mayForm E v.W gc j key then .go true { sendPend gc key j.a (tval v.o.fa t.2) j with a := j.a + 8 } else .stay j

/-- The moves of one gang cycle, with at most `quota` products formed or tuples read. -/
def formLoop (f : JoinRun → Form) (gc : Nat) : Nat → Nat → JoinRun → JoinRun × Bool
  | 0, _, j => (j, false)
  | fuel + 1, quota, j =>
    if j.finished || decide (gc < j.ready) || (j.resumed && !j.pend.isEmpty) then (j, false)
    else match f { j with resumed := false } with
      | .go true j' => if quota = 0 then (j, false) else formLoop f gc fuel (quota - 1) j'
      | .go false j' => formLoop f gc fuel quota j'
      | .stay j' => ({ j with single := j'.single }, false)
      | .bad => (j, true)
/-- A run begins. DEDUCED (log entry 78): R176 gives ASPL a begin of 4 cycles and a finish of 3, and R182 gives it 4 + m in
all; its first entry is read 1 cycle after its begin, so that R182 holds. -/
def joinStart (o : TOp) (gc : Nat) : JoinRun :=
  { a := o.xa.toNat, b := o.xb.toNat, ga := 0, gb := 0,
    next := (match o.ins with | .join .. => o.xc.toNat | _ => 0), total := 0, pend := [], refused := none, finished := false, code := 0
    ready := (match o.ins with | .aspl _ => gc + 1 | _ => gc + 4), last := gc, banks := [], spilt := false,
    single := false, sent := none, resumed := false }

/-- ASPL takes the entry at the ring head (R166). -/
def asplTake (W : Win) (gc : Nat) (j : JoinRun) (E : Engine) (H : EngineHw) : JoinRun × Engine × EngineHw :=
  if j.next < j.total then
    let a := ringBase E + 8 * E.ringHead
    let key := spadWord H W a
    let v := spadWord H W (a + 4)
    ({ j with next := j.next + 1, pend := j.pend ++ [⟨key, j.next, f32v v, gc + 1⟩], ready := gc + 1 },
     { E with ringHead := (E.ringHead + 1) % ringLen E, spillCount := E.spillCount - 1 }, H)
  else (j, E, H)
def asplFull (E : Engine) (W : Win) (j : JoinRun) : Bool :=
  (List.range 16).any (fun b => decide (8 ≤ (j.pend.filter (fun p => keyBank E W p.key == b)).length))
/-- One ring entry per gang cycle (R176); done once all of them are placed. -/
def asplMove (W : Win) (gc : Nat) (j : JoinRun) (E : Engine) (H : EngineHw) : JoinRun × Engine × EngineHw :=
  if gc < j.ready || (j.resumed && !j.pend.isEmpty) then (j, E, H)
  else if j.next < j.total then (if asplFull E W j then (j, E, H) else asplTake W gc { j with resumed := false } E H)
  else (if j.pend.isEmpty && !j.finished then finishRun gc 0 j else j, E, H)
/-- The entry that ASPL takes next is poisoned (08 R211). -/
def asplBad (W : Win) (gc : Nat) (j : JoinRun) (E : Engine) (H : EngineHw) : Bool :=
  decide (j.ready ≤ gc) && !j.finished && !(j.resumed && !j.pend.isEmpty) && decide (j.next < j.total) && !asplFull E W j
    && spadBadIn H W (ringBase E + 8 * E.ringHead) 8

/-! Drain and fold (R167, R168, R180, R182, R183). -/

/-- Occupied entries in ascending unsigned order of the relative key. -/
def insertKey (x : Nat × Word × Word) : List (Nat × Word × Word) → List (Nat × Word × Word)
  | [] => [x]
  | y :: r => if x.2.1.toNat ≤ y.2.1.toNat then x :: y :: r else y :: insertKey x r
def sortKeys (l : List (Nat × Word × Word)) : List (Nat × Word × Word) := l.foldr insertKey []
def keyRow (k : Word) : Nat := nbits k.toNat 31 16
def keyCol (k : Word) : Nat := nbits k.toNat 15 0

def drained (H : EngineHw) (W : Win) (lay : Layout) (xb : Word) : List (Nat × Word × Word) :=
  sortKeys ((occupied H W).filter (fun x => lay == .tup
    || (decide (keyRow x.2.1 < nbits xb.toNat 31 16) && decide (keyCol x.2.1 < nbits xb.toNat 15 0))))
def adrnOffset (lay : Layout) (nr nc r c w : Nat) : Nat :=
  (match lay with
   | .cm => c * nr + r
   | .blk => 256 * (r / 16 * (nc / 16) + c / 16) + 16 * (r % 16) + c % 16
   | _ => r * nc + c) * w
/-- Bytes an ADRN writes, from its lowest address on. -/
def adrnImage (E : Engine) (lay : Layout) (f : Fmt) (xb : Word) (es : List (Nat × Word × Word)) : List Byte :=
  match lay with
  | .tup => es.flatMap (fun x =>
      leBytes 4 ((keyRow x.2.1 + E.row0.toNat) % 65536 * 65536 + (keyCol x.2.1 + E.col0.toNat) % 65536)
        ++ leBytes 4 (convert f .rne false (f32v x.2.2))) ++ leBytes 4 0xFFFFFFFF ++ leBytes 4 0
  | _ =>
    let nr := nbits xb.toNat 31 16
    let nc := nbits xb.toNat 15 0
    let w := elemBytes f
    let at' (k : Nat) : Nat := match es.find? (fun x => adrnOffset lay nr nc (keyRow x.2.1) (keyCol x.2.1) 1 == k) with
      | some x => convert f .rne false (f32v x.2.2)
      | none => 0
    (List.range (nr * nc)).flatMap (fun k => leBytes w (at' k))
def inFold (xa k : Word) : Bool :=
  let r := keyRow k
  let c := keyCol k
  let r0 := nbits xa.toNat 31 16
  let c0 := nbits xa.toNat 15 0
  decide (r0 ≤ r) && decide (r < r0 + 16) && decide (c0 ≤ c) && decide (c < c0 + 16)

/-- The value ARD returns (R169). -/
def ardValue (E : Engine) (H : EngineHw) (W : Win) (sel : ArdSel) (xa : Word) : Word :=
  match sel with
  | .key _ => match probe E H W xa with
    | .hit _ v => v
    | _ => 0xFFFFFFFF
  | .st => BitVec.ofNat 32 (E.spillCount * 65536 + (if E.spillFull then 1 else 0))
  | .occ => BitVec.ofNat 32 (occupied H W).length
  | .cfg => E.cfgA
  | .spl => E.cfgB
  | .org => E.row0 ++ E.col0
  | .sres => E.sres
  | .sover => if E.sover then 1 else 0

def ardBad (E : Engine) (H : EngineHw) (W : Win) (sel : ArdSel) (xa : Word) : Bool :=
  match sel with
  | .key _ => probeBad E H W xa
  | .occ => (List.range (ktN E W)).any (slotBad E H W)
  | _ => false
def tableBad (E : Engine) (H : EngineHw) (W : Win) : Bool := (occupied H W).any (fun x => slotBad E H W x.1)

/-- Results of a join-class instruction other than JOIN, JINS and ASPL, and whether it met poison. -/
def joinResult (v : TView) : List TWr × Bool :=
  let E := tvEng v
  let H := tvHw v
  let W := v.W
  let o := v.o
  match o.ins with
  | .acfg _ _ =>
    let old := cfgDense E.cfgA
    let new := cfgDense o.xa
    (.config o.xa o.xb :: ((List.range ((new - old) * 1024)).map (fun i => .acc ((W.accBase + old) * 1024 + i) 0)), false)
  | .aclr => ([.clearKeyed], false)
  | .adrn lay _ xd _ _ =>
    if tableBad E H W then ([], true)
    else
      let es := drained H W lay o.xb
      ([.spad o.xa.toNat (adrnImage E lay o.fa o.xb es), .vacate (es.map (·.1)), .x xd.toNat (BitVec.ofNat 32 es.length)], false)
  | .afold c _ =>
    let es := sortKeys ((occupied H W).filter (fun x => inFold o.xa x.2.1))
    let r (x : Nat × Word × Word) : Nat := keyRow x.2.1 - nbits o.xa.toNat 31 16
    let q (x : Nat × Word × Word) : Nat := keyCol x.2.1 - nbits o.xa.toNat 15 0
    let good := es.filter (fun x => !(slotBad E H W x.1) && !(accBadAt v c.toNat (r x) (q x)))
    (good.map (fun x => .acc (accIndex W c.toNat (r x) (q x)) (keyedAdd (tvAcc v c.toNat (r x) (q x)) (f32v x.2.2)))
      ++ [.vacate (good.map (·.1))], good.length != es.length || tableBad E H W)
  | .ard sel xd => if ardBad E H W sel o.xa then ([], true) else ([.x xd.toNat (ardValue E H W sel o.xa)], false)
  | .awr sel =>
    (match sel with
     | .key _ _ =>
       if probeBad E H W o.xa then ([], true)
       else (match probe E H W o.xa with
        | .hit n _ => ([.slot n o.xa o.xb], false)
        | .at n => ([.slot n o.xa o.xb], false)
        | .ring => if E.spillCount < ringLen E then ([.spill o.xa o.xb], false) else ([.spillFull true], false))
     | .st _ => ([.spillFull (o.xa.getLsbD 0)], false)
     | .org _ => ([.origin o.xa], false)
     | .sres _ => ([.sres o.xa], false)
     | .sover _ => ([.sover (o.xa.getLsbD 0)], false))
  | _ => ([], false)

/-- Cycles from begin to completion of these instructions (R161, R162, R169, 07 R182). -/
def joinCycles (v : TView) : Nat :=
  let N := ktN (tvEng v) v.W
  match v.o.ins with
  | .acfg _ _ => 2
  | .aclr => max 2 (N / 16)
  | .adrn lay _ _ _ _ =>
    let b := match lay with
      | .tup => 8 * ((drained (tvHw v) v.W lay v.o.xb).length + 1)
      | _ => adrnBytes lay v.o.fa N v.o.xb
    8 + N / 16 + (b + 63) / 64
  | .afold _ _ => 4 + N / 16
  | _ => 4

end Sys2Proof.Machine
end

