-- ==== Sys2Proof/Machine/Sage.lean ====
section
/-! DEFINITION. PRED and PCHK: scores, bounds, and the rows they queue (06 R170–R173; 07 R184–R187). -/

namespace Sys2Proof.Machine

/-- What a Sage instruction produces: its writes, the indices it queues, each with the gang cycle it is ready in, the
gang cycle of its completion without waits, and its progress. -/
structure SageOut where
  wrs : List TWr
  rows : List (Nat × Word)
  done : Nat
  run : Option SageRun
  deriving Repr

def ceilDiv (a b : Nat) : Nat := (a + b - 1) / b
/-- A nibble of packed H4 values. -/
def tvNib (v : TView) (a t : Nat) : Nat := (tvByte v (a + t / 2)).toNat / 16 ^ (t % 2) % 16
/-- Activation t of the descriptor's x. -/
def sgAct (v : TView) (d t : Nat) : FVal := fmtVal v.o.fa (tvNat v (sgX d + t * elemBytes v.o.fa) (elemBytes v.o.fa))
def theta (o : TOp) : Word := BitVec.ofNat 32 (entBits o.ea 223 192)
def tau (o : TOp) : Word := BitVec.ofNat 32 (entBits o.ea 191 160)
def budgetE (o : TOp) : Word := BitVec.ofNat 32 (entBits o.ea 255 224)
def indexOf (d i : Nat) : Word := BitVec.ofNat 32 (sgBase d + i)

/-! PRED (R171). -/

def qCol (v : TView) (d c t : Nat) : FVal :=
  (fmtVal .h4 (tvNib v (sgQ d + c * sgD d / 2) t)).mul (e8Val (tvByte v (sgQs d + c * (sgD d / 32) + t / 32)))
def rRow (v : TView) (d i c : Nat) : FVal :=
  (fmtVal .h4 (tvNib v (sgR d + i * sgRk d / 2) c)).mul (e8Val (tvByte v (sgRs d + i * (sgRk d / 32) + c / 32)))
def predY (v : TView) (d c : Nat) : Word := dotMac ((List.range (sgD d)).map (fun t => (sgAct v d t).mul (qCol v d c t)))
def predScore (v : TView) (d : Nat) (ys : List Word) (i : Nat) : Word :=
  dotMac (ys.zipIdx.map (fun y => (f32v y.1).mul (rRow v d i y.2)))
/-- The data that y[c] needs, that the score of row i needs besides, and that bound i needs, meet poison (08 R211). -/
def colBad (v : TView) (d c : Nat) : Bool :=
  tvBad v (sgX d) (sgD d * elemBytes v.o.fa) || tvBad v (sgQ d + c * sgD d / 2) (sgD d / 2) || tvBad v (sgQs d + c * (sgD d / 32)) (sgD d / 32)
def scoreBad (v : TView) (d i : Nat) : Bool :=
  tvBad v (sgR d + i * sgRk d / 2) (sgRk d / 2) || tvBad v (sgRs d + i * (sgRk d / 32)) (sgRk d / 32)
def boundBad (v : TView) (d i : Nat) : Bool := tvBad v (sgQ d + i * (sgD d / 64)) (sgD d / 64) || tvBad v (sgR d + 4 * i) 4
def blockBad (v : TView) (d b : Nat) : Bool := tvBad v (sgX d + 64 * b * elemBytes v.o.fa) (64 * elemBytes v.o.fa)

def maskBits (is : List Nat) : BitVec 4096 := BitVec.ofNat 4096 (is.foldl (fun a i => a + 2 ^ i) 0)

/-- PRED from row r0 on, n0 rows queued before it; `start` is the gang cycle of its begin, moved by its waits. It stops at the first
poisoned column of Q, or the activations, and else at the first poisoned row of Rm; the rows before that one are scored, queued and
marked, and the others' bits stay clear (21 R412; log entry 138). -/
def predFrom (v : TView) (xd : XReg) (start r0 n0 : Nat) : SageOut :=
  let d := descOf v.o.tbl
  let head := 8 + ceilDiv (sgD d * sgRk d) 256
  let at' (i : Nat) : Nat := start + head + ceilDiv ((i + 1) * sgRk d) 256
  let ahead := (List.range (sgNe d)).filter (fun i => decide (r0 ≤ i))
  let col := (List.range (sgRk d)).find? (colBad v d)
  let rows := if col.isSome then [] else ahead.takeWhile (fun i => !scoreBad v d i)
  let bad := col.isSome || rows.length != ahead.length
  let ys := (List.range (sgRk d)).map (predY v d)
  let hits := rows.filter (fun i => (f32v (tau v.o)).le (f32v (predScore v d ys i)))
  let old := (tvEng v).predMask &&& BitVec.ofNat 4096 (2 ^ r0 - 1)
  { wrs := .predMask (sgNe d) (maskBits hits ||| old) :: (if bad then [] else [.x xd.toNat (BitVec.ofNat 32 (n0 + hits.length))])
    rows := hits.map (fun i => (at' i, indexOf d i))
    done := match col with
      | some c => start + 8 + ceilDiv ((c + 1) * sgD d) 256
      | none => if bad then at' (r0 + rows.length) else start + head + ceilDiv (sgNe d * sgRk d) 256
    run := some ⟨start, [], (r0, 0, n0), rows.map (fun i => (at' i, i, 0, n0 + (hits.filter (fun j => decide (j ≤ i))).length)), bad⟩ }

/-! PCHK (R172). -/

/-- A term of u: +∞ where env is NaN, and for an infinity times a zero. -/
def envTerm (sb env : FVal) : FVal :=
  if env.isNan then .inf false
  else if (sb.isInf && env.isZero) || (sb.isZero && env.isInf) then .inf false
  else sb.mul env
/-- Any term of +∞ makes the sum +∞; infinite terms that are all −∞ make it −∞. -/
def boundSum (ts : List FVal) : Word :=
  if ts.contains (.inf false) then 0x7F800000
  else if !ts.any FVal.isNan && ts.contains (.inf true) then 0xFF800000
  else sumUp ts
def maxWith (k : Word) (u : Word) : Word := if (f32v u).isNan then u else if (f32v u).lt (f32v k) then k else u
/-- The activation's bound: ReLU, GELU (0.17 rounded up), SiLU (0.2785 rounded up). -/
def actBound (o : TOp) (u : Word) : Word :=
  match entBits o.ea 11 10 with
  | 0 => u
  | 1 => maxWith 0x3E2E147B u
  | _ => maxWith 0x3E8E978E u
def pchkSb (v : TView) (d b : Nat) : Word := sumUp ((List.range 64).map (fun t => (sgAct v d (64 * b + t)).abs))
def pchkBound (v : TView) (d : Nat) (sb : List Word) (i : Nat) : Word :=
  let u := boundSum (sb.zipIdx.map (fun b =>
    envTerm (f32v b.1) (fmtVal .e4m3 (tvByte v (sgQ d + i * (sgD d / 64) + b.2)).toNat)))
  round32 .rup ((f32v (actBound v.o u)).mul (f32v (BitVec.ofNat 32 (tvNat v (sgR d + 4 * i) 4))).abs)
/-- The rows in ascending order from gang cycle t on: each with its cycle, whether it is replayed, and res and nrep after it. -/
def pchkRows (v : TView) (d : Nat) (sb : List Word) : List Nat → Nat → Word → Nat → List (Nat × Nat × Bool × Word × Nat)
  | [], _, _, _ => []
  | i :: r, t, res, n =>
    let t := t + max 1 (ceilDiv (sgD d) 1024)
    let b := pchkBound v d sb i
    if (f32v b).isNan || (f32v (theta v.o)).lt (.fin false 0 0) || (f32v (theta v.o)).lt (f32v b) then (t, i, true, res, n + 1) :: pchkRows v d sb r t res (n + 1)
    else let res := if res = 0x7F800000 then res else ieeeAdd .rup res b; (t, i, false, res, n) :: pchkRows v d sb r t res n
/-- PCHK from row r0 on with res and nrep as they stood before it. It stops at the first block of activations that is poisoned, and
else at the first row whose env or vmax is; the rows before that one are evaluated and queued (21 R412; log entry 138). -/
def pchkFrom (v : TView) (xd xe : XReg) (start r0 : Nat) (res0 : Word) (n0 : Nat) (sb : List Word) : SageOut :=
  let d := descOf v.o.tbl
  let step := max 1 (ceilDiv (sgD d) 1024)
  let head := 8 + sgD d / 64 + ceilDiv (sgNe d) 16
  let skipped := (List.range (sgNe d)).filter (fun i => !(tvEng v).predMask.getLsbD i)
  let before := (skipped.filter (fun i => decide (i < r0))).length
  let ahead := skipped.filter (fun i => decide (r0 ≤ i))
  let short := decide (sb.length < sgD d / 64)
  let rows := if short then [] else ahead.takeWhile (fun i => !boundBad v d i)
  let bad := short || rows.length != ahead.length
  let rs := pchkRows v d sb rows (start + head + before * step) res0 n0
  let res := (rs.getLast?.map (·.2.2.2.1)).getD res0
  let n := (rs.getLast?.map (·.2.2.2.2)).getD n0
  let isOver := (f32v (budgetE v.o)).isNan || (f32v (budgetE v.o)).lt (f32v res)
  { wrs := if bad then [] else
      [.sres res, .sover isOver, .x xd.toNat res, .x xe.toNat (BitVec.ofNat 32 ((if isOver then 2 ^ 31 else 0) + n))]
    rows := (rs.filter (fun r => r.2.2.1)).map (fun r => (r.1, indexOf d r.2.1))
    done := if short then start + 8 + sb.length + 1
      else start + head + (if bad then before + rows.length + 1 else skipped.length) * step
    run := some ⟨start, sb, (r0, res0, n0), rs.map (fun r => (r.1, r.2.1, r.2.2.2)), bad⟩ }
/-- The sb of the blocks from those at hand on, up to a poisoned one. -/
def pchkSbs (v : TView) (sb : List Word) : List Word :=
  let d := descOf v.o.tbl
  sb ++ (((List.range (sgD d / 64)).drop sb.length).takeWhile (fun b => !blockBad v d b)).map (pchkSb v d)

/-- A Sage instruction from a row on. -/
def sageFrom (v : TView) (start r0 : Nat) (res : Word) (n : Nat) (sb : List Word) : SageOut :=
  match v.o.ins with
  | .pred _ xd _ => predFrom v xd start r0 n
  | .pchk _ xd _ xe => pchkFrom v xd xe start r0 res n (pchkSbs v sb)
  | _ => ⟨[], [], start, none⟩
/-- A Sage instruction that begins in gang cycle gc. DESIGN CHOICE (log entry 127): every sb of a PCHK is summed at the begin, and so
all of them stand in the save area of one that is stopped. -/
def sageResult (v : TView) (gc : Nat) : SageOut := sageFrom v gc 0 0 0 []
/-- The row a stopped instruction has reached by gang cycle c, with res and nrep: every row before it has been evaluated
and, where it is queued, pushed (R173, R187). -/
def sageReached (o : TOp) (c : Nat) : Nat × Word × Nat :=
  match o.sage with
  | none => (0, 0, 0)
  | some q =>
    let base := sgBase (descOf o.tbl)
    let seen := q.rows.takeWhile (fun r => decide (r.1 ≤ c))
    let kept : List (Nat × Nat × Word × Nat) := match o.pushes with
      | (_, w) :: _ => seen.takeWhile (fun r => decide (base + r.2.1 < w.toNat))
      | [] => seen
    match kept.getLast? with
    | some r => (r.2.1 + 1, r.2.2)
    | none => q.init
/-- The queue a Sage instruction pushes onto: q0 for PRED, q1 for PCHK (R173). -/
def sageQueue (o : TOp) : Nat :=
  match o.ins with
  | .pchk .. => 1
  | _ => 0

end Sys2Proof.Machine
end

