-- ==== Sys2Proof/Machine/TEvents.lean ====
section
/-! DEFINITION. The progress of T instructions: begin, keyed placements, Sage pushes, completion and the fall of the
counters (06 R145–R148, R173; 07 R175–R178, R181, R187; 21 R412). -/

namespace Sys2Proof.Machine

/-! When T units work. -/

def ticking (G : Gang) : Bool :=
  G.frozen == 0 && (match G.run with
    | .run | .finishing => true
    | .stopped r => r != .halt
    | .idle | .halted => false)
/-- A gang whose T units begin and place: it runs and no stop has come. -/
def tWorks (G : Gang) : Bool := G.frozen == 0 && (G.run == .run || G.run == .finishing) && !stopping G
/-- What runs to its end when the gang stops (06 R148). -/
def endsOnStop (o : TOp) : Bool :=
  tClass o.ins == .tile || (match o.ins with | .acfg .. | .ard .. => true | _ => false)
/-- What may complete now: all of a running gang's, the first group of a stopped gang's. -/
def tMayEnd (G : Gang) (o : TOp) : Bool :=
  tWorks G || (ticking G && o.begun && endsOnStop o)

def findOp (G : Gang) (e id : Nat) : Option TOp := G.tops.find? (fun o => o.eng == e && o.id == id)
def setOp (s : State) (g e id : Nat) (f : TOp → TOp) : State :=
  modGang s g (fun G => { G with tops := G.tops.map (fun o => if o.eng == e && o.id == id then f o else o) })
def viewOf (s : State) (g : Nat) (o : TOp) (n : Nat) : TView := ⟨getGang s g, gangWin s g, o, n⟩
def isPlacing : Instr → Bool
  | .join .. | .jins .. | .aspl .. => true
  | _ => false

/-- The deferred cause of a T instruction that met poison (R412). -/
def deferT (s : State) (g : Nat) (o : TOp) : State :=
  deferCause s g { cause := 0x0F, va := 0, pc := o.pc, emask := maskOf [o.eng], code := 0, opc := opcodeOf o.ins,
                   slot := 4, deferred := true, path := o.path, src := some o.id }

/-! JOIN, JINS and ASPL. -/

/-- What the join unit does in this gang cycle, forming at most `quota` products. A run that is finished and has placed
everything completes 3 cycles after its last placement (07 R176). A run that met poison stops there. -/
def advanceRun (s : State) (g e id n quota : Nat) : State :=
  match findOp (getGang s g) e id with
  | none => s
  | some o =>
    match o.join with
    | none => s
    | some j =>
      let v := viewOf s g o n
      let gc := v.G.gc
      let put (j : JoinRun) (s : State) : State :=
        setOp s g e id (fun o => { o with
          join := some j
          done := if j.finished && j.pend.isEmpty then (match o.done with | some d => some d | none => some (j.last + 3)) else none })
      let formed (r : JoinRun × Bool) : State :=
        if r.2 then deferT (setOp (put { finishRun gc 0 r.1 with pend := [] } s) g e id (fun o => { o with out := some [] })) g o
        else put r.1 s
      match o.ins with
      | .aspl _ =>
        if asplBad v.W gc j (tvEng v) (tvHw v) then formed (j, true) else
        let r := asplMove v.W gc j (tvEng v) (tvHw v)
        put r.1 (modGang s g (fun G => modHw (setEng G e r.2.1) e (fun _ => r.2.2)))
      | .join .. => formed (formLoop (formJoin v gc) gc 40 quota j)
      | _ => formed (formLoop (formJins v gc) gc 40 quota j)
/-- Products formed, or tuples read, in one cycle (R176). -/
def formQuota : Instr → Nat
  | .join .. => 32
  | _ => 16
/-- A new gang cycle: the table banks and the ring are free again, and the runs in progress move on. -/
def stepRuns (s : State) (g : Nat) : State :=
  ((getGang s g).tops.filter (fun o => o.begun && o.join.isSome)).foldl (fun s o =>
    let (n, s) := drawFree s
    advanceRun (setOp s g o.eng o.id (fun o => { o with join := o.join.map (fun j => { j with banks := [], spilt := false }) }))
      g o.eng o.id n (formQuota o.ins)) s

/-- The placement a bank performs next: the first in product order, which is the order of arrival (07 R175, R177; log entry 20). -/
def bankPend (v : TView) (j : JoinRun) (bank : Nat) : Option Pend :=
  j.pend.find? (fun p => keyBank (tvEng v) v.W p.key == bank)
def placingOp (G : Gang) (e : Nat) : Option TOp :=
  G.tops.find? (fun o => o.eng == e && o.begun && (match o.join with | some _ => true | none => false))
/-- A bank that has served no placement in this gang cycle may serve its first one; of those that go to the ring one in
a cycle does (07 R175, R176). When it does so, the scrub and the streams' own accesses decide. -/
def placeReady (s : State) (g e bank : Nat) : Bool :=
  let G := getGang s g
  tWorks G && (match placingOp G e with
    | some o => (match o.join with
        | some j =>
          let v := viewOf s g o 0
          !j.banks.contains bank && (match bankPend v j bank with
            | some p => decide (p.ready ≤ G.gc) && !(j.spilt && (probe (tvEng v) (tvHw v) v.W p.key == .ring))
            | none => false)
        | none => false)
    | none => false)
/-- What a refused placement leaves (R164–R166): JOIN stops at the group start with the product number, JINS at the
tuple, and ASPL puts the entry back at the ring's tail. -/
def refuse (o : TOp) (gc : Nat) (p : Pend) (j : JoinRun) (W : Win) (E : Engine) (H : EngineHw) : JoinRun × Engine × EngineHw :=
  match o.ins with
  | .aspl _ => let r := ringPut W p.key (keyedRound p.v) E H; (j, r.1, r.2)
  | .join .. => ({ finishRun gc 1 j with refused := some p.num, pend := [] }, { E with spillFull := true }, H)
  | _ => ({ finishRun gc 1 j with a := p.num, pend := [] }, { E with spillFull := true }, H)
/-- A ring entry written as ordinary scratchpad words: the T instructions that wait for it see it (06 R146, 07 R179). -/
def ringSnap (W : Win) (e a : Nat) (key v : Word) (G : Gang) : Gang :=
  { G with tops := G.tops.map (fun o => if o.eng == e then
      { o with snapSpad := spSetList 0 o.snapSpad (W.base + a) (leBytes 4 key.toNat ++ leBytes 4 v.toNat) } else o) }
/-- A table bank serves its first placement. -/
def execKeyedPlacement (g e bank : Nat) (s : State) : Outcome :=
  .next (if placeReady s g e bank then
    (match placingOp (getGang s g) e with
     | none => s
     | some o =>
       match o.join with
       | none => s
       | some j =>
         let (n, s) := drawFree s
         let v := viewOf s g o n
         let gc := v.G.gc
         match bankPend v j bank with
         | none => s
         | some p =>
           let E := tvEng v
           let H := tvHw v
           let j := { j with pend := j.pend.erase p, banks := bank :: j.banks, last := max j.last gc }
           let put (j : JoinRun) (E : Engine) (H : EngineHw) (s : State) : State :=
             setOp (modGang s g (fun G => modHw (setEng G e E) e (fun _ => H))) g e o.id (fun o => { o with join := some j })
           let ring (s : State) : State :=
             modGang s g (ringSnap v.W e (ringBase E + 8 * E.ringTail) p.key (keyedRound p.v))
           if probeBad E H v.W p.key then
             deferT (setOp (put { finishRun gc 0 j with pend := [] } E H s) g e o.id
               (fun o => { o with out := some [], done := some (gc + 3) })) g o
           else
             let r := placeEntry v.W p.key p.v E H
             match r.1 with
             | .refused =>
               let q := refuse o gc p j v.W E H
               let s := put q.1 q.2.1 q.2.2 s
               advanceRun (if q.2.1.spillCount != E.spillCount then ring s else s) g e o.id n 0
             | .spilled => advanceRun (ring (put { j with spilt := true } r.2.1 r.2.2 s)) g e o.id n 0
             | .placed => advanceRun (put j r.2.1 r.2.2 s) g e o.id n 0) else s)

/-- The scrub reads the gang's scratchpads and accumulator files in its reserved cycles; a good read changes
nothing, an error found is an event of its own (07 R175, 08 R208). -/
def execPatrolScrub (_g : Nat) (s : State) : Outcome := .next s

/-! Begin. -/

def beginReady (s : State) (g e id : Nat) : Bool :=
  let G := getGang s g
  tWorks G && (match findOp G e id with | some o => canBegin G (gangWin s g).len o | none => false)
def beginOp (s : State) (g e id : Nat) : State :=
  match findOp (getGang s g) e id with
  | none => s
  | some o =>
    let (n, s) := drawFree s
    let v := viewOf s g o n
    let gc := v.G.gc
    match tClass o.ins with
    | .tile => setOp s g e id (fun o => { o with begun := true, done := some (gc + tileCycles o) })
    | .pred =>
      let r := sageResult v gc
      setOp s g e id (fun o => { o with begun := true, done := some r.done, out := some r.wrs, pushes := r.rows, sage := r.run })
    | .join =>
      (match o.ins with
       | .join .. | .jins .. =>
         let s := modGang s g (fun G => modEng G e (fun E => { E with spillFull := false }))
         setOp s g e id (fun o => { o with begun := true, join := some (joinStart o gc) })
       | .aspl _ =>
         setOp s g e id (fun o => { o with begun := true, join := some { joinStart o gc with total := (tvEng v).spillCount } })
       | _ => setOp s g e id (fun o => { o with begun := true, done := some (gc + joinCycles v) }))
def execTInstrBegin (g e id : Nat) (s : State) : Outcome := .next (if beginReady s g e id then beginOp s g e id else s)

/-! Sage pushes (R173). -/

/-- Entries a queue holds as its producers see it: a pop of this gang cycle frees its entry for the next one (02 R52). -/
def qLoad (G : Gang) (e k : Nat) : Nat := (qOf (getEng G e) k).length + (if G.popped.contains (k, e) then 1 else 0)
/-- An operation may push in this gang cycle: it has not pushed in it yet, or it is its completion cycle. -/
def pushTurn (G : Gang) (o : TOp) : Bool :=
  decide (o.pushAt ≤ G.gc) || (match o.done with | some d => decide (d ≤ G.gc) | none => false)
/-- An index is pushed once it is ready, one a cycle while rows are scored, those that remain in the completion cycle
(DEDUCED from R187 and 18 R378's example, log entry 36). -/
def pushReady (s : State) (g e : Nat) (o : TOp) : Bool :=
  let G := getGang s g
  o.eng == e && o.begun && tWorks G && (match o.pushes with
    | (c, _) :: _ => decide (c ≤ G.gc) && pushTurn G o && decide (qLoad G e (sageQueue o) < 256)
    | [] => false)
/-- A ready index is pushed. -/
def execSageQueuePush (g e : Nat) (s : State) : Outcome :=
  .next (match (getGang s g).tops.find? (pushReady s g e) with
    | some o =>
      (match o.pushes with
       | (_, w) :: r =>
         let k := sageQueue o
         modGang (setOp s g e o.id (fun o => { o with pushes := r, pushAt := (getGang s g).gc + 1 })) g
           (fun G => modEng G e (fun E => setQ k (qOf E k ++ [w]) E))
       | [] => s)
    | none => s)
/-- A push that found its queue full waits, and everything after it moves by the cycle (R187); once the gang is
finishing, the pushes not made are dropped instead (14 R325). -/
def delayPushes (G : Gang) : Gang :=
  { G with tops := G.tops.map (fun o => match o.pushes with
      | (c, w) :: r =>
        if o.begun && decide (c ≤ G.gc) && pushTurn G o && decide (256 ≤ qLoad G o.eng (sageQueue o)) then
          (if G.run = .finishing then { o with pushes := [], done := o.done.map (fun d => max d (G.gc + 1)) }
           else { o with pushes := (c, w) :: r.map (fun p => (p.1 + 1, p.2)), done := o.done.map (· + 1)
                         sage := o.sage.map (fun q => { q with start := q.start + 1
                                                               rows := q.rows.map (fun x => if G.gc < x.1 then (x.1 + 1, x.2) else x) }) })
        else o
      | [] => o) }

/-! Completion. -/

/-- One write of a completed operation, which the later operations of the engine see as well. -/
def applyTWr (W : Win) (e : Nat) (w : TWr) (G : Gang) : Gang :=
  let snap (f : TOp → TOp) (G : Gang) : Gang := { G with tops := G.tops.map (fun o => if o.eng == e then f o else o) }
  let onEng (f : Engine → Engine) : Gang := modEng G e f
  match w with
  | .x r v => healReg e (.x e r) (modEng G e (setXE r v))
  | .mrow m r v => snap (fun o => { o with snapM := spSet 0 o.snapM (16 * m + r) v }) (modEng G e (setMRow m r v))
  | .acc k v => snap (fun o => { o with snapAcc := spSet 0 o.snapAcc k v }) (modHw G e (fun H => accPut H [(k, v)]))
  | .cb bs => onEng (fun E => { E with cb := spSetList 0 E.cb 0 bs })
  | .fmtt k v => onEng (fun E => { E with fmtt := spSet 0 E.fmtt k v })
  | .spad a bs => snap (fun o => { o with snapSpad := spSetList 0 o.snapSpad (W.base + a) bs }) (modHw G e (fun H => spadPutBytes H W a bs))
  | .clearKeyed =>
    modHw (modEng G e (fun E => { E with ringHead := 0, ringTail := 0, spillCount := 0, spillFull := false })) e (emptyTable W)
  | .config xa xb =>
    modHw (modEng G e (fun E => { E with cfgA := xa, cfgB := xb, ringHead := 0, ringTail := 0, spillCount := 0, spillFull := false }))
      e (emptyTable W)
  | .vacate ns => modHw G e (fun H =>
      let H := ns.foldl (fun H n => putSlot W n .vacated H) H
      if (occupied H W).isEmpty then emptyTable W H else H)
  | .slot n key v => modHw G e (putSlot W n (.occ key v))
  | .spill key v =>
    let E := getEng G e
    let r := ringPut W key v E (getHw G e)
    ringSnap W e (ringBase E + 8 * E.ringTail) key v (modHw (setEng G e r.1) e (fun _ => r.2))
  | .spillFull b => onEng (fun E => { E with spillFull := b })
  | .origin v => onEng (fun E => { E with row0 := v.extractLsb' 16 16, col0 := v.extractLsb' 0 16 })
  | .sres v => onEng (fun E => { E with sres := v })
  | .sover b => onEng (fun E => { E with sover := b })
  | .predMask ne v => onEng (fun E =>
      { E with predMask := (E.predMask &&& ~~~(BitVec.ofNat 4096 (2 ^ ne - 1))) ||| v })
  | .shape v => onEng (applyShape v)

/-- Accumulator words written as one, so that a poisoned entry written whole is whole again (08 R211). -/
def applyAccs (e : Nat) (ws : List (Nat × Word)) (G : Gang) : Gang :=
  if ws.isEmpty then G
  else modHw { G with tops := G.tops.map (fun o => if o.eng == e then
      { o with snapAcc := ws.foldl (fun m w => spSet 0 m w.1 w.2) o.snapAcc } else o) } e (fun H => accPut H ws)
def accWord? : TWr → Option (Nat × Word)
  | .acc k v => some (k, v)
  | _ => none
/-- The writes of an operation: its accumulator words as one, then the others in their order. -/
def applyOut (W : Win) (e : Nat) (ws : List TWr) (G : Gang) : Gang :=
  (ws.filter (fun w => (accWord? w).isNone)).foldl (fun G w => applyTWr W e w G) (applyAccs e (ws.filterMap accWord?) G)

/-! Elements that a VTWR or an L-slot result has written since the issue (05 R135): the T result or the value that
stands, element by element. -/

/-- The value that hit k of the operation leaves in a row or word of the T result: bit k of the free number decides. -/
def keepHits (n : Nat) (key : Nat) (hits : List ((Nat × Nat × Nat) × Nat)) (cur v : Nat) : Nat :=
  hits.foldl (fun v h =>
    if h.1.1 = key && n.testBit h.2 then
      v - v / 2 ^ h.1.2.1 % 2 ^ h.1.2.2 * 2 ^ h.1.2.1 + cur / 2 ^ h.1.2.1 % 2 ^ h.1.2.2 * 2 ^ h.1.2.1
    else v) v
def meetHits (n : Nat) (o : TOp) (G : Gang) (w : TWr) : TWr :=
  match w with
  | .mrow m r v => .mrow m r (BitVec.ofNat 512 (keepHits n (16 * m + r) o.hits.zipIdx (mRow (getEng G o.eng) m r).toNat v.toNat))
  | .acc k v => .acc k (BitVec.ofNat 32 (keepHits n (65536 + k) o.hits.zipIdx (spGet 0 (getHw G o.eng).acc k).toNat v.toNat))
  | w => w

/-- Register results of a placing operation that has finished (R164–R166). -/
def runResult (G : Gang) (o : TOp) (j : JoinRun) : List TWr :=
  match o.ins with
  | .join _ _ xd xa xb xo =>
    [.x xa.toNat (BitVec.ofNat 32 j.a), .x xb.toNat (BitVec.ofNat 32 j.b),
     .x xo.toNat (BitVec.ofNat 32 (j.refused.getD 0)), .x xd.toNat (BitVec.ofNat 32 j.code)]
  | .jins _ xd xa => [.x xa.toNat (BitVec.ofNat 32 j.a), .x xd.toNat (BitVec.ofNat 32 j.code)]
  | .aspl xd => [.x xd.toNat (BitVec.ofNat 32 (getEng G o.eng).spillCount)]
  | _ => []
/-- A tile register that an operation reads fails its parity: none of its elements is written (06 R144; 08 R208). -/
def tileRegBad (v : TView) : Bool :=
  (tReads (tvEng v) v.W.len v.o).any (fun r => match r with
    | .m k => (tvHw v).regBad.contains (.m v.o.eng k)
    | _ => false)
/-- The results of an operation and whether it met poison. -/
def opResult (v : TView) : List TWr × Bool :=
  match v.o.out with
  | some w => (w, false)
  | none =>
    match v.o.join with
    | some j => (runResult v.G v.o j, false)
    | none => if tileRegBad v then ([], true) else if tClass v.o.ins = .tile then tileResult v else joinResult v
/-- Compute and keep an operation's results. -/
def computeOut (s : State) (g e id : Nat) : State :=
  match findOp (getGang s g) e id with
  | none => s
  | some o =>
    if o.out.isSome then s
    else
      let (n, s) := drawFree s
      let r := opResult (viewOf s g o n)
      let s := setOp s g e id (fun o => { o with out := some r.1 })
      if r.2 then deferT s g o else s

def endReady (s : State) (g e id : Nat) : Bool :=
  let G := getGang s g
  match findOp G e id with
  | some o => o.begun && tMayEnd G o && o.pushes.isEmpty && (match o.done with | some d => decide (d ≤ G.gc) | none => false)
  | none => false
/-- An operation leaves its engine; the counter falls once it has left every engine (R145). -/
def retireOp (e id : Nat) (c : TClass) (G : Gang) : Gang :=
  let G := { G with tops := G.tops.filter (fun o => !(o.eng == e && o.id == id)) }
  if G.tops.any (fun o => o.id == id) then G else lowerT c G
/-- Tile registers that a completed operation has written as a whole carry good parity. -/
def healOut (e : Nat) (ws : List TWr) (G : Gang) : Gang :=
  (List.range 8).foldl (fun G m => healRows e m (ws.filterMap (fun w => match w with
    | .mrow k r _ => if k = m then some r else none
    | _ => none)) G) G
def completeOp (s : State) (g e id : Nat) : State :=
  let s := computeOut s g e id
  match findOp (getGang s g) e id with
  | none => s
  | some o =>
    let W := gangWin s g
    let (n, s) := drawFree s
    let s := modGang s g (fun G => retireOp e id (tClass o.ins) (healOut e (o.out.getD []) (applyOut W e ((o.out.getD []).map (meetHits n o G)) G)))
    if o.sage.any (·.bad) then deferT s g o else s
def execTInstrComplete (g e id : Nat) (s : State) : Outcome := .next (if endReady s g e id then completeOp s g e id else s)

/-! Results read before completion (R145, R147): x results land in the completion cycle, and a bundle may see any
part of the other results early. -/

/-- A landing of a bundle issued in cycle t0, before those of the same cycle that were issued later (02 R59). -/
def insertFlight (f : Flight) : List Flight → List Flight
  | [] => [f]
  | h :: r => if h.land = f.land && decide (f.t0 < h.t0) then f :: h :: r else h :: insertFlight f r
def isXWr : TWr → Bool
  | .x _ _ => true
  | _ => false
def xFlight (gc : Nat) (o : TOp) : TWr → List Flight
  | .x r v => [⟨gc, o.path, .x r [(o.eng, v)], none, o.t0⟩]
  | _ => []
/-- The pushes left in the completion cycle find room: the operation completes in it. -/
def pushesFit (G : Gang) (o : TOp) : Bool :=
  o.pushes.isEmpty || decide ((qOf (getEng G o.eng) (sageQueue o)).length + o.pushes.length ≤ 256)
/-- The x results of operations that complete in this gang cycle land in it. -/
def landOpX (s : State) (g : Nat) : State :=
  let G := getGang s g
  (G.tops.filter (fun o => o.begun && pushesFit G o && o.done == some G.gc)).foldl (fun s o =>
    let s := computeOut s g o.eng o.id
    match findOp (getGang s g) o.eng o.id with
    | none => s
    | some o =>
      let out := o.out.getD []
      setOp (modGang s g (fun G => { G with flight := (out.flatMap (xFlight G.gc o)).foldl (fun l f => insertFlight f l) G.flight })) g
        o.eng o.id (fun o => { o with out := some (out.filter (fun w => !isXWr w)) })) s

def mayShowEarly : TWr → Bool
  | .x _ _ | .mrow _ _ _ | .acc _ _ | .spad _ _ => true
  | _ => false
/-- The 32-bit elements of write k of an operation that show early: bit 131072 k + (word within the row or the
scratchpad) of the free number decides for each (02 R61). -/
def earlyPart (G : Gang) (e n : Nat) (w : TWr × Nat) : List TWr :=
  let on (i : Nat) : Bool := n.testBit (131072 * w.2 + i)
  match w.1 with
  | .mrow m r v => [.mrow m r (lanes512 (fun i => if on i then lane v i else lane (mRow (getEng G e) m r) i))]
  | .spad a bs => (bs.zipIdx.filter (fun b => on ((a + b.2) / 4))).map (fun b => .spad (a + b.2) [b.1])
  | w => if on 0 then [w] else []
def earlyOne (s : State) (g : Nat) (o : TOp) : State :=
  let s := computeOut s g o.eng o.id
  let (n, s) := drawFree s
  match findOp (getGang s g) o.eng o.id with
  | none => s
  | some o =>
    let W := gangWin s g
    modGang s g (fun G => applyOut W o.eng (((o.out.getD []).zipIdx.filter (fun w => mayShowEarly w.1)).flatMap (earlyPart G o.eng n)) G)
/-- A begun operation whose results are known and wait for no earlier one. An FMTW's entry is fixed once, for every bundle
that may see it (04 R109). -/
def showsEarly (G : Gang) (len : Nat) (o : TOp) : Bool :=
  o.begun && o.done.isSome && o.pushes.isEmpty && o.join.isNone && !((o.out.getD []).isEmpty && o.out.isSome)
    && (G.tops.filter (fun a => a.eng == o.eng && decide (a.id < o.id))).all (fun a => (clashes (getEng G o.eng) len o a).isEmpty)
/-- Before a bundle reads, the begun tile operations and drains of each engine may have part of their results in place.
DEDUCED (log entry 79): the x results of a JOIN, JINS or ASPL, and of a PRED or PCHK with pushes to make, are known at
completion only, and a read before that gives the old value. -/
def earlyWrites (s : State) (g : Nat) : State :=
  let G := getGang s g
  (G.tops.filter (showsEarly G (gangWin s g).len)).foldl (fun s o => earlyOne s g o) s

end Sys2Proof.Machine
end

