-- ==== Sys2Proof/Machine/Copies.lean ====
section
/-! DEFINITION. The copy engine: commands start, their pieces are translated and performed, queue pushes, entries of
CPYG, completion with its barrier arrival, and the fall of n.copy (11 R269, R271, R273–R278; 10 R242, R243; 19 R396,
R400, R402; 15 R353; 08 R204, R210, R211). -/

namespace Sys2Proof.Machine

def findCopy (T : Team) (id : Nat) : Option Copy := T.copies.find? (fun c => c.id == id)
def modCopy (s : State) (t id : Nat) (f : Copy → Copy) : State :=
  modTeam s t (fun T => { T with copies := T.copies.map (fun c => if c.id == id then f c else c) })

/-- The copy engine works on a command: its team runs and its gang has not stopped (R271, 15 R354). -/
def copyWorks (s : State) (T : Team) (c : Copy) : Bool :=
  let G := getGang s c.gang
  T.run == .running && (G.run == .run || G.run == .finishing) && !stopping G

/-! Shape of a command. -/

/-- Engines a CPYG or CMC writes, in ascending order. -/
def maskList (m : Mask) : List Nat := (List.range 16).filter (maskBit m)
/-- Bytes of a command, its rows one after another. -/
def copyTotal (c : Copy) : Nat :=
  match c.op with
  | .cpyg => (maskList c.mask).length * c.n * dcLen c.desc
  | .cmc => if c.mask = 0 then 0 else dcRows c.desc * dcLen c.desc
  | _ => dcRows c.desc * dcLen c.desc
def rowOf (c : Copy) (off : Nat) : Nat := off / dcLen c.desc
def inRow (c : Copy) (off : Nat) : Nat := off % dcLen c.desc
/-- Engine of a CPYG's row, and the row's place among that engine's. -/
def cpygEng (c : Copy) (row : Nat) : Nat := (maskList c.mask).getD (row / c.n) 0
def cpygEntry (c : Copy) (row : Nat) : Option Word := (spGet [] c.rows (cpygEng c row))[row % c.n]?
/-- Byte address of an offset on either side. -/
def srcByte (c : Copy) (off : Nat) : Int :=
  let row : Int := match c.op with
    | .cpyg => ((cpygEntry c (rowOf c off)).map (fun w => (w.toNat : Int))).getD 0
    | _ => rowOf c off
  (aAddr (dcSrc c.desc) : Int) + row * dcSstr c.desc + inRow c off
def dstByte (c : Copy) (off : Nat) : Int :=
  let row : Nat := match c.op with
    | .cpyg => rowOf c off % c.n
    | _ => rowOf c off
  (aAddr (dcDst c.desc) : Int) + (row : Int) * dcDstr c.desc + inRow c off
def usesSrc (c : Copy) : Bool := (srcKinds c.op).isSome
def usesDst (c : Copy) : Bool := (dstKinds c.op).isSome
def srcMem (c : Copy) : Bool := usesSrc c && aKind (dcSrc c.desc) == 0
def dstMem (c : Copy) : Bool := usesDst c && aKind (dcDst c.desc) == 0
def toQueue (c : Copy) : Bool := usesDst c && aKind (dcDst c.desc) == 2
/-- Bytes from an offset to the end of its piece: pieces end at rows and at the sector boundaries of the memory
sides (R271); a command without one takes those of its scratchpad addresses. -/
def toSector (a : Int) : Nat := 32 - (a % 32).toNat
def pieceLen (c : Copy) (off : Nat) : Nat :=
  let rest := dcLen c.desc - inRow c off
  let a := if srcMem c then min rest (toSector (srcByte c off)) else rest
  let b := if dstMem c then min a (toSector (dstByte c off)) else a
  if srcMem c || dstMem c then b else min b (toSector (if usesSrc c then srcByte c off else dstByte c off))
/-- Rows of a CPYG whose entries will not come are passed over (14 R325). -/
def skipRows (c : Copy) : Nat → Nat → Nat
  | 0, off => off
  | n + 1, off =>
    if c.op = .cpyg && decide (off < copyTotal c) && (cpygEntry c (rowOf c off)).isNone && c.dropped.contains (cpygEng c (rowOf c off)) then
      skipRows c n (off + dcLen c.desc) else off
/-- Offsets of the next pieces from an offset on, at most 16 (R271). DESIGN CHOICE (log entry 113): no piece starts that lies more
than 15 pieces beyond the first one not complete, even when those between them are complete. -/
def pieceWindow (c : Copy) : Nat → Nat → List Nat
  | 0, _ => []
  | n + 1, off0 =>
    let off := skipRows c 4096 off0
    if copyTotal c ≤ off then []
    else if c.op = .cpyg && (cpygEntry c (rowOf c off)).isNone then []
    else off :: pieceWindow c n (off + pieceLen c off)
def openPieces (c : Copy) : List Nat := (pieceWindow c 16 c.nextOff).filter (fun o => !c.ahead.contains o)

/-! The windows a kind 1 address names (15 R353). -/

/-- The window of the team of the same record on a gang: the command's own team where it occupies that gang; of several other
teams of the record there the rule names none, so which one is a free value (log entry 115). -/
def windowOn (s : State) (T : Team) (g : Nat) : Option Win :=
  if T.gangs.contains g then some (teamWin T)
  else
    let ts := s.teams.filter (fun p => p.2.ctx == T.ctx && p.2.recId == T.recId && p.2.gangs.contains g)
    (ts[Config.freeTeamOn T.num g % ts.length]?).map (fun p => teamWin p.2)
/-- Gang, engine and window of a locator. -/
def spadSide (s : State) (T : Team) (loc : Word) : Option (Nat × Nat × Win) :=
  match locGang s T.ctx loc with
  | some g => (windowOn s T g).map (fun w => (g, nbits loc.toNat 3 0, w))
  | none => none
def srcSpad (s : State) (T : Team) (c : Copy) : Option (Nat × Nat × Win) :=
  if usesSrc c && aKind (dcSrc c.desc) == 1 then spadSide s T c.la else none
/-- Destinations in scratchpad: one engine, or all of a CMC's mask. -/
def dstSpads (s : State) (T : Team) (c : Copy) (off : Nat) : List (Nat × Nat × Win) :=
  match c.op with
  | .cpyg => (match windowOn s T c.gang with | some w => [(c.gang, cpygEng c (rowOf c off), w)] | none => [])
  | .cmc => (match spadSide s T c.lb with | some x => (maskList c.mask).map (fun e => (x.1, e, x.2.2)) | none => [])
  | _ => if usesDst c && aKind (dcDst c.desc) == 1 then (spadSide s T c.lb).toList else []
/-- A named window does not exist: the command writes nothing and reports 0x0B. -/
def windowMissing (s : State) (T : Team) (c : Copy) : Bool :=
  copyTotal c != 0 &&
    ((usesSrc c && aKind (dcSrc c.desc) == 1 && (srcSpad s T c).isNone)
     || (usesDst c && aKind (dcDst c.desc) == 1 && (dstSpads s T c 0).isEmpty))
/-- A gang whose scratchpad a piece touches is frozen: the piece is held (08 R210). -/
def pieceFrozen (s : State) (T : Team) (c : Copy) (off : Nat) : Bool :=
  ((srcSpad s T c).toList ++ dstSpads s T c off).any (fun x => (getGang s x.1).frozen != 0)

/-! Deferred causes of a command (21 R412). -/

def copyOpcode : CopyOp → BitVec 8
  | .cpy => 0x02 | .cpyg => 0x03 | .cpsh => 0x04 | .cmc => 0x05 | .cprf => 0x06 | .cfls => 0x07 | .cinv => 0x08 | .cfil => 0x09
/-- The command stops at its next piece and reports a cause. -/
def failCopy (s : State) (t : Nat) (c : Copy) (cause : BitVec 8) (va : Nat) : State :=
  deferCause (modCopy s t c.id (fun c => { c with stop := true, held := none })) c.gang
    { cause := cause, va := BitVec.ofNat 52 va, pc := 0, emask := 0, code := 0, opc := copyOpcode c.op, slot := 7,
      deferred := true, path := c.path }

/-! Start (R269, R273). -/

/-- The other slice of a two-gang CPY. -/
def mateOf (T : Team) (c : Copy) : Option Copy :=
  match c.slice with
  | some k => T.copies.find? (fun d => d.slice == some k && d.gang != c.gang)
  | none => none
/-- The other gang has exited: its slice will not come. -/
def otherExited (s : State) (T : Team) (c : Copy) : Bool :=
  T.gangs.all (fun g => g == c.gang || T.done.contains g || (getGang s g).run == .finishing)
/-- Places in progress, a pair of slices taking one. -/
def inProgress (T : Team) : Nat :=
  (T.copies.filter (fun c => c.started && !c.finished &&
    (match mateOf T c with | some d => !(d.started && decide (d.id < c.id)) | none => true))).length
def queueHead (T : Team) : Option Copy := T.copies.find? (fun c => !c.started)
def startReady (s : State) (T : Team) : Bool :=
  match queueHead T with
  | some c => copyWorks s T c && decide (inProgress T < 4) &&
      (c.slice.isNone || (mateOf T c).isSome || otherExited s T c)
  | none => false
def startOne (s : State) (t id : Nat) : State :=
  let s := modCopy s t id (fun c => { c with started := true, begunAt := nowCyc s })
  match getTeam s t with
  | some T => (match findCopy T id with
    | some c => if windowMissing s T c then failCopy s t c 0x0B 0 else s
    | none => s)
  | none => s
def execCopyCommandStart (t : Nat) (s : State) : Outcome :=
  .next (match getTeam s t with
    | some T => if startReady s T then
        (match queueHead T with
         | some c =>
           let s := startOne s t c.id
           (match mateOf T c with | some d => startOne s t d.id | none => s)
         | none => s) else s
    | none => s)

/-! Pieces. -/

/-- Where a memory side of a piece stands: local address, key, class; or another module; or what stops it. -/
inductive PieceTr where
  | here (pa key cls : Nat)
  | away (module iwin off : Nat)
  | none
  | absent (va need : Nat)
  | ends (va : Nat)
  | fails (cause : BitVec 8) (va : Nat) (refused : Option Nat)
  deriving DecidableEq, Repr
/-- Entry w of the context's remote window table (19 R402): the target module and its incoming window, if it is valid. -/
def remoteWin (s : State) (ctx w : Nat) : Option (Nat × Nat) :=
  let e := devGet s (ctxBlock ctx + 0x400 + 16 * w)
  if e.getLsbD 0 then some (dbits e 25 16, dbits e 7 2) else none
def pieceTr (s : State) (t ctx : Nat) (va : Int) (need : Nat) : PieceTr × List TlbEnt :=
  if va < 0 ∨ (2 ^ 52 : Int) ≤ va then (.fails 0x0B 0 none, [])
  else
    let a := va.toNat
    match translate s (agCopy t) ctx a need true with
    | (.ok pa key cls home _, es) =>
      if home ≠ 0 then (match remoteWin s ctx home with | some w => (.away w.1 w.2 pa, es) | none => (.ends a, es))
      else if populated s pa then (.here pa key cls, es) else (.fails 0x0F a (some pa), es)
    | (.absent, _) => (.absent a need, [])
    | (.ends, _) => (.ends a, [])
    | (.bad pa, _) => (.fails 0x0F a pa, [])

/-- A frame leaves for another module, with this module's number (R402). -/
def sendFrame (module iwin off len : Nat) (kind : FrameKind) (data : List Byte) (s : State) : State :=
  { s with frames := s.frames ++ [⟨module, iwin, Config.moduleNo, kind, off, len, data⟩] }
/-- What a command asks of a remote destination. -/
def destOp : CopyOp → PieceOp
  | .cfls => .flush
  | .cinv => .drop
  | .cpy | .cpyg | .cpsh | .cmc | .cprf | .cfil => .write
/-- The path whose releases order a copy's reads: the one that issued it, or the one that has taken its place. -/
def readPath (G : Gang) (c : Copy) : PathSlot := if (getPath G c.path).live then c.path else otherSlot c.path
/-- A byte of a scratchpad as a copy reads it: as it stands, or, where no release orders the last store to its word before the copy,
as it was before that store; which, is a free choice for each word (10 R233, R243; 16 R363). -/
def oldByte (s : State) (G : Gang) (p : PathSlot) (e : Nat) (W : Win) (a : Nat) : Byte :=
  let v := spadByte (getHw G e) W a
  match G.oldWords.find? (fun x => x.eng == e && x.seen.contains p && decide (x.addr ≤ a) && decide (a < x.addr + 4)) with
  | some x =>
    if x.new = spadWord (getHw G e) W x.addr ∧ freeAt s (2000 + x.addr) % 2 = 1 then x.old.extractLsb' (8 * (a - x.addr)) 8 else v
  | none => v
/-- The bytes a piece reads, none where it met poison; a remote answer is a free value (19 R402). -/
def readSide (s : State) (t : Nat) (T : Team) (c : Copy) (off len : Nat) (tr : PieceTr) : Option (List Byte) × State :=
  if c.op = .cfil then
    (some ((List.range len).map (fun k => BitVec.ofNat 8 (c.pat.toNat / 2 ^ (8 * ((inRow c off + k) % 8))))), s)
  else match tr with
    | .here pa key cls =>
      if c.op = .cprf && cls == 3 then (some [], s)
      else
        let r := homeReadAt s (some t) pa len key cls (aHint (dcSrc c.desc))
        (if r.2.1 || hitsBadReplica s (gangDie c.gang) (pa / 32) cls (aHint (dcSrc c.desc)) then none else some (leBytes len r.1), noteReader (gangDie c.gang) pa cls r.2.2)
    | .away m w o => (some ((List.range len).map (Config.freeRemote s.free)), sendFrame m w o len (.piece .read) [] { s with free := s.free + 1 })
    | _ =>
      match srcSpad s T c with
      | some x =>
        let a := (srcByte c off).toNat
        let H := getHw (getGang s x.1) x.2.1
        (if spadBadIn H x.2.2 a len then none else some ((List.range len).map (fun k => oldByte s (getGang s x.1) (readPath (getGang s c.gang) c) x.2.1 x.2.2 (a + k))), s)
      | none => (some [], s)
/-- Cache commands, of a team or of another module (R277). -/
def flushPiece (s : State) (t : Option Nat) (op : CopyOp) (pa cls : Nat) : State :=
  let sec := pa / 32
  let slice := homeSlice s pa
  if cls = 3 then s
  else
    let s := publishWhere s (fun p => p.sector == sec && p.slice == slice && t == some p.team)
    if op = .cinv then dropReplicas (evictLine s (sec / 8) slice) (sec / 8) else writeBack s sec slice
def writeSide (s : State) (t : Nat) (T : Team) (c : Copy) (off len : Nat) (tr : PieceTr) (bs : List Byte) : State :=
  match c.op with
  | .cprf => s
  | .cfls | .cinv => (match tr with
    | .here pa _ cls => flushPiece s (some t) c.op pa cls
    | .away m w o => sendFrame m w o len (.piece (destOp c.op)) [] s
    | _ => s)
  | _ =>
    match tr with
    | .here pa key cls => copyWriteAt s t c.id pa len (leNat bs) key cls (aHint (dcDst c.desc))
    | .away m w o => sendFrame m w o len (.piece .write) bs s
    | _ => (dstSpads s T c off).foldl (fun s x =>
        modGang s x.1 (fun G => modHw G x.2.1 (fun H => spadPutBytes H x.2.2 (dstByte c off).toNat bs))) s

/-- The next piece in order moves on over those already complete. -/
def advanceOff (c : Copy) : Nat → Copy
  | 0 => c
  | n + 1 => if c.ahead.contains c.nextOff then
      advanceOff { c with ahead := c.ahead.filter (· != c.nextOff), nextOff := skipRows c 4096 (c.nextOff + pieceLen c c.nextOff) } n else c
def pieceDone (off : Nat) (c : Copy) : Copy := advanceOff { c with ahead := off :: c.ahead } 17

/-- The faults of a piece: not-present pages hold the command, each distinct one with an entry (19 R397); a permission ends the
context; another cause stops the command. Only the first piece not complete is so judged: those before it are complete (R271). -/
def pieceFault (s : State) (t : Nat) (T : Team) (c : Copy) (off : Nat) (a b : PieceTr) : Option State :=
  let absent (x : PieceTr) : List (Nat × Nat) := match x with | .absent va need => [(va, need)] | _ => []
  let one (x : PieceTr) : Option State :=
    match x with
    | .ends va => some (endContext s T.ctx 0x09 va (locator s T.ctx c.gang 0))
    | .fails cause va refused =>
      let s := match refused with | some pa => logUnpopulated s (gangRegion c.gang) pa (some T.ctx) 0x0F | none => s
      some (failCopy s t c cause va)
    | .here _ _ _ | .away _ _ _ | .none | .absent _ _ => none
  match faultPages (absent a ++ absent b) with
  | [] => (match one a with | some s => some s | none => one b)
  | ps => some (ps.foldl (fun s p => recordFault s (gangDie c.gang)
      ⟨p.1, T.ctx, locator s T.ctx c.gang 0, 2, p.2, 0, off, c.seq, teamKey T⟩)
      (modCopy s t c.id (fun c => { c with held := some off })))
/-- Both sides of a piece translated. -/
def pieceSides (s : State) (t : Nat) (T : Team) (c : Copy) (off : Nat) : PieceTr × PieceTr × List TlbEnt :=
  let a := if srcMem c then pieceTr s t T.ctx (srcByte c off) 1 else (.none, [])
  let b := if dstMem c then pieceTr s t T.ctx (dstByte c off) 2 else (.none, [])
  (a.1, b.1, a.2 ++ b.2)
def isAway : PieceTr → Bool
  | .away _ _ _ => true
  | _ => false

/-- The flits of a piece's memory sides, in the command's class. -/
def spendPiece (cls : Nat) (x : PieceTr) (s : State) : State :=
  match x with
  | .here pa _ _ => spendFlit pa cls s
  | _ => s
/-- One piece of `len` bytes: its bytes, or a state in which it stopped the command. What goes to another module is sent to it, also
where that module refuses it (R402, R403). -/
def movePiece (s : State) (t : Nat) (T : Team) (c : Copy) (off len : Nat) : Option (List Byte × PieceTr × State) × State :=
  let p := pieceSides s t T c off
  match pieceFault s t T c off p.1 p.2.1 with
  | some s' => (none, s')
  | none =>
    let s := spendPiece c.cls p.2.1 (spendPiece c.cls p.1 (cacheWalk s p.2.2))
    let refused (tr : PieceTr) : Bool := isAway tr && freeAt s 701 % 2 == 1      -- what the other module answers (19 R403)
    match readSide s t T c off len p.1 with
    | (none, s) => (none, failCopy s t c 0x0F (if srcMem c then (srcByte c off).toNat else 0))
    | (some bs, s) =>
      if refused p.1 then (none, failCopy { s with free := s.free + 1 } t c 0x0A 0)
      else if refused p.2.1 then (none, failCopy (writeSide { s with free := s.free + 1 } t T c off len p.2.1 bs) t c 0x0A 0)
      else (some (bs, p.2.1, s), s)

def pieceReady (s : State) (T : Team) (c : Copy) (off : Nat) : Bool :=
  c.started && !c.finished && !c.stop && copyWorks s T c && !toQueue c
    && !(c.held.isSome && copyFaulted s T c) && !pieceFrozen s T c off
    && (openPieces (if c.held.isSome then { c with ahead := [] } else c)).contains off
/-- The class 3 targets of a piece. -/
def uncachedAt (s : State) (p : PieceTr × PieceTr × List TlbEnt) : List Nat :=
  [p.1, p.2.1].filterMap (fun x => match x with | .here pa _ 3 => some (homeSlice s pa) | _ => none)
/-- A piece beyond the first one waits where it would stop the command: it faults, reads poison, or is refused by the other
module; and where an earlier piece not complete goes to its class 3 target (08 R194). -/
def pieceWouldStop (s : State) (t : Nat) (T : Team) (c : Copy) (off : Nat) : Bool :=
  off != c.nextOff &&
    (let p := pieceSides s t T c off
     (pieceFault s t T c off p.1 p.2.1).isSome
     || ((isAway p.1 || isAway p.2.1) && freeAt s 701 % 2 == 1)
     || (readSide s t T c off (pieceLen c off) p.1).1.isNone
     || ((openPieces c).takeWhile (· != off)).any (fun o =>
          (uncachedAt s (pieceSides s t T c o)).any (fun x => (uncachedAt s p).contains x)))
def execCopyPiece (t cmd off : Nat) (s : State) : Outcome :=
  .next (match getTeam s t with
    | none => s
    | some T =>
      match findCopy T cmd with
      | none => s
      | some c =>
        if !pieceReady s T c off || pieceWouldStop s t T c off then s
        else
          let s := if c.held.isSome then modCopy (dropWalks (agCopy t) s) t cmd (fun c => { c with held := none, ahead := [] }) else s
          let len := pieceLen c off
          if windowMissing s T c then failCopy s t c 0x0B 0
          else match movePiece s t T c off len with
            | (none, s) => s
            | (some (bs, tr, s), _) => modCopy (writeSide s t T c off len tr bs) t cmd (pieceDone off))

/-! Queue pushes (R273; 02 R52). -/

def copyQ (c : Copy) : Nat := 4 + aAddr (dcDst c.desc) % 4
/-- Words other commands push onto the queue in this cycle. -/
def pushedNow (T : Team) (g q : Nat) : Nat :=
  ((T.copies.filter (fun c => c.gang == g && toQueue c && copyQ c == q)).map (fun c => c.qbuf.length)).sum
def queueRoom (s : State) (T : Team) (c : Copy) : Bool :=
  decide ((gangQ (getGang s c.gang) (copyQ c)).length + pushedNow T c.gang (copyQ c) < 64)
def qPushReady (s : State) (T : Team) (c : Copy) : Bool :=
  c.started && !c.finished && !c.stop && copyWorks s T c && toQueue c && decide (c.nextOff < copyTotal c)
    && !(c.held.isSome && copyFaulted s T c) && !pieceFrozen s T c c.nextOff
    && (queueRoom s T c || (getGang s c.gang).run == .finishing)
/-- The pieces of one word, in order. -/
def wordPieces (t : Nat) (T : Team) (c : Copy) : Nat → Nat → Nat → State → List Byte → Option (List Byte) × State
  | 0, _, _, s, acc => (some acc, s)
  | fuel + 1, off, n, s, acc =>
    if n = 0 then (some acc, s)
    else
      let len := min n (pieceLen c off)
      match movePiece s t T c off len with
      | (none, s) => (none, s)
      | (some (bs, _, s), _) => wordPieces t T c fuel (off + len) (n - len) s (acc ++ bs)
/-- A word is pushed; at a gang that finishes, a full queue drops the pushes not made (14 R325). -/
def execCopyQueuePush (t cmd : Nat) (s : State) : Outcome :=
  .next (match getTeam s t with
    | none => s
    | some T =>
      match findCopy T cmd with
      | none => s
      | some c =>
        if !qPushReady s T c then s
        else if !queueRoom s T c then modCopy s t cmd (fun c => { c with nextOff := copyTotal c })
        else if windowMissing s T c then failCopy s t c 0x0B 0
        else
          let s := if c.held.isSome then modCopy (dropWalks (agCopy t) s) t cmd (fun c => { c with held := none }) else s
          match wordPieces t T c 4 c.nextOff 4 s [] with
          | (none, s) => s
          | (some bs, s) => modCopy s t cmd (fun c => { c with nextOff := c.nextOff + 4,
                                                               qbuf := c.qbuf ++ [BitVec.ofNat 32 (leNat bs)] }))
/-- At the end of the cycle the words pushed in it stand in their queues. -/
def flushPushes (s : State) : State :=
  s.teams.foldl (fun s p => p.2.copies.foldl (fun s c =>
    if c.qbuf.isEmpty then s
    else modGang (modCopy s p.1 c.id (fun c => { c with qbuf := [] })) c.gang
      (fun G => setGangQ (copyQ c) (gangQ G (copyQ c) ++ c.qbuf) G)) s) s

/-! CPYG entries (R276). -/

def hasPred (G : Gang) (e : Nat) : Bool := G.tops.any (fun o => o.eng == e && (match o.ins with | .pred .. => true | _ => false))
def takeReady (s : State) (T : Team) (c : Copy) (e : Nat) : Bool :=
  c.op == .cpyg && c.started && !c.finished && !c.stop && copyWorks s T c && maskBit c.mask e
    && decide ((spGet [] c.rows e).length < c.n) && !c.dropped.contains e
    && (!(getEng (getGang s c.gang) e).q0.isEmpty
        || ((getGang s c.gang).run == .finishing && !hasPred (getGang s c.gang) e))
/-- An entry is taken; one whose parity fails stops the command instead (08 R208; 21 R412). At a gang that finishes, an empty queue
without a PRED ends the command's part in that engine (14 R325). DEDUCED (log entry 139): where the mask names several engines, the
others' parts go on. -/
def execCpygEntryTake (t cmd e : Nat) (s : State) : Outcome :=
  .next (match getTeam s t with
    | none => s
    | some T =>
      match findCopy T cmd with
      | none => s
      | some c =>
        if !takeReady s T c e then s
        else match (getEng (getGang s c.gang) e).q0 with
          | [] => modCopy s t cmd (fun c =>
              let c := { c with dropped := e :: c.dropped }
              { c with nextOff := skipRows c 4096 c.nextOff })
          | w :: r =>
            if (getHw (getGang s c.gang) e).regBad.contains (.q e 0) then failCopy s t c 0x0F 0
            else modCopy (modGang s c.gang (fun G => notePop 0 e (modEng G e (fun E => { E with q0 := r })))) t cmd
              (fun c => { c with rows := spPut c.rows e (spGet [] c.rows e ++ [w]) }))

/-! Completion (R269, R273; 10 R247). -/

/-- A command has nothing left to do; one that stopped has reported its cause. -/
def copyOver (c : Copy) : Bool := c.started && (c.stop || decide (copyTotal c ≤ c.nextOff)) && c.qbuf.isEmpty
def completeReady (s : State) (T : Team) (c : Copy) : Bool :=
  !c.finished && copyOver c && copyWorks s T c && decide (c.begunAt < nowCyc s)
    && (match mateOf T c with | some d => !d.started || copyOver d | none => true)
/-- A command with nothing to do, which completes in the cycle after its start. -/
def completeDue (s : State) (T : Team) (c : Copy) : Bool := completeReady s T c && copyTotal c == 0
/-- The barrier a command arrives at: of a pair the lower gang's (R273); one that stopped at an error arrives nowhere. -/
def arrivalBar (T : Team) (c : Copy) : Option Nat :=
  match mateOf T c with
  | some d => if d.started then (if c.stop || d.stop then none else if c.gang < d.gang then c.bar else d.bar) else (if c.stop then none else c.bar)
  | none => if c.stop then none else c.bar
def execCopyCommandComplete (t cmd : Nat) (s : State) : Outcome :=
  .next (match getTeam s t with
    | none => s
    | some T =>
      match findCopy T cmd with
      | none => s
      | some c =>
        if !completeReady s T c then s
        else
          let s := modCopy s t cmd (fun c => { c with finished := true })
          let s := match mateOf T c with
            | some d => if d.started then modCopy s t d.id (fun d => { d with finished := true }) else s
            | none => s
          match arrivalBar T c with
          | some b => barArrive s t b
          | none => s)

/-- The oldest command of a gang. -/
def oldestCopy (T : Team) (g : Nat) : Option Copy := T.copies.find? (fun c => c.gang == g)
def execCopyCounterFall (g : Nat) (s : State) : Outcome :=
  .next (match (getGang s g).team with
    | none => s
    | some t =>
      match getTeam s t with
      | none => s
      | some T =>
        match oldestCopy T g with
        | some c =>
          if c.finished && copyWorks s T c then
            modGang (modTeam s t (fun T => { T with copies := T.copies.filter (fun d => d.id != c.id) })) g
              (fun G => { G with ncopy := G.ncopy - 1 })
          else s
        | none => s)

end Sys2Proof.Machine
end

