-- ==== Sys2Proof/Machine/Teams.lean ====
section
/-! DEFINITION. Readiness of parked teams, stopping a team, and switch decisions (15 R352–R355; 13 R309). -/

namespace Sys2Proof.Machine

/-- A register's Thyme result has come, or waits in the gang (09 R228). -/
def thymeHere (G : Gang) (k : Ilk) : Bool :=
  match k.src with
  | .sred ch n => G.heldThyme.any (fun h => match h with | .round c m _ => c == ch && m == n | .sbc _ _ => false)
  | .sbc ch => G.fresh.getLsbD ch || G.heldThyme.any (fun h => match h with | .sbc c _ => c == ch | .round _ _ _ => false)
  | .at _ _ | .mem _ => true

def isSageOp (o : TOp) : Bool :=
  match o.ins with
  | .pred .. | .pchk .. => true
  | _ => false

/-- A copy of the gang goes on when the team runs: no not-present fault holds it (19 R396). -/
def copyMoves (s : State) (T : Team) (g : Nat) : Bool :=
  T.copies.any (fun c => c.gang == g && !(c.held.isSome && copyFaulted s T c))

/-- The bundle a parked path stopped on could issue again under R60 (R355). Waits on what stopped with the team, its
copies and its T instructions, end when it runs (log entry 23). -/
def holdLifted (s : State) (t : Nat) (T : Team) (g : Nat) (G : Gang) (p : PathSlot) : Bool :=
  let P := getPath G p
  P.live && !P.parked && (match P.hold with
    | .none | .wait | .other | .full => true
    | .copy => copyMoves s T g || T.copies.all (fun c => c.gang != g)
    | .barrier => P.barResume.isSome || (match P.barOpen with
        | some (b, ph) => (barOf T b).phase != ph || (barOf T b).target == 0
        | none => true)
    | .synw ch => !(s.rounds.any (fun r => r.ctx == T.ctx && r.ch == ch && r.arrs.any (fun a => a.team == t && a.gang == g)))
    | .thyme r => G.ilks.all (fun k => k.reg != r || thymeHere G k)
    | .queue => copyMoves s T g || G.tops.any isSageOp
    | .fault => !(faultHeld s T g p))

def teamReady (s : State) (t : Nat) (T : Team) : Bool :=
  T.run == .parked && T.saved.any (fun h => (!h.2.a.live && !h.2.b.live) || holdLifted s t T h.1 h.2 .A || holdLifted s t T h.1 h.2 .B)

/-- The ready parked teams admitted on any of the listed gangs. -/
def readyTeamsOf (s : State) (gs : List Nat) : List (Nat × Team) :=
  s.teams.filter (fun x => x.2.gangs.any (fun g => gs.contains g) && teamReady s x.1 x.2)

/-- A gang stops at its next boundary, for the reason given; a stop already asked for stands (13 R309). -/
def stopGang (s : State) (g : Nat) (r : Reason) : State :=
  modGang s g (fun G =>
    if G.run = .run || G.run = .finishing then
      (match G.stopReq with
       | some _ => G
       | none => { G with stopReq := some r, stopAt := G.gc + 1 })
    else G)
def stopTeam (s : State) (t : Nat) (r : Reason) : State :=
  match getTeam s t with
  | some T => T.gangs.foldl (fun s g => if (getGang s g).team = some t then stopGang s g r else s) s
  | none => s

/-- The effective priority of a team or record that has waited ready since a tick (R352). -/
def agedPrio (decl since tick : Nat) : Nat := min 15 (decl + (tick - since) / 2 ^ 12)
def teamPrio (s : State) (T : Team) : Nat :=
  match T.readySince with
  | some t0 => agedPrio T.pdecl t0 s.tick
  | none => T.pdecl

/-- The ready parked team of highest effective priority, the longest parked first (R355). -/
def bestOf (s : State) : List (Nat × Team) → Option (Nat × Team)
  | [] => none
  | x :: r =>
    match bestOf s r with
    | none => some x
    | some y => if teamPrio s y.2 < teamPrio s x.2 || (teamPrio s x.2 == teamPrio s y.2 && decide (x.2.since ≤ y.2.since)) then some x else some y

/-! Switch decisions (R355). -/

/-- The team that runs on a gang while no stop of it is asked for. -/
def runsOn (s : State) (g : Nat) : Option Team :=
  let G := getGang s g
  if (G.run == .run || G.run == .finishing) && G.stopReq.isNone then G.team.bind (getTeam s) else none
def gangIdle (s : State) (g : Nat) : Bool := (getGang s g).team.isNone
/-- A wait that counts for the Stall cause: those of R355's list, and a fault (19 R396); not a full command queue (20 R409). The
other waits of 02 R60 count all alike, or none of them does: a free value (log entry 95). -/
def stallHold : Hold → Bool
  | .wait | .copy | .barrier | .synw _ | .thyme _ | .queue | .fault => true
  | .other => Config.freeStallAlike
  | .none | .full => false
/-- Every live path of every gang of the team has issued nothing for longer than the threshold and waits as the Stall cause has it. A
gang that only finishes has no live path (log entry 122). -/
def stalledTeam (s : State) (U : Team) : Bool :=
  U.gangs.all (fun g =>
    let G := getGang s g
    U.done.contains g || ((G.run == .run || G.run == .finishing) && decide (ctxSwth s U.ctx < G.gc + 1 - G.lastIssue)
      && (!G.a.live || stallHold G.a.hold) && (!G.b.live || stallHold G.b.hold)))
def prioDue (s : State) (U V : Team) : Bool := decide (U.peff + 2 ≤ teamPrio s V)
def quantumDue (s : State) (U V : Team) : Bool :=
  match V.readySince with
  | some r => decide (max r U.ranAt + 2 ^ 16 ≤ s.tick)
  | none => false
/-- A switch to V is due on a gang, or the gang is idle. -/
def dueOn (s : State) (V : Team) (g : Nat) : Bool :=
  gangIdle s g || (match runsOn s g with
    | some U => stalledTeam s U || prioDue s U V || quantumDue s U V
    | none => false)
/-- The team to switch in on a gang for a cause: ready, parked, and its other gang is due as well. -/
def switchChoice (s : State) (g : Nat) (cause : Team → Team → Bool) : Option (Nat × Team) :=
  match runsOn s g with
  | none => none
  | some U => bestOf s ((readyTeamsOf s [g]).filter (fun x => cause U x.2 && x.2.gangs.all (fun h => h == g || x.2.done.contains h || dueOn s x.2 h)))
/-- Every team that runs on V's gangs stops for it. -/
def switchTo (s : State) (v : Nat) : State :=
  match getTeam s v with
  | none => s
  | some V => (V.gangs.filter (fun g => !V.done.contains g)).foldl (fun s g =>
      let s := modGang s g (fun G => { G with incoming := some v })
      match (getGang s g).team with
      | some u => stopTeam s u .switch
      | none => s) s

end Sys2Proof.Machine
end

