-- ==== Sys2Proof/Machine/Sched.lean ====
section
/-! DEFINITION. Scheduling instructions, the partition as a program sees it, control registers and FENCEI
(14 R329–R337). -/

namespace Sys2Proof.Machine

/-! The Thyme route (01 R9–R11, 09 R213, R218). Sites are numbered 8 y + x. -/

def siteSteps (q : Nat) : List Nat :=
  (if q % 8 = 0 then [] else [q - 1]) ++ (if q % 8 = 7 then [] else [q + 1]) ++ (if q < 8 then [] else [q - 8])
    ++ (if 32 ≤ q then [] else [q + 8])
/-- A site whose Thyme node is in service: a G-die's root, or an S-die's node (22 R429). -/
def siteServes (s : State) (q : Nat) : Bool :=
  !((List.range 20).any (fun d => (siteS d == q && s.mgmt.retiredNodes.contains (32 + d))
    || (siteG d == q && s.mgmt.retiredNodes.contains d)))
/-- Sites reached in one more hop. -/
def widen (s : State) (qs : List Nat) : List Nat :=
  (qs ++ (qs.flatMap siteSteps).filter (siteServes s)).eraseDups
/-- Hops from some sites to another on the minimal route of the nodes in service. DESIGN CHOICE (log entry 123): 40 where there is no
route. -/
def hopsFrom (s : State) (dst : Nat) : Nat → List Nat → Nat
  | 0, _ => 0
  | fuel + 1, qs => if qs.contains dst then 0 else 1 + hopsFrom s dst fuel (widen s qs)
/-- Hops between two physical G-dies. -/
def hops (s : State) (d1 d2 : Nat) : Nat :=
  if d1 = d2 then 0 else hopsFrom s (siteG d2) 40 ([siteG d1].filter (siteServes s))

/-! Checks. -/

def enqSelOk (s : State) (sb : DWord) : Bool :=
  (sb &&& 0xFFFFFFFFFF00FFF0) == 0 &&
    (match curCtx s with | some c => (bankOf s c (dbits sb 23 16) (dbits sb 3 0)).isSome | none => false)
/-- The target of a REC: none for tag 0, which signals no record (15 R338). -/
def recRefOk (s : State) (sa : DWord) : Bool :=
  dbits sa 63 24 == 0 && (dbits sa 11 0 == 0 ||
    (match curCtx s with | some c => (bankOf s c (dbits sa 23 16) (dbits sa 15 12)).isSome | none => false))
def vdieArgOk (s : State) (a : DWord) : Bool :=
  dbits a 63 8 == 0 && (match curCtx s with | some c => vdIn s c a.toNat | none => false)

def schedCheck (i : Instr) (s : State) : Verdict :=
  (commonCheck i s).and (match i with
    | .enq ra rb =>
      ((accessVerdict s (sv s ra).toNat 64 1).and (trapIf (!enqSelOk s (sv s rb)) 0x0A)).and (relCheck s)
    | .recd ra => (trapIf (!recRefOk s (sv s ra)) 0x0A).and (relCheck s)
    | .qtop (.gangs ra) _ => trapIf (!vdieArgOk s (sv s ra)) 0x0A
    | .qdie _ ra rb => trapIf (!(vdieArgOk s (sv s ra) && vdieArgOk s (sv s rb))) 0x0A
    | _ => .ok)

/-- ENQ: a release at package scope, then the record is read at its home and sent to the bank; n.store rises (R329). -/
def execEnq (ra rb : SReg) (s : State) : Outcome :=
  commit (.enq ra rb) (schedCheck (.enq ra rb) s)
    (fun s =>
      let va := (sv s ra).toNat
      let sel := sv s rb
      let s := doRelease .package s
      match curCtx s with
      | none => s
      | some c =>
        let v := dbits sel 23 16
        let bank := (bankOf s c v (dbits sel 3 0)).getD 0
        let (a1, s) := mkAcc s va 32 1 .read false 0 0
        let (a2, s) := mkAcc s (va + 32) 32 1 .read false 0 1
        raiseStore (addTxn (.enq ra rb) s (.enq (vdPhys s c v) bank) (a1.toList ++ a2.toList) none)) s

/-- REC: a release at package scope, then a decrement by 1 on its way to the named tag (R330). -/
def execRecd (ra : SReg) (s : State) : Outcome :=
  commit (.recd ra) (schedCheck (.recd ra) s)
    (fun s =>
      let r := sv s ra
      let s := doRelease .package s
      match curCtx s with
      | none => s
      | some c =>
        if dbits r 11 0 = 0 then s
        else
          let v := dbits r 23 16
          let d := vdPhys s c v
          let bank := (bankOf s c v (dbits r 15 12)).getD 0
          let id := (curGang s).nextId
          let s := raiseStore (addTxn (.recd ra) s (.recd d bank (dbits r 11 0)) [] none)
          modBank s d bank (fun B => { B with decs := B.decs ++ [⟨dbits r 11 0, 1, gangDie s.cur.gang, some (s.cur.gang, id), none⟩] })) s

/-- The team a YIELD gives the gangs to (R331). -/
def yieldChoice (s : State) (t : Nat) (T : Team) : Option (Nat × Team) :=
  bestOf s ((readyTeamsOf s T.gangs).filter (fun x => x.1 != t && decide (T.peff ≤ teamPrio s x.2)
    && x.2.gangs.all (fun h => T.gangs.contains h || x.2.done.contains h || dueOn s x.2 h)))
/-- YIELD: with another ready team of at least this priority, the gangs switch to it at their next boundary (R331). -/
def execYield (s : State) : Outcome :=
  commit .yield (schedCheck .yield s)
    (fun s => match (curGang s).team, gangTeam s s.cur.gang with
      | some t, some T => (match yieldChoice s t T with | some v => switchTo s v.1 | none => s)
      | _, _ => s) s

/-- PRIO (R332). -/
def execPrio (ra : SReg) (s : State) : Outcome :=
  commit (.prio ra) (schedCheck (.prio ra) s)
    (fun s => match (curGang s).team with
      | some t => modTeam s t (fun T => { T with pdecl := min (sv s ra).toNat 15, peff := min (sv s ra).toNat 15 })
      | none => s) s

/-- The trip counts of an OPER below nloops, outermost first (15 R341). -/
def tripsOf (bits : BitVec 512) : List Nat :=
  (List.range (min (nbits bits.toNat 330 328) 4)).map (fun k => nbits bits.toNat (399 + 16 * k) (384 + 16 * k))
def nestSteps (bits : BitVec 512) : Nat := (tripsOf bits).foldl (· * ·) 1

def qidValue (s : State) (T : Team) (sel : QidSel) : Nat :=
  match sel with
  | .team => T.num
  | .nteam => T.nteam
  | .gang => if T.gangs.length = 2 then s.cur.gang % 2 else 0
  | .vdie => T.vdie
  | .loc => locator s T.ctx s.cur.gang 0
def execQid (sel : QidSel) (rd : SReg) (s : State) : Outcome :=
  commit (.qid sel rd) (schedCheck (.qid sel rd) s)
    (fun s => sWrite 1 rd (BitVec.ofNat 64 (match gangTeam s s.cur.gang with | some T => qidValue s T sel | none => 0)) s) s

def execQtop (q : QtopSel) (rd : SReg) (s : State) : Outcome :=
  commit (.qtop q rd) (schedCheck (.qtop q rd) s)
    (fun s => sWrite 1 rd (BitVec.ofNat 64 (match curCtx s with
      | none => 0
      | some c => match q with
        | .gangs ra => enabledGangs s (vdPhys s c (sv s ra).toNat)
        | .dies => ctxNdie s c
        | .diam => ctxDiam s c)) s) s

def execQdie (rd ra rb : SReg) (s : State) : Outcome :=
  commit (.qdie rd ra rb) (schedCheck (.qdie rd ra rb) s)
    (fun s => sWrite 1 rd (BitVec.ofNat 64 (match curCtx s with
      | none => 0
      | some c => hops s (vdPhys s c (sv s ra).toNat) (vdPhys s c (sv s rb).toNat))) s) s

/-! Control registers (R335, R336). -/

def holdsSpare (G : Gang) : Bool :=
  G.spare && (match G.spareFreeAt with | some c => decide (G.gc < c) | none => true)
def csrValue (s : State) (c : Csr) : DWord :=
  let G := curGang s
  let r := gangRegion s.cur.gang
  let tm := gangTeam s s.cur.gang
  match c with
  | .lc k => (spGet 0 G.lc k.toNat).setWidth 64
  | .lnk => (curPath s).lnk.setWidth 64
  | .abase => G.abase.setWidth 64
  | .cyc => localCyc s r
  | .roff => spGet 0 s.roff r
  | .rgn => BitVec.ofNat 64 r
  | .ctx => BitVec.ofNat 64 ((tm.map (·.ctx)).getD 0)
  | .stkd => BitVec.ofNat 64 (stackDepth G)
  | .spare => BitVec.ofNat 64 ((if holdsSpare G then 1 else 0) + (if G.spareReq then 2 else 0))
  | .pdecl => BitVec.ofNat 64 ((tm.map (·.pdecl)).getD 0)
  | .peff => BitVec.ofNat 64 ((tm.map (·.peff)).getD 0)
def execCsrr (rd : SReg) (c : Csr) (s : State) : Outcome :=
  commit (.csrr rd c) (schedCheck (.csrr rd c) s) (fun s => sWrite 1 rd (csrValue s c) s) s
def execCsrw (c : Csr) (ra : SReg) (s : State) : Outcome :=
  commit (.csrw c ra) (schedCheck (.csrw c ra) s)
    (fun s =>
      let v := sv s ra
      match c with
      | .lc k => inFlight s 1 (.lc k.toNat (v.setWidth 32))
      | .lnk => inFlight s 1 (.lnk (v.setWidth 52))
      | .abase => inFlight s 1 (.abase (v.setWidth 52 &&& 0xFFFFFFFFF0000))
      | .cyc | .roff | .rgn | .ctx | .stkd | .spare | .pdecl | .peff => s) s

/-- FENCEI (R337): every line of the pair's cache is fetched again by this gang; the next fetch follows the
acquires before it. -/
def execFencei (s : State) : Outcome :=
  commit .fencei (schedCheck .fencei s)
    (fun s =>
      modCur (markUnits s.cur.gang s) (fun G => modPath G s.cur.path (fun P => { P with elig := G.gc + 8, refetch := true }))) s

end Sys2Proof.Machine
end

