-- ==== Sys2Proof/Machine/Records.lean ====
section
/-! DEFINITION. Barista's records: their fields, and the completion of records and teams (15 R338–R344, R347; 14
R325). -/

namespace Sys2Proof.Machine

/-! Fields (R338–R343). -/

def rf (r : BitVec 512) (hi lo : Nat) : Nat := nbits r.toNat hi lo
def recType (r : BitVec 512) : Nat := rf r 7 0
def recPin (r : BitVec 512) : Bool := r.getLsbD 8
def recStay (r : BitVec 512) : Bool := r.getLsbD 9
def recRst (r : BitVec 512) : Bool := r.getLsbD 10
def recTwo (r : BitVec 512) : Bool := r.getLsbD 11
def recPrio (r : BitVec 512) : Nat := rf r 19 16
def recCtx (r : BitVec 512) : Nat := rf r 31 20
def recDepc (r : BitVec 512) : Nat := rf r 47 32
def recTag (r : BitVec 512) : Nat := rf r 59 48
def recSigt (r : BitVec 512) : Nat := rf r 95 64
def recEntry (r : BitVec 512) : Nat := rf r 179 128
/-- The footprint: 0 stands for the whole scratchpad. -/
def recSpad (r : BitVec 512) : Nat := if rf r 208 192 = 0 then 131072 else rf r 208 192
def recAcc (r : BitVec 512) : Nat := rf r 212 209
def recVd0 (r : BitVec 512) : Nat := rf r 231 224
def recVd1 (r : BitVec 512) : Nat := rf r 239 232
def recGroup (r : BitVec 512) : Nat := rf r 255 240
def recArgp (r : BitVec 512) : Nat := rf r 307 256
def gridAstr (r : BitVec 512) : Nat := rf r 335 320
def gridNargs (r : BitVec 512) : Nat := rf r 342 336
def gridTeams (r : BitVec 512) : Nat := rf r 367 352
def gridChm (r : BitVec 512) : Nat := rf r 447 384
def gridChp (r : BitVec 512) : Nat := rf r 511 448
def operNargs (r : BitVec 512) : Nat := rf r 326 320
def operLoops (r : BitVec 512) : Nat := rf r 330 328
def tileRows (r : BitVec 512) : Nat := rf r 271 256
def sigAmount (r : BitVec 512) : Nat := rf r 143 128
def isGrid (r : BitVec 512) : Bool := recType r == 1
def isOper (r : BitVec 512) : Bool := recType r == 2
def isTile (r : BitVec 512) : Bool := recType r == 3
def isSignal (r : BitVec 512) : Bool := recType r == 4
def recGangs (r : BitVec 512) : Nat := if recTwo r then 2 else 1
/-- Teams a record starts: a SIGNAL, an empty TILE and an empty OPER start none. -/
def recTeams (r : BitVec 512) : Nat :=
  if isGrid r then gridTeams r
  else if isOper r then nestSteps r
  else if isTile r then (if tileRows r = 0 then 0 else 1)
  else 0

/-! Steps of an OPER (R341; 15 R351). -/

/-- The next tile step of an OPER: a discarded one first. -/
def nextStep (r : Rec) : Option Nat :=
  match r.redo with
  | q :: _ => some q
  | [] => if r.next < recTeams r.bits then some r.next else none

/-! Completion. -/

def findRec (s : State) (die bank id : Nat) : Option Rec := (bankAt s die bank).recs.find? (fun r => r.id == id)
def modRec (s : State) (die bank id : Nat) (f : Rec → Rec) : State :=
  modBank s die bank (fun B => { B with recs := B.recs.map (fun r => if r.id == id then f r else r) })
/-- A completed record's decrement on its way to a signal target; tag 0 signals nothing. -/
def sendSignal (s : State) (c sigt amount die rec : Nat) : State :=
  let tag := nbits sigt 11 0
  let v := nbits sigt 23 16
  if tag = 0 then s
  else match bankOf s c v (nbits sigt 15 12) with
    | some b => modBank s (vdPhys s c v) b (fun B => { B with decs := B.decs ++ [⟨tag, amount, die, none, some rec⟩] })
    | none => s
/-- A record is done: its slot is freed, its counter set to 0, a grid's channels are unbound, its target signalled. -/
def completeRecord (s : State) (die bank id : Nat) : State :=
  match findRec s die bank id with
  | none => s
  | some r =>
    let s := modBank s die bank (fun B =>
      { B with recs := B.recs.filter (fun q => q.id != id), tags := if r.tag = 0 then B.tags else spSet 0 B.tags r.tag 0 })
    let s := if isGrid r.bits then unbindGrid s (recCtx r.bits) (gridNo id) else s
    sendSignal s (recCtx r.bits) (recSigt r.bits) (if isSignal r.bits then sigAmount r.bits else 1) die id
/-- A team has completed; the record completes with its last team. -/
def completeTeam (s : State) (t : Nat) : State :=
  match getTeam s t with
  | none => s
  | some T =>
    let s := modRec (endAdmission s t) T.die T.bank T.recId (fun r => { r with doneN := r.doneN + 1 })
    match findRec s T.die T.bank T.recId with
    | some r => if recTeams r.bits ≤ r.doneN then completeRecord s T.die T.bank T.recId else s
    | none => s

end Sys2Proof.Machine
end

