-- ==== Sys2Proof/Machine/Fetch.lean ====
section
/-! DEFINITION. Bundle fetch through the instruction cache of the gang pair (02 R35, R36; 08 R197; 14 R320, R337;
19 R393, R396). -/

namespace Sys2Proof.Machine

/-- What a path's fetch finds: the bytes from its program counter on; a unit that must be fetched; a page not present;
an access that ends the context; bytes that cannot be read. -/
inductive Fetched where
  | bytes (bs : List Byte)
  | miss (va : Nat)
  | absent (va : Nat)
  | ends (va : Nat)
  | bad (va : Nat) (refused : Option Nat)
  deriving DecidableEq, Repr

def unitBytes (v : BitVec 512) : List Byte := leBytes 64 v.toNat
/-- The physical address, key and class of a fetch unit. -/
def unitTr (s : State) (g ctx va : Nat) : Tr × List TlbEnt := translate s (agGang g) ctx va 4 false
/-- A unit that the gang must fetch again (14 R337). -/
def unitMarked (s : State) (g pa : Nat) : Bool := spGet false (getPair s (gangPair g)).refetch (2 * (pa / 64) + g % 2)
/-- The bytes of the fetch unit at a virtual address. -/
def unitAt (s : State) (g ctx va : Nat) : Fetched :=
  match (unitTr s g ctx va).1 with
  | .ok pa _ _ _ _ =>
    (match spFind (getPair s (gangPair g)).icache (pa / 64) with
     | some d => if unitMarked s g pa then .miss va else .bytes (unitBytes d)
     | none => if populated s pa then .miss va else .bad va (some pa))
  | .absent => .absent va
  | .ends => .ends va
  | .bad pa => .bad va pa
def bundleNeeds (bs : List Byte) : Nat := if bs.length < 4 then 4 else bundleLen (BitVec.ofNat 32 (leNat (bs.take 4)))
/-- The bytes at an address, from one fetch unit or two; what fails is the bundle's first byte in the unit (19 R397). -/
def fetchAt (s : State) (g ctx pc : Nat) : Fetched :=
  match unitAt s g ctx (pc / 64 * 64) with
  | .bytes u =>
    let bs := u.drop (pc % 64)
    if bundleNeeds bs ≤ bs.length then .bytes bs
    else match unitAt s g ctx ((pc / 64 + 1) * 64 % 2 ^ 52) with
      | .bytes w => .bytes (bs ++ w)
      | r => r
  | .miss va => .miss va
  | .absent _ => .absent pc
  | .ends _ => .ends pc
  | .bad _ refused => .bad pc refused
def fetchPath (s : State) (g : Nat) (p : PathSlot) : Fetched :=
  match gangTeam s g with
  | some T => fetchAt s g T.ctx (getPath (getGang s g) p).pc.toNat
  | none => .miss 0
/-- The header's delay field. -/
def headerDelay (bs : List Byte) : Nat := nbits (leNat (bs.take 4)) 22 17
/-- A byte of code: in the instruction cache, else at its home; none without a translation. -/
def codeByte (s : State) (g ctx va : Nat) : Option Byte :=
  match (unitTr s g ctx (va / 64 * 64)).1 with
  | .ok pa key cls _ _ =>
    (match spFind (getPair s (gangPair g)).icache (pa / 64) with
     | some d => some (BitVec.ofNat 8 (d.toNat / 2 ^ (8 * (va % 64))))
     | none => if populated s pa then some (BitVec.ofNat 8 (homeReadAt s none (pa + va % 64) 1 key cls true).1) else none)
  | .absent => none
  | .ends => none
  | .bad _ => none
/-- The header of the bundle at an address. -/
def codeHead (s : State) (g ctx pc : Nat) : Option (List Byte) := (List.range 4).mapM (fun i => codeByte s g ctx ((pc + i) % 2 ^ 52))
/-- The delay of the next bundle of a path, wherever the bundle stands. -/
def pathDelay (s : State) (g : Nat) (p : PathSlot) : Option Nat :=
  match gangTeam s g with
  | some T => (codeHead s g T.ctx (getPath (getGang s g) p).pc.toNat).map headerDelay
  | none => none

/-! BUNDLE_FETCH. -/

/-- The fetch after a FENCEI follows the reads that an acquire before it waits for. -/
def refetchHeld (G : Gang) (p : PathSlot) : Bool :=
  (getPath G p).refetch && G.txns.any (fun U => (getPath G p).own.contains U.id && decide (U.id < (getPath G p).acqId) && readsBack U.kind)
/-- The unit a path's fetch brings: the missing one, or the first one again, since a line may have left the cache. -/
def fetchTarget (s : State) (g : Nat) (p : PathSlot) : Option Nat :=
  match fetchPath s g p with
  | .miss va => some va
  | .bytes _ => some ((getPath (getGang s g) p).pc.toNat / 64 * 64)
  | .absent _ => none
  | .ends _ => none
  | .bad _ _ => none
def fetchReady (s : State) (g : Nat) (p : PathSlot) : Bool :=
  let G := getGang s g
  let P := getPath G p
  G.run == .run && G.frozen == 0 && !stopping G && P.live && !P.parked && !P.trapped && P.mask != 0 && !refetchHeld G p
    && (fetchTarget s g p).isSome
/-- A unit read for a G-die at its homes, or at a replica. -/
def readUnit (s : State) (die pa key cls : Nat) : BitVec 512 × Bool × State :=
  let a := homeReadAt (spendFlit (pa + 32) 0 (spendFlit pa 0 s)) none pa 32 key cls false
  let b := homeReadAt a.2.2 none (pa + 32) 32 key cls false
  let poor := hitsBadReplica s die (pa / 32) cls false || hitsBadReplica s die (pa / 32 + 1) cls false
  (BitVec.ofNat 512 (a.1 + b.1 * 2 ^ 256), a.2.1 || b.2.1 || poor, b.2.2)
/-- The instruction cache holds 64 KiB; which unit a new one replaces is not defined (R197). -/
def icacheUnits : Nat := 64 * 2 ^ 10 / 64
def putUnit (s : State) (g pa : Nat) (d : BitVec 512) : State :=
  let P := getPair s (gangPair g)
  let full := (spFind P.icache (pa / 64)).isNone && decide (icacheUnits ≤ P.icache.length)
  let (n, s) := if full then drawFree s else (0, s)
  let H := getGang s (partnerOf g)
  let other := H.a.refetch || H.b.refetch      -- the other gang's FENCEI: its fetch comes later than this one
  modPair s (gangPair g) (fun P =>
    let c := if full then (match P.icache[n % P.icache.length]? with | some u => spDel P.icache u.1 | none => P.icache) else P.icache
    { P with icache := spPut c (pa / 64) d, refetch := (let r := spDel P.refetch (2 * (pa / 64) + g % 2); if other then spPut r (2 * (pa / 64) + partnerOf g % 2) true else r) })
/-- A trap found while a path's next bundle is fetched. -/
def fetchTrap (s : State) (g : Nat) (p : PathSlot) (cause : BitVec 8) (va : Nat) : State :=
  latchTrap s g { cause := cause, va := BitVec.ofNat 52 va, pc := (getPath (getGang s g) p).pc, emask := 0, code := 0,
                  opc := 0, slot := 0, deferred := false, path := p }
/-- A unit is read at its homes into the cache. The first fetch after a FENCEI follows the acquires before it, and so does every
later one: what the gang's other path has fetched meanwhile is fetched again (14 R337). -/
def execBundleFetch (g : Nat) (p : PathSlot) (s : State) : Outcome :=
  .next (if fetchReady s g p then
    (match gangTeam s g, fetchTarget s g p with
     | some T, some va =>
       (match unitTr s g T.ctx va with
        | (.ok pa key cls _ _, es) =>
          if populated s pa then
            let r := readUnit (noteReader (gangDie g) pa cls (cacheWalk s es)) (gangDie g) (pa / 64 * 64) key cls
            let s := if (getPath (getGang s g) p).refetch then markUnits g r.2.2 else r.2.2
            let s := modGang s g (fun G => modPath G p (fun P => { P with refetch := false }))
            if r.2.1 then fetchTrap s g p 0x0F va else putUnit s g (pa / 64 * 64) r.1
          else s
        | _ => s)
     | _, _ => s) else s)

end Sys2Proof.Machine
end

