-- ==== Sys2Proof/Machine/Save.lean ====
section
/-! DEFINITION. The save area of a gang: its image, written at capture and read back at resume (21 R418–R424; 13 R309,
R310). -/

namespace Sys2Proof.Machine

def saveEntryOk (s : State) (g slot : Nat) : Bool := (devGet s (saveEntry g slot)).getLsbD 63
/-- Physical address of the save area of a gang's team. -/
def savePa (s : State) (g slot : Nat) : Nat := dbits (devGet s (saveEntry g slot)) 47 0

/-! Results in flight as snapshot entries (R421). -/

/-- One entry: class, register number, direction, index, and per engine its lanes and data. -/
structure Snap where
  cls : Nat
  num : Nat
  dir : Nat
  idx : Nat
  parts : List (Nat × Half × BitVec 512)
  deriving DecidableEq, Repr
def dirNo : Dir → Nat
  | .row => 0 | .col => 1 | .diag => 2
def dirAt : Nat → Dir
  | 0 => .row | 1 => .col | _ => .diag
def tileCls : Tile → Nat
  | .m _ => 4 | .c _ => 5
def tileNo : Tile → Nat
  | .m r => r.toNat | .c r => r.toNat
def seqPart (v : Nat) : List (Nat × Half × BitVec 512) := [(0, 0, BitVec.ofNat 512 v)]
def wordsNat (ws : List Word) : Nat := ws.foldr (fun w a => w.toNat + 2 ^ 32 * a) 0
/-- The entries of a result: one, or one for each 64 bytes per engine. Scratchpad stores and abase have no class (21 R421). DESIGN
CHOICE (log entry 147): idx, num and lanes of classes 9 and 10, and lane bit 0 of x, ep and shape. -/
def snapsOf : Wr → List Snap
  | .s r v => [⟨0, r, 0, 0, seqPart v.toNat⟩]
  | .x r es => [⟨1, r, 0, 0, es.map (fun x => (x.1, 1, x.2.setWidth 512))⟩]
  | .v r es => [⟨2, r, 0, 0, es⟩]
  | .p r es => [⟨3, r, 0, 0, es.map (fun x => (x.1, x.2.1, x.2.2.setWidth 512))⟩]
  | .line t dir idx es => [⟨tileCls t, tileNo t, dirNo dir, idx, es⟩]
  | .group t dir idx es => [⟨tileCls t, tileNo t, dirNo dir, idx, es.map (fun x => (x.1, x.2.2.2))⟩]
  | .rows m es =>
    ((List.range 16).filter (fun r => es.any (fun x => x.2.any (fun y => y.1 == r)))).map (fun r =>
      ⟨4, m, 0, r, es.filterMap (fun x => (x.2.find? (fun y => y.1 == r)).map (fun y => (x.1, 0xFFFF, y.2)))⟩)
  | .ep es => [⟨6, 0, 0, 0, es.map (fun x => (x.1, 1, if x.2 then 1 else 0))⟩]
  | .lc k v => [⟨7, k, 0, 0, seqPart v.toNat⟩]
  | .shape es => [⟨8, 0, 0, 0, es.map (fun x => (x.1, 1, x.2.setWidth 512))⟩]
  | .patLoad es => (List.range 8).map (fun k =>
      ⟨9, 0, 0, k, es.map (fun x => (x.1, 0xFFFF, BitVec.ofNat 512 (x.2.2.toNat / 2 ^ (512 * k))))⟩)
  | .patSwap es => [⟨9, 1, 0, 0, es.map (fun e => (e, 1, 0))⟩]
  | .qpush k es => [⟨10, k, 0, 0, es.map (fun x => (x.1, BitVec.ofNat 16 (2 ^ x.2.length - 1), BitVec.ofNat 512 (wordsNat x.2)))⟩]
  | .lnk v => [⟨11, 0, 0, 0, seqPart v.toNat⟩]
  | .abase _ => []
  | .spad _ => []
def snapCount (fs : List Flight) : Nat := (fs.map (fun f => (snapsOf f.w).length)).sum
/-- Results still in flight at a boundary, in landing order; of those landing together the later one stands last. -/
def insertLand (f : Flight) : List Flight → List Flight
  | [] => [f]
  | g :: r => if f.land ≤ g.land then f :: g :: r else g :: insertLand f r
def landOrder (fs : List Flight) : List Flight := fs.foldr insertLand []

/-- A field of the image: offset, bytes, value. -/
abbrev Field := Nat × Nat × Nat
def snapFields (c : Nat) (path : PathSlot) (land k : Nat) (x : Snap) : List Field :=
  let base := 0x1000 + 1088 * k
  let em := (maskOf (if x.cls = 0 || x.cls = 7 || x.cls = 11 then [] else x.parts.map (·.1))).toNat
  (base, 8, 2 ^ 63 + (if path = .B then 2 ^ 48 else 0) + em * 2 ^ 32 + x.idx % 16 * 2 ^ 28 + x.dir * 2 ^ 26 + x.num % 64 * 2 ^ 20
      + x.cls * 2 ^ 16 + (land - c) % 2 ^ 16)
    :: x.parts.flatMap (fun p => [(base + 0x20 + 2 * p.1, 2, p.2.1.toNat), (base + 0x40 + 64 * p.1, 64, p.2.2.toNat)])
/-- Snapshots of a list of results, each with the number of its first entry. -/
def snapAll (c : Nat) : Nat → List Flight → List Field
  | _, [] => []
  | k, f :: r =>
    ((snapsOf f.w).zipIdx.flatMap (fun x => snapFields c f.path f.land (k + x.2) x.1)) ++ snapAll c (k + (snapsOf f.w).length) r

/-! The image. -/

def reasonNo : Reason → Nat
  | .switch => 0 | .preempt => 1 | .trap => 2 | .halt => 3 | .partner => 4
def enteringNo : Entering → Nat
  | .none => 0 | .uniform => 1 | .diverged => 2
def enteringAt : Nat → Entering
  | 1 => .uniform | 2 => .diverged | _ => .none
def b2n (b : Bool) (k : Nat) : Nat := if b then 2 ^ k else 0
/-- The cause record (R419). -/
def causeRec (s : State) (c : Option Cause) : Nat :=
  let t := (ptime s).toNat % 2 ^ 32 * 2 ^ 64
  match c with
  | none => t
  | some c => 1 + t + c.cause.toNat * 2 ^ 96 + b2n (c.path == .B) 106 + b2n c.deferred 107 + c.slot.toNat * 2 ^ 108
      + c.opc.toNat * 2 ^ 112 + c.code.toNat * 2 ^ 120 + c.emask.toNat * 2 ^ 136 + c.pc.toNat * 2 ^ 152 + c.va.toNat * 2 ^ 204
/-- Gang cycles a path's next bundle is still short of issuable (R420). -/
def pathWrem (s : State) (g : Nat) (p : PathSlot) (c : Nat) : Nat :=
  let P := getPath (getGang s g) p
  min 127 (P.elig + (if P.waited then 0 else (pathDelay s g p).getD 0) - c)
/-- A path record (R420). -/
def pathRec (s : State) (g : Nat) (p : PathSlot) (c : Nat) : Nat :=
  let G := getGang s g
  let P := getPath G p
  b2n (G.turn == p) 115 + b2n P.onspare 116 + b2n P.live 117 + enteringNo P.entering * 2 ^ 118 + pathWrem s g p c * 2 ^ 120
    + P.mask.toNat * 2 ^ 136 + P.lnk.toNat * 2 ^ 152 + P.pc.toNat * 2 ^ 204
/-! The stopped join-class and pred-class instructions (R423). The manual lists what the headers hold and gives it no
places; those here are a DESIGN CHOICE (log entry 84). -/

/-- A join-class instruction that has begun in an engine and stops where it is: a JOIN, JINS or ASPL, or an ACLR, ADRN, AFOLD or AWR
(06 R148). At most one has begun in an engine, for all of them write the keyed part (06 R146). -/
def stopsInJoin (o : TOp) : Bool := decide (o.eng < 16) && o.begun && tClass o.ins == .join && !endsOnStop o
/-- The instruction that a join or Sage header of engine e shows: it has begun and is not complete. -/
def stoppedOp (G : Gang) (e : Nat) (pred : Bool) : Option TOp :=
  G.tops.find? (fun o => o.eng == e && (if pred then o.begun && o.sage.isSome else stopsInJoin o))
def imageOf (i : Instr) : Nat := match encode i with | some (_, w) => w.toNat | none => 0
/-- Product number, or tuple number of a JINS, as the 15 bits a pending placement has for it. -/
def pendNum (o : TOp) (n : Nat) : Nat := match o.ins with | .jins .. => n / 8 % 2 ^ 15 | _ => n % 2 ^ 15
/-- A pending placement: key, number, and the exact product as a sign, a 16-bit exponent and a 64-bit significand;
exponent 0x8000 stands for an infinity, or with a significand for a NaN. -/
def pendWord (o : TOp) (p : Pend) : Nat :=
  let v : Bool × Nat × Nat := match p.v with
    | .nan => (false, 0x8000, 1)
    | .inf n => (n, 0x8000, 0)
    | .fin n m e => (n, (e % 65536).toNat, m % 2 ^ 64)
  p.key.toNat + pendNum o p.num * 2 ^ 32 + b2n v.1 47 + v.2.1 * 2 ^ 48 + v.2.2 * 2 ^ 64
def joinFields (b : Nat) (G : Gang) (e : Nat) : List Field :=
  match stoppedOp G e false with
  | none => []
  | some o =>
    [(b + 0x4000, 8, imageOf o.ins), (b + 0x4008, 4, o.xa.toNat), (b + 0x400C, 4, o.xb.toNat), (b + 0x4010, 4, o.xc.toNat)]
    ++ match o.join with
    | none => []
    | some j =>
      [(b + 0x4014, 4, j.a), (b + 0x4018, 4, j.b), (b + 0x401C, 4, j.ga), (b + 0x4020, 4, j.gb), (b + 0x4024, 4, j.next),
       (b + 0x4028, 4, j.pend.length % 256 + b2n j.finished 8 + b2n (j.code != 0) 9 + b2n j.refused.isSome 10),
       (b + 0x402C, 4, j.refused.getD 0), (b + 0x4030, 4, j.total)]
      ++ (j.pend.take 128).zipIdx.map (fun p => (b + 0x4040 + 16 * p.2, 16, pendWord o p.1))
def sageFields (b c : Nat) (G : Gang) (e : Nat) : List Field :=
  match stoppedOp G e true with
  | none => []
  | some o =>
    let q := sageReached o c
    [(b + 0x4840, 8, imageOf o.ins), (b + 0x4848, 32, descOf o.tbl % 2 ^ 256), (b + 0x4868, 2, q.1), (b + 0x486A, 2, q.2.2),
     (b + 0x486C, 4, q.2.1.toNat), (b + 0x4870, 12, entBits o.ea 255 160), (b + 0x487C, 1, entBits o.ea 11 10 + (encFmt o.fa).toNat * 16)]
    ++ ((o.sage.map (·.sb)).getD []).zipIdx.map (fun w => (b + 0x4880 + 4 * w.2, 4, w.1.toNat))
/-- The fields of an engine's area (21 R422). DESIGN CHOICE (log entry 146): the six of the keyed configuration are consecutive 4-byte
words in the order in which R422 names them. -/
def engFields (b : Nat) (E : Engine) : List Field :=
  let q (off k : Nat) : List Field := (qOf E k).zipIdx.map (fun w => (b + off + 4 * w.2, 4, w.1.toNat))
  E.v.map (fun r => (b + 64 * r.1, 64, r.2.toNat))
  ++ E.m.map (fun r => (b + 0x800 + 64 * r.1, 64, r.2.toNat))
  ++ E.x.map (fun r => (b + 0x2800 + 4 * r.1, 4, r.2.toNat))
  ++ (List.range 8).map (fun r => (b + 0x2840 + 2 * r, 2, (pRegE E r).toNat))
  ++ [(b + 0x2850, 8, E.k % 256 * 2 ^ 56 + E.cols % 256 * 2 ^ 48 + E.rows % 128 * 2 ^ 40 + b2n E.patBank 32 + b2n E.ep 0),
      (b + 0x2858, 8, E.row0.toNat * 2 ^ 16 + E.col0.toNat),
      (b + 0x2860, 8, E.q0.length + E.q1.length * 2 ^ 16 + E.q2.length * 2 ^ 32 + E.q3.length * 2 ^ 48)]
  ++ q 0x2900 0 ++ q 0x2D00 1 ++ q 0x3100 2 ++ q 0x3180 3
  ++ E.cb.map (fun c => (b + 0x3200 + c.1, 1, c.2.toNat))
  ++ E.fmtt.map (fun f => (b + 0x3A00 + 32 * f.1, 32, f.2.toNat))
  ++ E.pat.map (fun f => (b + 0x3C00 + 512 * f.1, 512, f.2.toNat))
  ++ [(b + 0x4C80, 4, E.cfgA.toNat), (b + 0x4C84, 4, E.cfgB.toNat), (b + 0x4C88, 4, E.ringHead), (b + 0x4C8C, 4, E.ringTail),
      (b + 0x4C90, 4, E.spillCount), (b + 0x4C94, 4, b2n E.spillFull 0), (b + 0x4CA0, 512, E.predMask.toNat)]
/-- The fields of the area; `tw` stands for the team-wide state, whose layout is not given: it is a free value (log entry 112). -/
def gangFields (s : State) (g : Nat) (r : Reason) (c tw : Nat) : List Field :=
  let G := getGang s g
  let fs := landOrder G.flight
  [(0x0000, 32, causeRec s (if r = .trap then G.cause else none)), (0x0020, 8, G.stkb),
   (0x0028, 8, reasonNo r + b2n (G.preempted && r != .halt) 8 + snapCount fs * 2 ^ 16)]
  ++ G.s.map (fun x => (0x100 + 8 * x.1, 8, x.2.toNat))
  ++ G.lc.map (fun x => (0x300 + 4 * x.1, 4, x.2.toNat))
  ++ [(0x310, 8, G.abase.toNat),
      (0x318, 8, G.ntile + G.njoin * 2 ^ 8 + G.npred * 2 ^ 16 + G.ncopy * 2 ^ 24 + G.nstore * 2 ^ 32),
      (0x320, 8, G.retired.toNat + b2n (G.spare || (G.b.live && G.b.onspare)) 16 + b2n G.spareReq 17 + stackDepth G % 256 * 2 ^ 24
        + (G.div - c) % 32 * 2 ^ 32 + (G.divSpare - c) % 32 * 2 ^ 40),
      (0x340, 32, pathRec s g .A c), (0x360, 32, pathRec s g .B c)]
  ++ G.stack.reverse.zipIdx.map (fun e => (0x380 + 32 * e.2, 32, e.1.toNat))
  ++ G.d.map (fun d => (0x480 + 32 * d.1, 32, d.2.toNat))
  ++ [4, 5, 6, 7].flatMap (fun k => (gangQ G k).zipIdx.map (fun w => (0x580 + 256 * (k - 4) + 4 * w.2, 4, w.1.toNat)))
  ++ [(0x980, 8, G.q4.length + G.q5.length * 2 ^ 8 + G.q6.length * 2 ^ 16 + G.q7.length * 2 ^ 24)]
  ++ G.latch.map (fun l => (0x9A0 + 8 * l.1, 8, l.2.toNat)) ++ [(0xBA0, 8, G.fresh.toNat), (0xC00, 0x400, tw % 2 ^ 8192)]
  ++ snapAll c 0 fs
  ++ (List.range 16).flatMap (fun e =>
      let b := 0x10000 + 0x5000 * e
      engFields b (getEng G e) ++ (if r = .halt then [] else joinFields b G e ++ sageFields b c G e))
/-- Parking traffic, in class 3 (15 R359): DESIGN CHOICE (log entry 88), a flit for the gang's part of a save area and one for each
engine's. -/
def spendArea (pa : Nat) (s : State) : State :=
  (List.range 16).foldl (fun s e => spendFlit (pa + 0x10000 + 0x5000 * e) 3 s) (spendFlit pa 3 s)
/-- Write a gang's save area (R418): bytes no field assigns are 0. -/
def writeArea (s : State) (g pa : Nat) (r : Reason) (c tw : Nat) : State :=
  let fs := gangFields s g r c tw
  let s := spendArea pa s
  fs.foldl (fun s f => if f.2.2 = 0 then s else areaWrite s (pa + f.1) (leBytes f.2.1 f.2.2)) (areaClear s pa 0x60000)

/-! Reading the area back (R424). -/

structure Area where
  s : State
  pa : Nat
def rd (A : Area) (off len : Nat) : Nat := areaNat A.s (A.pa + off) len
def rdSp {n : Nat} (A : Area) (base stride len count : Nat) : Sp (BitVec n) :=
  (List.range count).foldl (fun m k => spSet 0 m k (BitVec.ofNat n (rd A (base + stride * k) len))) []
def rdWords (A : Area) (base n : Nat) : List Word := (List.range n).map (fun i => BitVec.ofNat 32 (rd A (base + 4 * i) 4))

/-- The parts of a snapshot entry as the area holds them. -/
def rdSnap (A : Area) (k : Nat) : Bool × Nat × PathSlot × Snap :=
  let base := 0x1000 + 1088 * k
  let h := rd A base 8
  let cls := nbits h 19 16
  let es := if cls = 0 || cls = 7 || cls = 11 then [0] else (List.range 16).filter (fun e => (nbits h 47 32).testBit e)
  (h.testBit 63, nbits h 15 0, if h.testBit 48 then .B else .A,
   ⟨cls, nbits h 25 20, nbits h 27 26, nbits h 31 28,
    es.map (fun e => (e, BitVec.ofNat 16 (rd A (base + 0x20 + 2 * e) 2), BitVec.ofNat 512 (rd A (base + 0x40 + 64 * e) 64)))⟩)
def wordsOf (n v : Nat) : List Word := (List.range n).map (fun i => BitVec.ofNat 32 (v / 2 ^ (32 * i)))
def ones16 (m : Half) : Nat := ((List.range 16).filter (fun i => m.getLsbD i)).length
/-- Bits of the 32-bit lanes of a mask, as part k of a pattern bank. -/
def laneMask (m : Half) (k : Nat) : BitVec 4096 :=
  BitVec.ofNat 4096 ((List.range 16).foldl (fun a i => if m.getLsbD i then a + (2 ^ 32 - 1) * 2 ^ (32 * i) else a) 0 * 2 ^ (512 * k))
/-- The result of one entry of the area, which writes its lanes alone. The layout has no element width: a tile group takes
that of the result it was captured from, others are 32-bit lines (log entry 25). -/
def wrOf (old : Option Wr) (x : Snap) : Option Wr :=
  let on : List (Nat × Half × BitVec 512) := x.parts.filter (fun p => p.2.1.getLsbD 0)
  let line (t : Tile) : Wr := .line t (dirAt x.dir) x.idx x.parts
  match x.cls with
  | 0 => some (.s x.num ((x.parts.headD (0, 0, 0)).2.2.setWidth 64))
  | 1 => some (.x x.num (on.map (fun p => (p.1, p.2.2.setWidth 32))))
  | 2 => some (.v x.num x.parts)
  | 3 => some (.p x.num (x.parts.map (fun p => (p.1, p.2.1, p.2.2.setWidth 16))))
  | 4 =>
    (match old with
     | some (.group _ _ _ es) => some (.group (.m (BitVec.ofNat 3 x.num)) (dirAt x.dir) x.idx (x.parts.map (fun p =>
         let wg : Nat × Nat := match es.find? (fun q => q.1 == p.1) with | some q => (q.2.1, q.2.2.1) | none => (32, 0)
         (p.1, wg.1, wg.2, p.2))))
     | _ => some (line (.m (BitVec.ofNat 3 x.num))))
  | 5 => some (line (.c (BitVec.ofNat 5 x.num)))
  | 6 => some (.ep (on.map (fun p => (p.1, p.2.2.getLsbD 0))))
  | 7 => some (.lc x.num ((x.parts.headD (0, 0, 0)).2.2.setWidth 32))
  | 8 => some (.shape (on.map (fun p => (p.1, p.2.2.setWidth 32))))
  | 9 =>
    if x.num = 1 then some (.patSwap (on.map (·.1)))
    else some (.patLoad (x.parts.map (fun p => (p.1, laneMask p.2.1 (x.idx % 8), BitVec.ofNat 4096 (p.2.2.toNat * 2 ^ (512 * (x.idx % 8)))))))
  | 10 => some (.qpush x.num (x.parts.map (fun p => (p.1, wordsOf (ones16 p.2.1) p.2.2.toNat))))
  | 11 => some (.lnk ((x.parts.headD (0, 0, 0)).2.2.setWidth 52))
  | _ => none
/-- The captured result that each entry was written from, in the entries' order. -/
def snapSources (fs : List Flight) : List Flight := fs.flatMap (fun f => (snapsOf f.w).map (fun _ => f))
/-- Results in flight after a resume at gang cycle c: the valid entries of the area, in the order stored, and those that
have no class. -/
def rdFlights (A : Area) (c : Nat) (fs : List Flight) : List Flight :=
  let src := snapSources fs
  fs.filter (fun f => (snapsOf f.w).isEmpty)
    ++ (List.range (nbits (rd A 0x28 8) 21 16)).filterMap (fun k =>
      let x := rdSnap A k
      if !x.1 then none
      else (wrOf (src[k]?.map (·.w)) x.2.2.2).map (fun w => ⟨c + x.2.1, x.2.2.1, w, none, (src[k]?.map (·.t0)).getD c⟩))
/-- A path of the area. Where it was eligible before the stop and its delay could not be told, the delay goes on from there (R420). -/
def rdPath (A : Area) (off c : Nat) (P : Path) : Path :=
  let v := rd A off 32
  let w := nbits v 127 120
  { P with pc := BitVec.ofNat 52 (nbits v 255 204), lnk := BitVec.ofNat 52 (nbits v 203 152), mask := BitVec.ofNat 16 (nbits v 151 136),
           elig := if !P.waited && w == P.elig - c then P.elig else c + w, entering := enteringAt (nbits v 119 118), live := v.testBit 117, onspare := v.testBit 116 }
def rdEng (A : Area) (b : Nat) (E : Engine) : Engine :=
  let h := rd A (b + 0x2850) 8
  let o := rd A (b + 0x2858) 8
  let n := rd A (b + 0x2860) 8
  { E with
    v := rdSp A b 64 64 32, m := rdSp A (b + 0x800) 64 64 128, x := rdSp A (b + 0x2800) 4 4 16
    p := (List.range 7).foldl (fun m k => spSet 0 m (k + 1) (BitVec.ofNat 16 (rd A (b + 0x2842 + 2 * k) 2))) []
    k := nbits h 63 56, cols := nbits h 55 48, rows := nbits h 46 40, patBank := h.testBit 32, ep := h.testBit 0
    row0 := BitVec.ofNat 16 (nbits o 31 16), col0 := BitVec.ofNat 16 (nbits o 15 0)
    q0 := rdWords A (b + 0x2900) (nbits n 8 0), q1 := rdWords A (b + 0x2D00) (nbits n 24 16)
    q2 := rdWords A (b + 0x3100) (nbits n 37 32), q3 := rdWords A (b + 0x3180) (nbits n 53 48)
    cb := rdSp A (b + 0x3200) 1 1 2048, fmtt := rdSp A (b + 0x3A00) 32 32 16, pat := rdSp A (b + 0x3C00) 512 512 2
    cfgA := BitVec.ofNat 32 (rd A (b + 0x4C80) 4), cfgB := BitVec.ofNat 32 (rd A (b + 0x4C84) 4)
    ringHead := rd A (b + 0x4C88) 4, ringTail := rd A (b + 0x4C8C) 4, spillCount := rd A (b + 0x4C90) 4
    spillFull := rd A (b + 0x4C94) 4 % 2 == 1, predMask := BitVec.ofNat 4096 (rd A (b + 0x4CA0) 512) }

/-- A pending placement of the area (R423); a number is the last one below `next` with its 15 bits. -/
def rdPend (o : TOp) (next c v : Nat) : Pend :=
  let low := nbits v 46 32
  let e := nbits v 63 48
  { key := BitVec.ofNat 32 v
    num := (match o.ins with | .jins .. => 8 * low | _ => next - (next - low) % 2 ^ 15)
    v := (if e = 0x8000 then (if nbits v 127 64 = 0 then .inf (v.testBit 47) else .nan)
          else .fin (v.testBit 47) (nbits v 127 64) ((BitVec.ofNat 16 e).toInt))
    ready := c }
/-- The stopped join-class instruction as the header shows it; its placements go first (07 R181). A header with no
instruction, or one that is no T instruction, leaves none. -/
def rdJoin (A : Area) (b c : Nat) (o : TOp) : Option TOp :=
  let withHead (i : Instr) : TOp :=
    { o with ins := i, xa := BitVec.ofNat 32 (rd A (b + 0x4008) 4), xb := BitVec.ofNat 32 (rd A (b + 0x400C) 4),
             xc := BitVec.ofNat 32 (rd A (b + 0x4010) 4) }
  match o.join, (decodeT (BitVec.ofNat 64 (rd A (b + 0x4000) 8))).toOption with
  | none, some i => some (withHead i)
  | some j, some i =>
    let o := withHead i
    let f := rd A (b + 0x4028) 4
    let next := rd A (b + 0x4024) 4
    some { o with join := some { j with
      a := rd A (b + 0x4014) 4, b := rd A (b + 0x4018) 4, ga := rd A (b + 0x401C) 4, gb := rd A (b + 0x4020) 4, next := next
      pend := (List.range (min (f % 256) 128)).map (fun k => rdPend o next c (rd A (b + 0x4040 + 16 * k) 16))
      finished := f.testBit 8, code := if f.testBit 9 then 1 else 0
      refused := if f.testBit 10 then some (rd A (b + 0x402C) 4) else none
      total := rd A (b + 0x4030) 4, banks := [], spilt := false, resumed := true } }
  | _, none => none
/-- The stopped Sage instruction as its header shows it, evaluated on from the row it reached (R187). -/
def rdSage (A : Area) (G : Gang) (W : Win) (b n : Nat) (o : TOp) : Option TOp :=
  match o.sage, (decodeT (BitVec.ofNat 64 (rd A (b + 0x4840) 8))).toOption with
  | some q, some i =>
    let m := rd A (b + 0x487C) 1
    let o := { o with ins := i, tbl := (List.range 4).map (fun k => BitVec.ofNat 64 (rd A (b + 0x4848 + 8 * k) 8))
                      fa := fmtOf (BitVec.ofNat 4 (nbits m 7 4))
                      ea := BitVec.ofNat 256 (rd A (b + 0x4870) 12 * 2 ^ 160 + nbits m 1 0 * 2 ^ 10) }
    let r := sageFrom ⟨G, W, o, n⟩ q.start (rd A (b + 0x4868) 2) (BitVec.ofNat 32 (rd A (b + 0x486C) 4)) (rd A (b + 0x486A) 2)
      (rdWords A (b + 0x4880) (min 256 q.sb.length))
    some { o with done := some r.done, out := some r.wrs, pushes := r.rows, sage := r.run }
  | _, _ => none
/-- The T instructions of a resumed gang: those that had begun and stopped come from the area. -/
def rdTops (A : Area) (G : Gang) (W : Win) (n c : Nat) : List TOp :=
  G.tops.filterMap (fun o =>
    let b := 0x10000 + 0x5000 * o.eng
    if stopsInJoin o then rdJoin A b c o
    else if o.begun && o.sage.isSome then rdSage A G W b n o
    else some o)

/-- A reserved field that is not 0, or a count beyond its queue's depth (R424); the team-wide part belongs to the lower gang's area
alone (R418). -/
def areaRsv (A : Area) (upper : Bool) : Bool :=
  let gap (off len : Nat) : Bool := rd A off len != 0
  let pathBad (off : Nat) : Bool := let v := rd A off 32; nbits v 135 128 != 0 || nbits v 114 0 != 0
  let cause := rd A 0 32
  let cnt := rd A 0x318 8
  let misc := rd A 0x320 8
  let qs := rd A 0x980 8
  let rs := rd A 0x28 8
  let eng (e : Nat) : Bool :=
    let b := 0x10000 + 0x5000 * e
    let h := rd A (b + 0x2850) 8
    let n := rd A (b + 0x2860) 8
    nbits h 47 47 != 0 || nbits h 39 33 != 0 || nbits h 31 1 != 0 || rd A (b + 0x285C) 4 != 0
    || nbits n 15 9 != 0 || nbits n 31 25 != 0 || nbits n 47 38 != 0 || nbits n 63 54 != 0
    || decide (256 < nbits n 8 0) || decide (256 < nbits n 24 16) || decide (32 < nbits n 37 32) || decide (32 < nbits n 53 48)
    || decide (128 < rd A (b + 0x4028) 1) || gap (b + 0x2868) 0x98 || gap (b + 0x4EA0) 0x160
  let entry (k : Nat) : Bool :=
    let v := rd A (0x380 + 32 * k) 32
    nbits v 255 252 != 0 || nbits v 115 7 != 0 || (!v.testBit 0 && v.testBit 1)
  (List.range (min (nbits misc 31 24) 8)).any entry
    || nbits cause 105 104 != 0 || nbits cause 11 4 != 0 || nbits rs 7 3 != 0 || nbits rs 15 9 != 0 || nbits rs 63 22 != 0
    || decide (48 < nbits rs 21 16) || gap 0x30 0xD0
    || nbits cnt 7 6 != 0 || nbits cnt 15 14 != 0 || nbits cnt 23 22 != 0 || nbits cnt 31 30 != 0 || nbits cnt 63 38 != 0
    || nbits misc 23 18 != 0 || nbits misc 39 37 != 0 || nbits misc 63 45 != 0 || decide (136 < nbits misc 31 24) || gap 0x328 0x18
    || pathBad 0x340 || pathBad 0x360
    || nbits qs 7 7 != 0 || nbits qs 15 15 != 0 || nbits qs 23 23 != 0 || nbits qs 63 31 != 0
    || decide (64 < nbits qs 6 0) || decide (64 < nbits qs 14 8) || decide (64 < nbits qs 22 16) || decide (64 < nbits qs 30 24)
    || gap 0x988 0x18 || gap 0xBA8 0x58 || (upper && gap 0xC00 0x400) || gap 0xDC00 0x2400
    || (List.range 48).any (fun k => nbits (rd A (0x1000 + 1088 * k) 8) 62 49 != 0 || gap (0x1000 + 1088 * k + 8) 24)
    || (List.range 16).any eng

/-- A path of the area is parked where its governing entry is a pair entry that marks it arrived (13 R303). -/
def rdArrived (A : Area) (R : Gang) (p : PathSlot) (P : Path) : Path :=
  { P with parked := P.live && (match (R.stack ++ spilledEnts A.s R).find? (governs p) with
      | some v => !(entOf v).deferred && (match p with | .A => (entOf v).arra | .B => (entOf v).arrb)
      | none => false) }
/-- The context of a gang as its save area gives it; what the area has no layout for comes from the capture. -/
def readGang (A : Area) (S : Gang) : Gang :=
  let c := S.stopAt
  let cnt := rd A 0x318 8
  let misc := rd A 0x320 8
  let qs := rd A 0x980 8
  let n := if nbits misc 31 24 = stackDepth S then S.stack.length else min (nbits misc 31 24) 8
  let R : Gang := { S with
    s := rdSp A 0x100 8 8 64, lc := rdSp A 0x300 4 4 4, abase := BitVec.ofNat 52 (rd A 0x310 8)
    ntile := nbits cnt 5 0, njoin := nbits cnt 13 8, npred := nbits cnt 21 16, ncopy := nbits cnt 29 24, nstore := nbits cnt 37 32
    retired := BitVec.ofNat 16 (nbits misc 15 0), spareReq := misc.testBit 17
    div := c + nbits misc 36 32, divSpare := c + nbits misc 44 40
    a := rdPath A 0x340 c S.a, b := rdPath A 0x360 c S.b, turn := if (rd A 0x360 32).testBit 115 then .B else .A
    stack := ((List.range n).map (fun k => BitVec.ofNat 256 (rd A (0x380 + 32 * k) 32))).reverse
    spilled := nbits misc 31 24 - n, stkb := rd A 0x20 8
    d := rdSp A 0x480 32 32 8
    q4 := rdWords A 0x580 (nbits qs 6 0), q5 := rdWords A 0x680 (nbits qs 14 8)
    q6 := rdWords A 0x780 (nbits qs 22 16), q7 := rdWords A 0x880 (nbits qs 30 24)
    latch := rdSp A 0x9A0 8 8 64, fresh := BitVec.ofNat 64 (rd A 0xBA0 8)
    flight := rdFlights A c (landOrder S.flight)
    eng := (List.range 16).map (fun e => (e, rdEng A (0x10000 + 0x5000 * e) (getEng S e))) }
  { R with a := rdArrived A R .A R.a, b := rdArrived A R .B R.b }

end Sys2Proof.Machine
end

