-- ==== Sys2Proof/Machine/Capture.lean ====
section
/-! DEFINITION. Stopping a gang at a boundary, capturing it, what its team becomes, and resuming it (13 R309, R310; 21
R413–R415, R418, R424–R426; 15 R351, R354; 09 R228). -/

namespace Sys2Proof.Machine

/-! The boundary and the drain. -/

/-- At a boundary a stopping gang whose results in flight need 48 entries or fewer captures there (R309). -/
def stopBoundary (G : Gang) : Gang :=
  match G.stopReq with
  | some r =>
    if (G.run = .run || G.run = .finishing) && decide (G.stopAt ≤ G.gc) && G.frozen == 0 && decide (snapCount G.flight ≤ 48)
    then { G with run := .stopped r, stopAt := G.gc } else G
  | none => G
def ilkDrains (halt : Bool) (k : Ilk) : Bool :=
  match k.src with
  | .mem _ => true
  | .at _ _ => !halt
  | .sred _ _ => false
  | .sbc _ => false
/-- A stopped gang has gangDrained: its stores and interlocked accesses are done, and what runs to its end has (R148, R413). -/
def gangDrained (G : Gang) (r : Reason) : Bool :=
  G.txns.all isApLoad && !(G.ilks.any (ilkDrains (r == .halt)))
    && (r == .halt || G.tops.all (fun o => !(o.begun && endsOnStop o))) && G.frozen == 0
/-- The data of aperture loads still out is brought before the capture, so that the snapshot holds it; one that met a poisoned
sector is not written, and its cause is deferred (11 R254, 21 R412). -/
def bringLoads (s : State) (g : Nat) : State :=
  ((getGang s g).txns.filter isApLoad).foldl (fun s T =>
    let s := forceTxn s g T.id
    let s := if T.due.isNone then modGang s g (fun G => returnLoad G.stopAt G T) else s
    match findTxn (getGang s g) T.id with
    | none => s
    | some T =>
      let bad := T.accs.filter (·.bad)
      let s := modGang s g (fun G => { dropTxn T.id G with
        flight := if bad.isEmpty then G.flight.map (fillFlight T) else G.flight.filter (fun f => f.txn != some T.id) })
      if bad.isEmpty then s else deferMem s g T ((bad.head?.map (·.va)).getD 0) (maskOf (bad.map (·.eng)))) s

/-! Capture. -/

/-- The spare is released; path B will ask for it again (R309, R310). One released before stays so. DESIGN CHOICE (log entry 132): the
pair entry of such a path is saved with split 0 and spreq 1. -/
def loseSpare (g : Nat) (s : State) : State :=
  if (getGang s g).spare && (getGang s g).spareFreeAt.isNone then setPair s g (fun e => { e with split := false, spreq := true }) else s
/-- A gang that has stopped gives up the spare at that boundary, and a handover in progress is abandoned; a halted one keeps it (R309;
21 R425). -/
def giveUpSpare (s : State) (g : Nat) : State :=
  match (getGang s g).run with
  | .stopped r =>
    if r != .halt && (getGang s g).spare && (getGang s g).spareFreeAt.isNone then
      modGang (loseSpare g s) g (fun G => { G with spare := false, handoverEnd := none, spareLost := nowCyc s })
    else s
  | .idle | .run | .halted | .finishing => s
/-- The low `ne` bits of a mask replaced by those of v below bit n. -/
def lowBits (ne n : Nat) (v m : BitVec 4096) : BitVec 4096 :=
  let low : Nat := v.toNat % 2 ^ (min ne n)
  BitVec.ofNat 4096 (m.toNat / 2 ^ ne * 2 ^ ne + low)
/-- A PRED stopped in progress has written the mask bits of the rows it has evaluated (07 R187). -/
def stoppedMasks (c : Nat) (G : Gang) : Gang :=
  (G.tops.filter (fun o => o.begun && o.sage.isSome)).foldl (fun G o =>
    (o.out.getD []).foldl (fun G w => match w with
      | .predMask ne v => modEng G o.eng (fun E => { E with predMask := lowBits ne (sageReached o c).1 v E.predMask })
      | _ => G) G) G
/-- The parity marks of a gang's registers leave with its context. -/
def marksOnly (hw : Sp EngineHw) : Sp EngineHw := hw.map (fun h => (h.1, { EngineHw.clear with regBad := h.2.regBad }))
def markWaited (s : State) (g : Nat) (p : PathSlot) (G : Gang) : Gang :=
  modPath G p (fun P => { P with waited := P.waited || (pathDelay s g p).isSome, hold := P.hold })
/-- An interlocked value whose access is done stands in its register before a halt writes the area: what the debugger writes there
then stays (R425). Log entry 124. -/
def settleIlks (G : Gang) : Gang :=
  G.ilks.foldl (fun G k => match k.src with
    | .at _ v => dropIlk k.id (writeIlk k v G)
    | .mem _ | .sred _ _ | .sbc _ => G) G
/-- The gang's context goes into its save area, and into Team.saved where the area has no layout for it. -/
def captureGang (s : State) (g : Nat) (r : Reason) : State :=
  match (getGang s g).team with
  | none => s
  | some t =>
    match getTeam s t with
    | none => s
    | some T =>
      let s := bringLoads s g
      let c := (getGang s g).stopAt
      let s := if r = .halt then modGang s g settleIlks else modGang (loseSpare g s) g (stoppedMasks c)
      let (n, s) := drawFree s
      let s := writeArea s g (savePa s g T.slot) r c (if T.gangs.all (fun h => decide (g ≤ h)) then n else 0)
      let s := modGang s g (fun G => markWaited s g .A (markWaited s g .B G))
      if r = .halt then modGang s g (fun G => { G with run := .halted, stopReq := if G.preempted then some .preempt else none, preempted := false })
      else
        let s := keepSpare g (publishTeam s t)
        let G := getGang s g
        let s := modTeam s t (fun T => { T with saved := spPut T.saved g { G with hw := marksOnly G.hw, l1 := [], spare := false } })
        setGang s g (idleGang G)

/-- All gangs of a team that have not finished are saved. -/
def allSaved (T : Team) : Bool := T.gangs.all (fun g => T.done.contains g || (spFind T.saved g).isSome)
def savedReason (T : Team) (f : Reason → Bool) : Bool :=
  T.saved.any (fun h => match h.2.run with | .stopped r => f r | _ => false)
def restartable (T : Team) : Bool := T.bits.getLsbD 10 && (nbits T.bits.toNat 7 0 == 2 || nbits T.bits.toNat 7 0 == 3)
/-- A discarded team's tile step starts again from its record (15 R351), which goes on waiting if other steps of it already wait
(15 R352). -/
def redoStep (s : State) (T : Team) : State :=
  modBank s T.die T.bank (fun B => { B with recs := B.recs.map (fun r =>
    if r.id = T.recId then { r with redo := r.redo ++ [T.num],
                                    readySince := if (nextStep r).isSome then r.readySince else s.tick } else r) })
/-- Once every gang is saved the team is trapped, or parked, or discarded. -/
def settleTeam (s : State) (t : Nat) : State :=
  match getTeam s t with
  | none => s
  | some T =>
    if T.run = .running && allSaved T && !T.saved.isEmpty then
      if savedReason T (fun r => r == .trap || r == .partner) then
        T.gangs.foldl (fun s g => if (spFind T.saved g).any (fun S => S.run == .stopped .trap) then raiseIrq s (.trap (gangDie g) (gangPhys g)) else s)
          (modTeam s t (fun T => { T with run := .trapped, savedOk := [] }))
      else if restartable T then endAdmission (redoStep (publishTeam s t) T) t
      else modTeam s t (fun T => { T with run := .parked, since := s.tick, readySince := none })
    else s
/-- A gang stopped for one of the given reasons and gangDrained. -/
def captureReady (s : State) (g : Nat) (f : Reason → Bool) : Bool :=
  let G := getGang s g
  match G.run with
  | .stopped r => f r && gangDrained G r
  | _ => false
def stopReason (G : Gang) : Reason :=
  match G.run with
  | .stopped r => r
  | _ => .switch
/-- A capture: of a debugger's halt the gang stays in place. -/
def capture (s : State) (g : Nat) : State :=
  let t := (getGang s g).team
  let s := captureGang s g (stopReason (getGang s g))
  match t with
  | some t => settleTeam s t
  | none => s

/-! Thyme results take effect in a member (09 R217, R219, R220; 10 R246; 11 R284). -/

/-- A round's result: an acquire in every path, and the value in the register that waits for it. -/
def takeRound (ch num : Nat) (v : Option Word) (G : Gang) : Gang :=
  let G := acquirePath (acquirePath G .A) .B
  { G with ilks := G.ilks.map (fun k => match k.src with
      | .sred c n => if c = ch ∧ n = num then { k with src := .at G.gc ((v.getD 0).setWidth 64) } else k
      | _ => k) }
def takeSbc (ch : Nat) (v : DWord) (G : Gang) : Gang :=
  { G with latch := spSet 0 G.latch ch v, fresh := G.fresh ||| BitVec.twoPow 64 ch }
def takeHeld (G : Gang) : Gang :=
  G.heldThyme.foldl (fun G h => match h with
    | .round ch num v => takeRound ch num v G
    | .sbc ch v => takeSbc ch v G) { G with heldThyme := [] }
/-- A result for a gang of a team, wherever its context stands: held while it is frozen, stopped or saved. -/
def giveThyme (s : State) (t g : Nat) (h : Held) : State :=
  let G := getGang s g
  if G.team = some t then
    (if ticking G && (G.run == .run || G.run == .finishing) then modGang s g (fun G => takeHeld { G with heldThyme := G.heldThyme ++ [h] })
     else modGang s g (fun G => { G with heldThyme := G.heldThyme ++ [h] }))
  else modTeam s t (fun T => match spFind T.saved g with
    | some S => { T with saved := spPut T.saved g { S with heldThyme := S.heldThyme ++ [h] } }
    | none => T)

/-! Resume (R310, R420, R424). -/

def awakePath (P : Path) : Path := { P with hold := if P.barOpen.isSome then .barrier else if P.hold = .fault then .fault else .none, trapped := false }
/-- Elements of m registers that a debugger has rewritten while an instruction stood in its unit: where both write, either
value stands in the end (R425). -/
def rewritten (old new : Engine) (o : TOp) : TOp :=
  let w := match o.ins with | .tdec .. => 8 | .ttrn .. => max 1 o.fa.width | _ => 32
  let part (E : Engine) (k i : Nat) : Nat := (spGet 0 E.m k).toNat / 2 ^ (w * i) % 2 ^ w
  { o with hits := o.hits ++ (List.range 128).flatMap (fun k =>
      ((List.range (512 / w)).filter (fun i => part old k i != part new k i)).map (fun i => (k, w * i, w))) }
/-- The context S of a gang of team t resumes on the gang. -/
def resumeGang (s : State) (g t : Nat) (S : Gang) : State :=
  match getTeam s t with
  | none => s
  | some T =>
    let pa := savePa s g T.slot
    if areaBad s pa 0x60000 then endContext s T.ctx 0x0F 0 (locator s T.ctx g 0)
    else if areaRsv ⟨s, pa⟩ (T.gangs.any (fun h => decide (h < g))) then endContext s T.ctx 0x09 0 (locator s T.ctx g 0)
    else
      let H := getGang s g
      let R := readGang ⟨s, pa⟩ S
      let halt := S.run == .halted
      let ask := R.spareReq || (R.b.live && R.b.onspare && !halt)
      let hw := if halt then H.hw else (List.range 16).foldl (fun m e =>
          let h := (spFind m e).getD EngineHw.clear
          spPut m e { h with regBad := ((spFind S.hw e).getD EngineHw.clear).regBad }) H.hw
      let (n, s) := drawFree (spendArea pa s)
      let G : Gang := { R with
        hw := hw, l1 := [], tops := if halt then S.tops.map (fun o => rewritten (getEng S o.eng) (getEng R o.eng) o) else rdTops ⟨s, pa⟩ { R with hw := hw } (teamWin T) n S.stopAt, frozen := H.frozen, freezes := H.freezes, gc := S.stopAt, team := some t
        run := if R.a.live || R.b.live then .run else .finishing
        stopReq := if halt then S.stopReq else none, stopAt := S.stopAt + 1, cause := none, preempted := false, incoming := none, lastIssue := S.stopAt
        a := awakePath R.a, b := { awakePath R.b with onspare := R.b.onspare && halt }
        spare := halt && S.spare, spareReq := ask, spareAskAt := nowCyc s - 1
        handoverEnd := if halt then S.handoverEnd else none
        stepLeft := none }
      let s := refillStack g (setGang s g (takeHeld G))
      modTeam s t (fun T => { T with saved := spDel T.saved g })
def resumeSaved (s : State) (g t : Nat) : State :=
  match (getTeam s t).bind (fun T => spFind T.saved g) with
  | some S => resumeGang s g t S
  | none => s
/-- A parked team runs again on all its gangs (15 R355). -/
def switchIn (s : State) (t : Nat) : State :=
  match getTeam s t with
  | none => s
  | some T =>
    let s := modTeam s t (fun T => { T with run := .running, ranAt := s.tick, readySince := none, peff := T.pdecl })
    T.gangs.foldl (fun s g => if T.done.contains g then s else resumeSaved s g t) s

end Sys2Proof.Machine
end

