-- ==== Sys2Proof/Machine/GangEvents.lean ====
section
/-! DEFINITION. The steps of a gang beside its bundles: queue pops, landings, path resolution, the spare sequencer, the
finish, traps, captures, switches, halts and resumes, the watchdog (02 R35, R50–R59; 13 R305–R310; 14 R325; 15
R354, R355; 21 R411–R416, R425, R426). -/

namespace Sys2Proof.Machine

/-! DELAY_ONLY_BUNDLE and the pop mask. -/

/-- The queues of a pop mask advance by one entry (R50, R51). -/
def popQueues (pop : BitVec 8) (s : State) : State :=
  (List.range 8).foldl (fun s k =>
    if !pop.getLsbD k then s
    else if k < 4 then
      (actives s).foldl (fun s e => modCur s (fun G => notePop k e (modEng G e (fun E => setQ k (qOf E k).tail E)))) s
    else modCur s (fun G => notePop k 16 (setGangQ k (gangQ G k).tail G))) s
def popWait (pop : BitVec 8) (s : State) : Bool := (List.range 8).any (fun k => pop.getLsbD k && queueWait s k)
def delayOnlyCheck (pop : BitVec 8) (s : State) : Verdict := waitUnless (!popWait pop s) .queue
/-- A bundle without a slot: its delay has passed, and its pops are made (R35). -/
def execDelayOnly (delay : BitVec 6) (pop : BitVec 8) (s : State) : Outcome :=
  commit (.delayOnly delay pop) (delayOnlyCheck pop s) (popQueues pop) s

/-! Landings (R56, R59). -/

/-- A gang whose results land: it has gang cycles and is not saved. -/
def landsNow (G : Gang) : Bool := G.frozen == 0 && (G.run == .run || G.run == .finishing)
def landDue (G : Gang) : Bool := landsNow G && G.flight.any (fun f => decide (f.land ≤ G.gc))
/-- The paths that have a store in flight behind them: both, where it was issued before the GIF that divided its path (10 R232). -/
def storeOwners (G : Gang) (f : Flight) : List PathSlot :=
  if f.t0 < G.gifGc && f.path == .A && G.a.live && G.b.live then [.A, .B] else [f.path]
/-- The paths whose copies may read the words it replaces as they were: a release of an owner after the store orders it before the
copies of that owner, and of every path where there is one owner (10 R233, R243). -/
def storeSeen (G : Gang) (f : Flight) : List PathSlot :=
  let past (q : PathSlot) : Bool := decide (f.t0 < (match q with | .A => G.relGc.1 | .B => G.relGc.2))
  if storeOwners G f = [f.path] then (if past f.path then [] else [.A, .B])
  else [PathSlot.A, .B].filter (fun q => !past q)
/-- The words that a store lands, each beside what it replaces, while some copy may read them as they were (10 R233, R243; 16 R363). -/
def replaced (W : Win) (G : Gang) (f : Flight) : List OldWord :=
  let seen := storeSeen G f
  if seen.isEmpty then []
  else match f.w with
    | .spad es => es.flatMap (fun x => x.2.map (fun w => ⟨x.1, w.1, spadWord (getHw G x.1) W w.1, w.2, storeOwners G f, seen⟩))
    | _ => []
/-- A result lands. What a copy may read in place of the words it replaces is kept: of each word the last value. -/
def landOne (W : Win) (G : Gang) (f : Flight) : Gang :=
  let ws := replaced W G f
  applyWr W f.path f.w
    { G with oldWords := ws ++ G.oldWords.filter (fun x => !ws.any (fun y => y.eng == x.eng && y.addr == x.addr)) }
/-- The results of this gang cycle land, in issue order. -/
def landAll (W : Win) (G : Gang) : Gang :=
  (G.flight.filter (fun f => decide (f.land ≤ G.gc))).foldl (landOne W)
    { G with flight := G.flight.filter (fun f => !decide (f.land ≤ G.gc)) }
def execResultLand (g : Nat) (s : State) : Outcome :=
  .next (if landDue (getGang s g) then modGang s g (landAll (gangWin s g)) else s)

/-! Path resolution (R305). -/

def resolveReady (G : Gang) (p : PathSlot) : Bool :=
  landsNow G && G.run == .run && (match (getPath G p).resolveAt with | some t => decide (t < G.gc) | none => false)
/-- A resolution that poison in the spill region has stopped waits until its trap has been served. -/
def resolveStuck (s : State) (G : Gang) (p : PathSlot) : Bool := searchBad s G p && (G.cause.isSome || G.defCause.isSome)
def execPathResolve (g : Nat) (p : PathSlot) (s : State) : Outcome :=
  .next (match (getPath (getGang s g) p).resolveAt with
    | some t => if resolveReady (getGang s g) p then recheckTeam (resolveLoop g p t 300 s) g else s
    | none => s)

/-! The spare sequencer (R306, R307). -/

def spareFree (s : State) (pair : Nat) : Bool :=
  !holdsSpare (getGang s (2 * pair)) && !holdsSpare (getGang s (2 * pair + 1)) && decide ((getPair s pair).spareBusy ≤ nowCyc s)
/-- A request that is not passed over: made in an earlier cycle, by a gang that runs. -/
def spareAsks (s : State) (g : Nat) : Bool :=
  let G := getGang s g
  G.spareReq && decide (G.spareAskAt < nowCyc s) && G.run == .run && !stopping G && G.b.live && !G.b.onspare
/-- Gang g released the spare while gang h had its request recorded: h receives it, whatever g asks for. -/
def gaveTo (s : State) (g h : Nat) : Bool :=
  decide ((getGang s h).spareLost < (getGang s g).spareLost) && decide ((getGang s h).spareAskAt < (getGang s g).spareLost)
/-- The gang of a pair that the spare is for: the one whose recorded request a release met, the earlier request, the lower gang
of two. -/
def spareFor (s : State) (pair : Nat) : Option Nat :=
  let a := 2 * pair
  let b := 2 * pair + 1
  if spareAsks s a && (!spareAsks s b || gaveTo s b a
      || (!gaveTo s a b && decide ((getGang s a).spareAskAt ≤ (getGang s b).spareAskAt))) then some a
  else if spareAsks s b then some b
  else none
/-- It receives a free spare in a gang cycle of its own; while a freeze holds it the spare stays free for it. -/
def spareWinner (s : State) (pair : Nat) : Option Nat :=
  if spareFree s pair then (spareFor s pair).filter (fun g => (getGang s g).frozen == 0) else none
/-- The spare with its divider, which the other gang may have left occupied (14 R319). -/
def grantSpare (g : Nat) (s : State) : State :=
  let H := getGang s (partnerOf g)
  let s := modGang s g (fun G => { G with
    spare := true, spareFreeAt := none, spareReq := false, handoverEnd := some (G.gc + 6), b := { G.b with onspare := true }
    divSpare := max G.divSpare (G.gc + (H.divSpare - H.gc)) })
  setPair s g (fun e => { e with split := true, spreq := false })
def execSpareGrant (pair : Nat) (s : State) : Outcome :=
  .next (match spareWinner s pair with
    | some g => grantSpare g s
    | none => s)
def handoverDue (G : Gang) : Bool :=
  landsNow G && (match G.handoverEnd with | some c => decide (c ≤ G.gc) | none => false)
/-- Path B issues on the spare from now on. -/
def execSpareHandoverEnd (g : Nat) (s : State) : Outcome :=
  .next (if handoverDue (getGang s g) then modGang s g (fun G => { G with handoverEnd := none }) else s)

/-! Finish (14 R325). -/

def countersZero (G : Gang) : Bool := G.ntile == 0 && G.njoin == 0 && G.npred == 0 && G.ncopy == 0 && G.nstore == 0
def finishOver (G : Gang) : Bool := G.run == .finishing && G.frozen == 0 && !stopping G && G.flight.isEmpty && countersZero G
def finishReady (G : Gang) : Bool := finishOver G && G.defCause.isNone && G.team.isSome
/-- The gang's queues go, private versions are published, and Barista is told; with the last gang the team completes. -/
def finishGang (s : State) (g : Nat) : State :=
  match (getGang s g).team with
  | none => s
  | some t =>
    let s := match getTeam s t with
      | some T => { s with left := s.left ++ leftOf T.ctx t T.recId g (getGang s g) }
      | none => s
    let s := modGang (keepSpare g (publishTeam s t)) g idleGang
    let s := modTeam s t (fun T => { T with done := g :: T.done })
    match getTeam s t with
    | some T => if T.gangs.all (fun h => T.done.contains h) then completeTeam s t else s
    | none => s
def execGangFinish (g : Nat) (s : State) : Outcome := .next (if finishReady (getGang s g) then finishGang s g else s)

/-! Deferred traps (21 R412). -/

/-- The gang is at a bundle boundary at which a deferred cause is taken; a finishing gang's comes after its counters. -/
def deferredReady (G : Gang) : Bool :=
  G.defCause.isSome && G.cause.isNone && (match G.run with
    | .run => G.frozen == 0
    | .finishing => finishOver G
    | .stopped r => r != .trap && G.frozen == 0 && (G.a.live || G.b.live)
    | .idle | .halted => false)
/-- The bundle the record names. -/
def placeCause (G : Gang) (c : Cause) : Cause :=
  let p := if (getPath G c.path).live then c.path else otherSlot c.path
  if (getPath G p).live then { c with path := p, pc := (getPath G p).pc } else { c with path := G.exitPath, pc := G.exitPc }
/-- The trap is taken at this boundary: nothing issues from it on. -/
def takeDeferred (s : State) (g : Nat) : State :=
  let G := getGang s g
  match G.defCause with
  | none => s
  | some c =>
    modGang (latchTrap s g (placeCause G c)) g (fun H => { H with
      defCause := none, stopAt := (match G.run with | .stopped _ => G.stopAt | _ => G.gc)
      preempted := H.preempted || G.run == .stopped .preempt
      run := (match G.run with | .stopped _ => .stopped .trap | r => r) })
def execDeferredTrap (g : Nat) (s : State) : Outcome := .next (if deferredReady (getGang s g) then takeDeferred s g else s)

/-! Trap entry, partner stop, pre-emption and halt captures (R309, R413, R425). -/

/-- The gang saves itself with reason 2 and its team is trapped once its other gang is saved (R413). -/
def execTrapEntry (g : Nat) (s : State) : Outcome := .next (if captureReady s g (· == .trap) then capture s g else s)
/-- Another gang of the team has trapped. -/
def partnerTrapped (s : State) (g : Nat) : Bool :=
  match (getGang s g).team, gangTeam s g with
  | some t, some T => T.gangs.any (fun h => h != g &&
      (((getGang s h).team == some t && (getGang s h).cause.isSome) || (spFind T.saved h).any (fun S => S.run == .stopped .trap)))
  | _, _ => false
def partnerAsks (s : State) (g : Nat) : Bool :=
  let G := getGang s g
  (G.run == .run || G.run == .finishing) && G.stopReq.isNone && partnerTrapped s g
/-- The last cycle in which the partner still issues is the 15th after the trap (R413). -/
def partnerDue (s : State) (g : Nat) : Bool :=
  partnerAsks s g && (match gangTeam s g with | some T => decide (T.stopCyc + 15 ≤ nowCyc s) | none => false)
def execPartnerStop (g : Nat) (s : State) : Outcome :=
  .next (if captureReady s g (· == .partner) then capture s g
    else if partnerAsks s g then stopGang s g .partner else s)
def execPreemptCapture (g : Nat) (s : State) : Outcome :=
  .next (if captureReady s g (fun r => r == .preempt || r == .halt) then capture s g else s)

/-! Switching (15 R354, R355). -/

/-- A parked team that can start on its gangs now. -/
def canSwitchIn (s : State) (T : Team) : Bool :=
  T.run == .parked && T.gangs.all (fun g => gangIdle s g || T.done.contains g)
/-- The team an idle gang takes: the one a switch chose, or the best ready one that can start (R355). -/
def idleChoice (s : State) (g : Nat) : Option Nat :=
  match (getGang s g).incoming.bind (fun v => (getTeam s v).map (fun T => (v, T))) with
  | some (v, T) => if T.run = .parked then (if canSwitchIn s T then some v else none)
      else (bestOf s ((readyTeamsOf s [g]).filter (fun x => canSwitchIn s x.2))).map (·.1)
  | none => (bestOf s ((readyTeamsOf s [g]).filter (fun x => canSwitchIn s x.2))).map (·.1)
/-- An idle gang takes a parked team at once (R355). -/
def takesTeam (s : State) (g : Nat) : Bool := gangIdle s g && (getGang s g).frozen == 0 && (idleChoice s g).isSome
def switchReady (s : State) (g : Nat) : Bool := captureReady s g (· == .switch) || takesTeam s g
/-- A gang stopped for a switch is saved; an idle gang takes a parked team. -/
def execTeamSwitch (g : Nat) (s : State) : Outcome :=
  .next (if captureReady s g (· == .switch) then capture s g
    else if gangIdle s g && (getGang s g).frozen == 0 then
      (match idleChoice s g with
       | some v => switchIn s v
       | none => s)
    else s)
def thresholdReady (s : State) (g : Nat) : Bool := (switchChoice s g (fun U _ => stalledTeam s U)).isSome
def execSwitchThresholdExpiry (g : Nat) (s : State) : Outcome :=
  .next (match switchChoice s g (fun U _ => stalledTeam s U) with
    | some v => switchTo s v.1
    | none => s)
def quantumReady (s : State) (g : Nat) : Bool := (switchChoice s g (quantumDue s)).isSome
def execQuantumExpiry (g : Nat) (s : State) : Outcome :=
  .next (match switchChoice s g (quantumDue s) with
    | some v => switchTo s v.1
    | none => s)

/-! Commands of the gang control page (21 R415, R417, R425, R426). -/

def gangAt (die gang : Nat) : Nat := 960 * die + gang % 960
/-- A halt of a gang that runs; any other state ignores it. -/
def execHaltCommand (die gang : Nat) (s : State) : Outcome := .next (stopGang s (gangAt die gang) .halt)

/-- The trapped team of a gang whose cause record asks for a resume. -/
def resumeTarget (s : State) (g : Nat) : Option (Nat × Team) :=
  s.teams.find? (fun x => x.2.run == .trapped && (spFind x.2.saved g).isSome && !x.2.savedOk.contains g
    && areaNat s (savePa s g x.2.slot) 1 % 4 == 2)
/-- The length of the bundle at an address: read through the instruction cache, else at its home. -/
def lengthAt (s : State) (g ctx pc : Nat) : Nat :=
  bundleLen (BitVec.ofNat 32 (leNat ((codeHead s g ctx pc).getD [0, 0, 0, 0])))
def pathOff (p : PathSlot) : Nat :=
  match p with | .A => 0x340 | .B => 0x360
/-- The program counter of a path record of the area. -/
def setAreaPc (s : State) (pa : Nat) (p : PathSlot) (pc : Nat) : State :=
  let v := areaNat s (pa + pathOff p) 32
  areaPut s (pa + pathOff p) 32 (v % 2 ^ 204 + pc % 2 ^ 52 * 2 ^ 204)
def clearAreaLive (s : State) (pa : Nat) (p : PathSlot) : State :=
  let v := areaNat s (pa + pathOff p) 32
  areaPut s (pa + pathOff p) 32 (if v.testBit 117 then v - 2 ^ 117 else v)
def modSaved (s : State) (t g : Nat) (f : Gang → Gang) : State :=
  modTeam s t (fun T => match spFind T.saved g with
    | some S => { T with saved := spPut T.saved g (f S) }
    | none => T)
/-- A save area's retired set takes more engines in. -/
def retireInArea (m : Mask) (pa : Nat) (s : State) : State :=
  let v := areaNat s (pa + 0x320) 8
  areaPut s (pa + 0x320) 8 (v / 2 ^ 16 * 2 ^ 16 + (BitVec.ofNat 16 v ||| m).toNat)
/-- The mask of a path that an area shows live. -/
def areaMask (s : State) (pa : Nat) (p : PathSlot) : Mask :=
  let v := areaNat s (pa + pathOff p) 32
  if v.testBit 117 then BitVec.ofNat 16 (nbits v 151 136) else 0
/-- Act 3: every gang of the team ends its live paths, as by EXIT: their engines retire (R415; 14 R325). A gang that was finishing
keeps the EXIT that ended it. -/
def endPaths (s : State) (t : Nat) (T : Team) : State :=
  let s := T.saved.foldl (fun s h =>
    let pa := savePa s h.1 T.slot
    let m := areaMask s pa .A ||| areaMask s pa .B
    modSaved (clearAreaLive (clearAreaLive (retireInArea m pa s) pa .A) pa .B) t h.1 (fun S =>
      let S := if S.a.live then { S with exitPc := S.a.pc, exitPath := .A }
        else if S.b.live then { S with exitPc := S.b.pc, exitPath := .B } else S
      { S with a := { S.a with live := false, resolveAt := none }, b := { S.b with live := false, resolveAt := none } })) s
  recheckGrid s T.ctx T.recId
/-- A path that resumes at another bundle counts that bundle's delay from the resume. -/
def freshBundle (c : Nat) (P : Path) : Path := { P with waited := false, elig := max P.elig c }
/-- The act of a cause record on the trapping path. -/
def applyAct (s : State) (g t : Nat) (T : Team) (S : Gang) : State :=
  let pa := savePa s g T.slot
  let c := areaNat s pa 32
  let p : PathSlot := if c.testBit 106 then .B else .A
  let pc := nbits c 203 152
  let act := nbits c 3 2
  if S.run != .stopped .trap then s
  else if act = 3 then endPaths s t T
  else if !(getPath S p).live then s
  else if act = 1 then modSaved (setAreaPc s pa p (pc + lengthAt s g T.ctx pc)) t g (fun S => modPath S p (freshBundle S.stopAt))
  else if act = 2 then modSaved (setAreaPc s pa p (nbits c 63 12)) t g (fun S => modPath S p (freshBundle S.stopAt))
  else s
/-- Once every saved gang has been resumed the team is parked, and Barista switches it in. -/
def settleResume (s : State) (t : Nat) : State :=
  modTeam s t (fun T =>
    if T.gangs.all (fun g => T.done.contains g || T.savedOk.contains g) then
      { T with run := .parked, since := s.tick, readySince := none, savedOk := [] }
    else T)
def resumeTrapped (s : State) (g : Nat) : State :=
  match resumeTarget s g with
  | none => s
  | some (t, T) =>
    match spFind T.saved g with
    | none => s
    | some S =>
      settleResume (modTeam (applyAct s g t T S) t (fun T => { T with savedOk := g :: T.savedOk })) t
def resumeHalted (s : State) (g : Nat) : State :=
  match (getGang s g).team with
  | some t => resumeGang s g t (getGang s g)
  | none => s
def execResumeCommand (die gang : Nat) (s : State) : Outcome :=
  let g := gangAt die gang
  .next (if (getGang s g).run = .halted then resumeHalted s g else resumeTrapped s g)

/-- The live paths whose next bundle is eligible on resume. -/
def stepPaths (G : Gang) : List PathSlot :=
  [PathSlot.A, PathSlot.B].filter (fun p =>
    let P := getPath G p
    P.live && !P.parked && decide (P.elig ≤ G.gc))
/-- A step: each eligible path issues one bundle, and the gang halts again; of a trapped team it acts as a resume. -/
def execStepCommand (die gang : Nat) (s : State) : Outcome :=
  let g := gangAt die gang
  .next (if (getGang s g).run = .halted then
    (let s := resumeHalted s g
     let G := getGang s g
     if G.run != .run then s
     else if (stepPaths G).isEmpty then stopGang s g .halt
     else modGang s g (fun G => { G with stepLeft := some (stepPaths G) }))
    else resumeTrapped s g)

/-! The watchdog (R416). -/

def watchdogExp (s : State) (d : Nat) : Nat :=
  let w := dbits (devGet s (dieWin d + 0x11008)) 4 0
  if 16 ≤ w then w else 0
/-- Every live path is held on a not-present fault. -/
def allFaulted (G : Gang) : Bool :=
  (G.a.live || G.b.live) && (!G.a.live || G.a.hold == .fault) && (!G.b.live || G.b.hold == .fault)
def watchdogReady (s : State) (g : Nat) : Bool :=
  let G := getGang s g
  let w := watchdogExp s (gangDie g)
  w != 0 && G.run == .run && G.frozen == 0 && G.stopReq.isNone && (G.a.live || G.b.live) && G.lastIssue != G.gc + 1 && decide (2 ^ w ≤ G.idleCount + 1)
    && !allFaulted G
def watchdogTrap (s : State) (g : Nat) : State :=
  let G := getGang s g
  let p : PathSlot := if G.a.live then .A else .B
  latchTrap s g { cause := 0x0E, va := 0, pc := (getPath G p).pc, emask := 0, code := 0, opc := 0, slot := 0,
                  deferred := false, path := p }
def execWatchdogExpiry (g : Nat) (s : State) : Outcome := .next (if watchdogReady s g then watchdogTrap s g else s)

end Sys2Proof.Machine
end

