-- ==== Sys2Proof/Machine/Barista.lean ====
section
/-! DEFINITION. Barista: acceptance and rejection of records, tag counters, the overflow ring, dispatch and admission,
team start, ageing and migration; and what the fabric does on its own (15 R338–R360, R442; 22 R435). -/

namespace Sys2Proof.Machine

/-! Bank pages (19 R389). -/

def bankPage (d b : Nat) : Nat := dieWin d + 0x1000 * b
/-- Records the overflow ring takes; a length field outside 12–20 stands for the default 2^16. -/
def ringLimit (s : State) (d b : Nat) : Nat :=
  let e := dbits (devGet s (bankPage d b + 0x50)) 4 0
  2 ^ (if 12 ≤ e ∧ e ≤ 20 then e else 16)
/-- A number that no record of the core on its way to the bank bears. -/
def arrivalNo (B : Bank) (core : Nat) : Nat :=
  (B.arr.filterMap (fun a => a.core.bind (fun x => if x.1 = core then some (x.2 + 1) else none))).foldl max 0
/-- A submission: bytes 0–55 from the core's staging buffer, the last doubleword from the write (R346). -/
def execRecordSubmitWindow (core bank : Nat) (v : DWord) (s : State) : Outcome :=
  .next (if core < 64 ∧ coreRuns s core ∧ bank < 320 then
    (let B := bankAt s (bank / 16) (bank % 16)
     let low := leNat ((List.range 56).map (fun i => spGet 0 B.stage (64 * core + i)))
     sendRecord s (bank / 16) (bank % 16) ⟨BitVec.ofNat 512 (low + v.toNat * 2 ^ 448), none, some (core, arrivalNo B core), []⟩)
    else s)

/-! Acceptance: the reasons of R345. -/

def rz (r : BitVec 512) (fields : List (Nat × Nat)) : Bool := fields.all (fun f => rf r f.1 f.2 == 0)
/-- Required zeros of the header and of each type (R338–R343). -/
def rsvOk (r : BitVec 512) : Bool :=
  rz r [(127, 96), (95, 88), (63, 60), (15, 12)] &&
  (if isGrid r then rz r [(255, 240), (223, 213), (191, 180), (383, 368), (351, 343), (319, 308), (10, 10)]
   else if isOper r then
     rz r [(255, 240), (239, 224), (223, 213), (191, 180), (511, 448), (383, 331), (327, 327), (319, 308), (8, 8)]
       && (List.range 4).all (fun k => decide (k < operLoops r) || rf r (399 + 16 * k) (384 + 16 * k) == 0)
   else if isTile r then rz r [(239, 224), (223, 213), (191, 180), (511, 500), (447, 436), (383, 372), (287, 272), (8, 8)]
   else isSignal r && rz r [(511, 144), (15, 8)])
def launches (r : BitVec 512) : Bool := isGrid r || isOper r || isTile r
def fieldsOk (s : State) (c : Nat) (r : BitVec 512) : Bool :=
  (!launches r || (recEntry r % 2 == 0 && decide (recAcc r ≤ 8)))
  && (!isGrid r || (decide (gridNargs r ≤ 64) && recArgp r % 8 == 0 && gridAstr r % 8 == 0 && gridTeams r != 0
        && decide (recVd0 r ≤ recVd1 r)
        && (List.range (recVd1 r + 1 - recVd0 r)).all (fun i => vdIn s c (recVd0 r + i))
        && (gridChp r &&& gridChm r) == gridChp r))
  && (!isOper r || (decide (operNargs r ≤ 59) && recArgp r % 8 == 0 && decide (operLoops r ≤ 4)))
  && (!isSignal r || sigAmount r != 0)
def channelsOk (s : State) (c : Nat) (r : BitVec 512) : Bool :=
  !isGrid r || (List.range 64).all (fun ch => !(gridChm r).testBit ch || chGiven s c ch)
/-- Teams of a footprint that fit on one gang (R353). -/
def pages (n : Nat) : Nat := (n + 4095) / 4096
def gangFit (r : BitVec 512) : Nat :=
  let sp := 32 / pages (recSpad r)
  min 4 (if recAcc r = 0 then sp else min sp (8 / recAcc r))
/-- Full pairs of a die, and whether it has a gang without a partner. -/
def fullPairs (s : State) (d : Nat) : Nat := pairedGangs (getDie s d) / 2
def dieFit (s : State) (d : Nat) (r : BitVec 512) : Nat :=
  if recTwo r then fullPairs s d * gangFit r
  else fullPairs s d * min 4 (2 * gangFit r) + (getDie s d).lone.length * gangFit r
/-- Teams of an unpinned grid on the i-th die of its range. -/
def teamsOn (r : BitVec 512) (i : Nat) : Nat :=
  let n := recVd1 r + 1 - recVd0 r
  (gridTeams r - i + n - 1) / n
def unpinnedFits (s : State) (c : Nat) (r : BitVec 512) : Bool :=
  (List.range (recVd1 r + 1 - recVd0 r)).all (fun i => decide (teamsOn r i ≤ dieFit s (vdPhys s c (recVd0 r + i)) r))
def dup : List Nat → Bool
  | [] => false
  | x :: r => r.contains x || dup r
/-- The gang a pin word names, within the range and the enabled count. DEDUCED (log entry 140): a word with a reserved bit names
none, and so has the reason code 0x07 (15 R345; 11 R267). -/
def pinGang (s : State) (c : Nat) (r : BitVec 512) (w : Word) : Option Nat :=
  let v := nbits w.toNat 23 16
  if decide (recVd0 r ≤ v) && decide (v ≤ recVd1 r) then locGang s c w else none
/-- The gang without a partner of its die. -/
def isLone (s : State) (g : Nat) : Bool := (getDie s (gangDie g)).lone.contains (gangPhys g)
def pinnedFits (s : State) (r : BitVec 512) (pins : List Nat) : Bool :=
  !dup pins && (!recTwo r || pins.all (fun g => !isLone s g))
  && pins.all (fun g =>
    let n := (pins.filter (fun h => gangPair h == gangPair g)).length
    if recTwo r then decide (n ≤ gangFit r) else decide (1 ≤ gangFit r))
/-- A tag already live in the bank: tags 1 to 4,095 only. -/
def tagLive (B : Bank) (tag : Nat) : Bool := tag != 0 && (B.recs.any (fun q => q.tag == tag) || B.ring.any (fun q => q.tag == tag))
/-- The reason to reject a record before its pins are read, 0 for none. A bank that no active context owns takes no record: its
owner is not the record's context (19 R389, R404). DESIGN CHOICE (log entry 133): of several reasons the lowest code. -/
def rejectCode (s : State) (d b c : Nat) (r : BitVec 512) : Nat :=
  if !rsvOk r then 1
  else if bankOwner s d b != some (recCtx r) || !ctxActive s c then 2
  else if (recTag r == 0 && recDepc r != 0) || tagLive (bankAt s d b) (recTag r) then 3
  else if nbits (recSigt r) 11 0 != 0 && (bankOf s c (nbits (recSigt r) 23 16) (nbits (recSigt r) 15 12)).isNone then 4
  else if !fieldsOk s c r then 5
  else if !channelsOk s c r then 6
  else if isGrid r && !recPin r && !unpinnedFits s c r then 7
  else 0

/-- The reject log (22 R435): a 16-byte entry, the count in the header, an interrupt. -/
def rejectLog (s : State) (d b c code : Nat) (r : BitVec 512) : State :=
  let base := logBase + 0x09000000 + 0x1000 * c
  let n := (devGet s base).toNat
  let v := (vdOf s c d).getD 0
  let e := base + 0x10 + 16 * (n % 255)
  let s := devSet s e (BitVec.ofNat 64 (code + bankIndex (vdBanks s c v) b * 2 ^ 8 + v * 2 ^ 16 + (ptime s).toNat % 2 ^ 32 * 2 ^ 32))
  let s := devSet s (e + 8) (BitVec.ofNat 64 (rf r 63 0))
  raiseIrq (devSet s base (BitVec.ofNat 64 (n + 1))) (.reject c)

/-! Reads of Barista: argument words and pins, through the dispatcher's translations (R350, R442). -/

/-- How a read came out: absent, the context ends, or the read fails at an address, with the unpopulated address if it met one. -/
inductive ArgRead where
  | ok (v : DWord) (s : State)
  | absent (va : Nat)
  | ends (va : Nat)
  | bad (va : Nat) (refused : Option Nat)
/-- A doubleword of an argument block. -/
def argRead (s : State) (d c va : Nat) : ArgRead :=
  if 2 ^ 52 ≤ va then .ends va
  else match translate s (agDisp d) c va 1 false with
    | (.ok pa key cls _ _, es) =>
      if populated s pa then
        (let r := homeReadAt (spendFlit pa 3 (cacheWalk s es)) none pa 8 key cls false
         if r.2.1 then .bad va none else .ok (BitVec.ofNat 64 r.1) r.2.2)
      else .bad va (some pa)
    | (.absent, _) => .absent va
    | (.ends, _) => .ends va
    | (.bad pa, _) => .bad va pa
/-- What a list of reads has come to: the values, the addresses on absent pages, and the read that ends the context, with the
cause. -/
structure ArgReads where
  vals : List DWord
  absent : List Nat
  ends : Option (BitVec 8 × Nat × Option Nat)
/-- Read a list of addresses: up to one that ends the context, past those on pages not present. -/
def argReads (d c : Nat) : List Nat → ArgReads → State → ArgReads × State
  | [], acc, s => (acc, s)
  | va :: r, acc, s =>
    match argRead s d c va with
    | .ok v s => argReads d c r { acc with vals := acc.vals ++ [v] } s
    | .absent va => argReads d c r { acc with absent := acc.absent ++ [va] } s
    | .ends va => ({ acc with ends := some (0x09, va, none) }, s)
    | .bad va pa => ({ acc with ends := some (0x0F, va, pa) }, s)
def readArgs (d c : Nat) (vas : List Nat) (s : State) : ArgReads × State := argReads d c vas ⟨[], [], none⟩ s
/-- Faults of a start or of a bank's read: an entry for each distinct page (19 R397). -/
def argFaults (d : Nat) (f : Nat → FaultRec) (vas : List Nat) (s : State) : State :=
  ((faultPages (vas.map (fun va => (va, 1)))).map (·.1)).foldl (fun s va => recordFault s d (f va)) s
/-- The context ends by a read of Barista; an unpopulated address is recorded (R350, R442; 08 R193; 19 R384). -/
def argEnds (d c loc : Nat) (e : BitVec 8 × Nat × Option Nat) (s : State) : State :=
  let s := match e.2.2 with | some pa => logUnpopulated s (2 * d) pa (some c) 0 | none => s
  endContext s c e.1 e.2.1 loc
/-- Where a pinned GRID's s0 words lie: the first doubleword of each team's entry. DEDUCED (log entry 141): there with nargs 0 too,
where no gang loads it (15 R442). -/
def pinAddrs (r : BitVec 512) : List Nat := (List.range (gridTeams r)).map (fun t => recArgp r + t * recGangs r * gridAstr r)

/-! Banks. -/

def recReady (r : Rec) : Bool := r.st == .ready
/-- The first of a list in the order of acceptance. -/
def oldestRec : List Rec → Option Rec
  | [] => none
  | x :: r =>
    match oldestRec r with
    | none => some x
    | some y => if y.acc < x.acc || (y.acc == x.acc && decide (y.id < x.id)) then some y else some x
/-- The most recently accepted of a list. -/
def newestRec : List Rec → Option Rec
  | [] => none
  | x :: r =>
    match newestRec r with
    | none => some x
    | some y => if x.acc < y.acc || (x.acc == y.acc && decide (x.id < y.id)) then some y else some x
/-! The overflow ring, in near DRAM: 64-byte places from the ring's base on (R348; 19 R389; log entry 85). -/

def ringSlot (s : State) (d b k : Nat) : Nat := (devGet s (bankPage d b + 0x48)).toNat + 64 * k
/-- The lowest place no entry holds. -/
def ringFree (B : Bank) : Nat := ((List.range (B.ring.length + 1)).find? (fun k => !B.ring.any (fun r => r.place == k))).getD 0
/-- A record goes to the ring, its image into a free place. -/
def ringPutRec (s : State) (d b : Nat) (r : Rec) : State :=
  let k := ringFree (bankAt s d b)
  let pa := ringSlot s d b k
  let s := spendFlit (pa + 32) 3 (spendFlit pa 3 s)
  let s := areaPut (areaPut s pa 32 (r.bits.toNat % 2 ^ 256)) (pa + 32) 32 (r.bits.toNat / 2 ^ 256)
  modBank s d b (fun B => { B with ring := B.ring ++ [{ r with place := k }] })
/-- A ring entry as its place holds it now. -/
def ringRead (s : State) (d b : Nat) (r : Rec) : Rec :=
  let pa := ringSlot s d b r.place
  { r with bits := BitVec.ofNat 512 (areaNat s pa 32 + 2 ^ 256 * areaNat s (pa + 32) 32) }
def ringDrop (id : Nat) (B : Bank) : Bank := { B with ring := B.ring.filter (fun q => q.id != id) }
/-- The image of a ring entry is poisoned. -/
def ringBad (s : State) (d b : Nat) (r : Rec) : Bool := areaBad s (ringSlot s d b r.place) 64
/-- A poisoned image is read by no one: the context ends with 0x0F, as where a bank's other read meets an uncorrectable error (R442).
DEDUCED (log entry 120). -/
def ringEnds (s : State) (d b : Nat) : State :=
  match bankOwner s d b with
  | some c => let v := (vdOf s c d).getD 0
    endContext s c 0x0F 0 (v * 2 ^ 16 + bankIndex (vdBanks s c v) b)
  | none => s
/-- An entry leaves the ring for the bank. -/
def ringTake (s : State) (d b : Nat) (r : Rec) : State :=
  if ringBad s d b r then ringEnds s d b
  else
    let q := ringRead s d b r
    let s := spendFlit (ringSlot s d b r.place + 32) 3 (spendFlit (ringSlot s d b r.place) 3 s)
    modBank s d b (fun B => let B := ringDrop r.id B; { B with recs := B.recs ++ [q] })
def overflowReady (s : State) (d b : Nat) : Bool := decide ((bankAt s d b).recs.length < 512) && !(bankAt s d b).ring.isEmpty
/-- The oldest ring entry returns to a bank with a free slot. -/
def ringReturn (s : State) (d b : Nat) : State :=
  match overflowReady s d b, oldestRec (bankAt s d b).ring with
  | true, some r => ringTake s d b r
  | _, _ => s
/-- A ready record in the ring changes places with a waiting one in the bank (R348). -/
def exchange (s : State) (d b : Nat) : State :=
  let B := bankAt s d b
  match oldestRec (B.ring.filter recReady), newestRec (B.recs.filter (fun r => r.st == .waiting)) with
  | some x, some y =>
    if ringBad s d b x then ringEnds s d b
    else ringPutRec (ringTake (modBank s d b (fun B => { B with recs := B.recs.filter (fun r => r.id != y.id) })) d b x) d b y
  | _, _ => s
def exchanges (d b : Nat) : Nat → State → State
  | 0, s => s
  | n + 1, s => exchanges d b n (exchange s d b)
/-- A ready record that starts no team completes at once (R342, R343, R347). -/
def instantRec (B : Bank) : Option Rec := B.recs.find? (fun r => recReady r && recTeams r.bits == 0)
def settleBank (d b : Nat) : Nat → State → State
  | 0, s => s
  | n + 1, s =>
    let s := exchanges d b 512 s
    match instantRec (bankAt s d b) with
    | some r => settleBank d b n (completeRecord s d b r.id)
    | none => s
/-- Waiting records whose counter is 0 or less become ready (R344). -/
def wakeRecs (tick : Nat) (B : Bank) : Bank :=
  let wake (r : Rec) : Rec :=
    if r.st = .waiting ∧ spGet 0 B.tags r.tag ≤ 0 then { r with st := .ready, readySince := tick } else r
  { B with recs := B.recs.map wake, ring := B.ring.map wake }

/-- A number for a new record whose grid number no live grid bears. -/
def freshRec (s : State) : Nat :=
  let used := s.dies.flatMap (fun d => d.2.banks.flatMap (fun b => (b.2.recs ++ b.2.ring).map (fun r => gridNo r.id)))
  s.nextTeam + ((List.range (used.length + 1)).find? (fun k => !used.contains (gridNo (s.nextTeam + k)))).getD 0
/-- The record enters the bank, or its ring while the bank is full or older records stand in the ring, and its tag counter
rises. -/
def enterRecord (s : State) (d b : Nat) (r : BitVec 512) (pins : List Nat) : State :=
  let id := freshRec s
  let s := { s with nextTeam := id + 1 }
  let old := (bankAt s d b).tags
  let tags := if recTag r = 0 then old else spSet 0 old (recTag r) (spGet 0 old (recTag r) + recDepc r)
  let st : RecState := if recTag r = 0 ∨ spGet 0 tags (recTag r) ≤ 0 then .ready else .waiting
  let q : Rec := { id := id, bits := r, st := st, acc := s.tick, readySince := s.tick, eff := recPrio r, tag := recTag r, next := 0,
                   doneN := 0, redo := [], pins := pins, place := 0 }
  let s := ringReturn (modBank s d b (fun B => { B with tags := tags })) d b
  let B := bankAt s d b
  if !(bankOwner s d b).any (ctxActive s) then s else
  let s := if B.recs.length < 512 ∧ B.ring.isEmpty then modBank s d b (fun B => { B with recs := B.recs ++ [q] })
    else ringPutRec s d b q
  settleBank d b 1025 s
def bankRoom (s : State) (d b : Nat) : Bool :=
  let B := bankAt s d b
  decide (B.recs.length < 512) || decide (B.ring.length < ringLimit s d b)
/-- The fault of a pinned record's read (kind 5). -/
def pinFault (s : State) (d b c va : Nat) : FaultRec :=
  let v := (vdOf s c d).getD 0
  ⟨va, c, v * 2 ^ 16 + bankIndex (vdBanks s c v) b, 5, 1, 0, 0, 0, 0⟩
def pinHeld (s : State) (d b c : Nat) (a : Arrival) : Bool :=
  a.held.any (fun va => faultPending s d (fun v _ => sameFault (faultImg (pinFault s d b c va)) v))
def dropArrival (s : State) (d b : Nat) (a : Arrival) : State :=
  let s := modBank s d b (fun B => { B with arr := B.arr.erase a })
  match a.gang with
  | some (g, id) => storeTaken s g id
  | none => s
def bankCtx (s : State) (d b : Nat) : Option Nat := (bankOwner s d b).bind (fun c => if ctxActive s c then some c else none)
/-- The context whose record a bank takes: its owner. A bank without one rejects the record, in the log of the context that the
record names. -/
def arrivalCtx (s : State) (d b : Nat) (a : Arrival) : Nat := (bankOwner s d b).getD (recCtx a.bits)
/-- The packet that brings a record to its bank. -/
def arrivalPkt (d b : Nat) (a : Arrival) : Option Nat :=
  match a.gang, a.core with
  | some x, _ => some (storePktId x.1 x.2)
  | none, some x => some (corePktId (16 * d + b) x.1 x.2)
  | none, none => none
/-- The arrival the bank can decide now: one that has come over the fabric, to reject, or with room in the bank or the ring, not
held by a fault. -/
def nextArrival (s : State) (d b : Nat) : Option (Nat × Arrival) :=
  ((bankAt s d b).arr.find? (fun a =>
    let c := arrivalCtx s d b a
    !(arrivalPkt d b a).any (underWay s) && !pinHeld s d b c a && (bankRoom s d b || rejectCode s d b c a.bits != 0))).map (fun a => (arrivalCtx s d b a, a))
/-- Accept a pinned GRID once its s0 words have been read (R442). -/
def acceptPinned (s : State) (d b c : Nat) (a : Arrival) : State :=
  let (r, s) := readArgs d c (pinAddrs a.bits) (if a.held.isEmpty then s else dropWalks (agDisp d) s)
  if !r.absent.isEmpty then
    argFaults d (pinFault s d b c) r.absent
      (modBank s d b (fun B => { B with arr := B.arr.map (fun x => if x = a then { x with held := r.absent } else x) }))
  else match r.ends with
    | some e => argEnds d c (pinFault s d b c 0).loc e s
    | none =>
      let pins := r.vals.filterMap (fun v => pinGang s c a.bits (v.setWidth 32))
      if pins.length = r.vals.length && pinnedFits s a.bits pins then enterRecord (dropArrival s d b a) d b a.bits pins
      else rejectLog (dropArrival s d b a) d b c 7 a.bits
/-- A bank decides an arrival: rejected and logged, accepted, or held (R345, R348, R442). -/
def execRecordAccept (bank : Nat) (s : State) : Outcome :=
  let d := bank / 16
  let b := bank % 16
  .next (match nextArrival s d b with
    | none => s
    | some (c, a) =>
      let code := rejectCode s d b c a.bits
      if code != 0 then rejectLog (dropArrival s d b a) d b c code a.bits
      else if isGrid a.bits && recPin a.bits then acceptPinned s d b c a
      else enterRecord (dropArrival s d b a) d b a.bits [])

/-- The oldest ring entry returns to the bank (R348). -/
def execOverflowReturn (bank : Nat) (s : State) : Outcome :=
  let d := bank / 16
  let b := bank % 16
  .next (if overflowReady s d b then settleBank d b 1025 (ringReturn s d b) else s)
def decPktId (x : Dec) : Nat :=
  match x.gang with
  | some (g, id) => storePktId g id
  | none => signalPktId (x.after.getD 0)
/-- The reads that a transaction's release orders before it have been performed (10 R237). -/
def readsOver (G : Gang) (id : Nat) : Bool :=
  match findTxn G id with
  | some T => G.txns.all (fun U => !(T.prior.contains U.id && decide (U.id < T.after) && readsBack U.kind) || U.accs.all (·.done))
  | none => true
/-- A decrement has come over the fabric; a REC's, its release write, follows the reads of its path (14 R330), and a completed
record's the writes that its teams left on their way (17 R370; log entry 15). -/
def decReady (s : State) (x : Dec) : Bool :=
  !underWay s (decPktId x)
  && (match x.gang with | some (g, id) => readsOver (getGang s g) id | none => true)
  && (match x.after with | some r => !s.left.any (fun l => l.recId == r) | none => true)
/-- A decrement reaches its counter (R343, R344). -/
def execTagDecrement (bank tag amount : Nat) (s : State) : Outcome :=
  let d := bank / 16
  let b := bank % 16
  .next (match (bankAt s d b).decs.find? (fun x => x.tag == tag && x.amount == amount && decReady s x) with
    | none => s
    | some x =>
      let s := modBank s d b (fun B => wakeRecs s.tick { B with
        decs := B.decs.erase x, tags := spSet 0 B.tags tag (spGet 0 B.tags tag - amount) })
      let s := match x.gang with
        | some (g, id) => storeTaken s g id
        | none => s
      settleBank d b 1025 s)

/-! Admission (R353). -/

def teamsAt (s : State) (g : Nat) : List (Nat × Team) := s.teams.filter (fun x => x.2.gangs.contains g)
def pairTeams (s : State) (g : Nat) : List (Nat × Team) := s.teams.filter (fun x => x.2.gangs.any (fun h => gangPair h == gangPair g))
/-- The first gap of a length among windows below a limit. -/
def firstGap (used : List (Nat × Nat)) (len limit : Nat) : Option Nat :=
  let free (b : Nat) : Bool := decide (b + len ≤ limit) && used.all (fun u => decide (b + len ≤ u.1) || decide (u.1 + u.2 ≤ b))
  match (0 :: used.map (fun u => u.1 + u.2)).filter free with
  | [] => none
  | c :: cs => some (cs.foldl min c)
/-- Where a footprint goes on gangs: the same pages of scratchpad, and the same steps, in each of them. -/
def spadGap (s : State) (r : BitVec 512) (gs : List Nat) : Option Nat :=
  firstGap ((gs.flatMap (teamsAt s)).map (fun x => (x.2.spBase / 4096, pages x.2.spLen))) (pages (recSpad r)) 32
def accGap (s : State) (r : BitVec 512) (gs : List Nat) : Option Nat :=
  firstGap ((gs.flatMap (teamsAt s)).map (fun x => (x.2.accBase, x.2.accSteps))) (recAcc r) 8
/-- A team of a record fits on a set of gangs of one pair, its window and its steps each in one piece (log entry 51). -/
def fitsOn (s : State) (r : BitVec 512) (gs : List Nat) : Bool :=
  gs.all (fun g =>
    decide ((pairTeams s g).length < 4)
    && decide (((teamsAt s g).map (fun x => pages x.2.spLen)).sum + pages (recSpad r) ≤ 32)
    && decide (((teamsAt s g).map (fun x => x.2.accSteps)).sum + recAcc r ≤ 8))
  && (spadGap s r gs).isSome && (accGap s r gs).isSome
/-- The placements of a team on a die: enabled gangs, or enabled pairs. -/
def places (s : State) (d : Nat) (r : BitVec 512) : List (List Nat) :=
  let all := if recTwo r then (List.range (fullPairs s d)).map (fun p => [gangOfLogical s d (2 * p), gangOfLogical s d (2 * p + 1)])
    else (List.range (enabledGangs s d)).map (fun l => [gangOfLogical s d l])
  all.filter (fitsOn s r)
def pinPlace (r : BitVec 512) (g : Nat) : List Nat := if recTwo r then [2 * (g / 2), 2 * (g / 2) + 1] else [g]
def freeSlot (s : State) (g : Nat) : Nat := ((List.range 4).find? (fun k => !(pairTeams s g).any (fun x => x.2.slot == k))).getD 0
/-- The S-die beside a gang's field of its G-die, or the one on the other side where the grid ends (01 R9, R13), and whether the
G-die lies east of it. -/
def nearSdie (g : Nat) : Nat × Bool :=
  let q := siteG (gangDie g)
  let at' (p : Nat) : Nat := ((List.range 20).find? (fun d => siteS d == p)).getD 0
  if (gangPhys g / 2 < 240 && q % 8 != 0) || q % 8 == 7 then (at' (q - 1), true) else (at' (q + 1), false)
/-- The save area and the spill region of a gang and slot: 384 KiB, and 4 KiB behind them, in the near DRAM of the S-die nearest
the pair. The areas of one S-die follow one another from a free base on, so that no two meet (21 R418; log entry 22). -/
def saveArea (g slot : Nat) : Nat :=
  let n := nearSdie g
  n.1 * 2 ^ 33 + Config.freeSaveBase n.1 % (6 * 2 ^ 14 - 2 * 960 * 4 * 7 + 1) * 2 ^ 16
    + ((if n.2 then 960 else 0) + gangPhys g) * 4 * 0x70000 + slot * 0x70000
def spillArea (g slot : Nat) : Nat := saveArea g slot + 0x60000
/-- A team of a record is admitted on gangs: its windows and its save-area entries. -/
def admitTeam (s : State) (d b : Nat) (r : Rec) (num vdie : Nat) (gs : List Nat) : State :=
  let g := gs.headD 0
  let slot := freeSlot s g
  let t := s.nextTeam
  let T : Team :=
    { bits := r.bits, die := d, bank := b, recId := r.id, ctx := recCtx r.bits, num := num, nteam := recTeams r.bits
      vdie := vdie, gangs := gs, slot := slot
      spBase := 4096 * (spadGap s r.bits gs).getD 0
      spLen := recSpad r.bits
      accBase := (accGap s r.bits gs).getD 0, accSteps := recAcc r.bits
      pdecl := recPrio r.bits, peff := recPrio r.bits, run := .admitted, since := s.tick, readySince := none, ranAt := s.tick
      stopCyc := 0, bars := [], copies := [], saved := [], savedOk := [], done := [], startFault := false }
  let s := { s with nextTeam := t + 1, teams := spPut s.teams t T }
  gs.foldl (fun s h => devSet s (saveEntry h slot) (BitVec.ofNat 64 (2 ^ 63 + recCtx r.bits * 2 ^ 48 + saveArea h slot % 2 ^ 48))) s
/-- Admit one team, at a place chosen freely where no pin names one. -/
def placeTeam (s : State) (d b : Nat) (r : Rec) (num vdie pd : Nat) (pin : Option Nat) : Option State :=
  match pin with
  | some g => if fitsOn s r.bits (pinPlace r.bits g) then some (admitTeam s d b r num vdie (pinPlace r.bits g)) else none
  | none =>
    let ps := places s pd r.bits
    let k := drawFree s
    (ps[k.1 % ps.length]?).map (admitTeam k.2 d b r num vdie)
/-- All teams of a GRID, in order; none if one does not fit (R340). -/
def placeGrid (d b : Nat) (r : Rec) : List Nat → State → Option State
  | [], s => some s
  | t :: ts, s =>
    let v := if recPin r.bits then (vdOf s (recCtx r.bits) (gangDie (r.pins.getD t 0))).getD 0
      else recVd0 r.bits + t % (recVd1 r.bits + 1 - recVd0 r.bits)
    match placeTeam s d b r t v (vdPhys s (recCtx r.bits) v) (if recPin r.bits then r.pins[t]? else none) with
    | some s => placeGrid d b r ts s
    | none => none
/-- A channel of chm is bound to another grid. -/
def channelsBusy (s : State) (r : Rec) : Bool :=
  (List.range 64).any (fun ch => (gridChm r.bits).testBit ch && chGrid s (recCtx r.bits) ch != 0)
def bindChannels (s : State) (r : Rec) : State :=
  (List.range 64).foldl (fun s ch =>
    if (gridChm r.bits).testBit ch then
      let a := ctxBlock (recCtx r.bits) + 0x800 + 16 * ch
      devSet s a (dput (dput (devGet s a) 47 32 (gridNo r.id)) 15 15 (if (gridChp r.bits).testBit ch then 1 else 0))
    else s) s
def takeStep (tick : Nat) (r : Rec) : Rec :=
  let r := { r with st := .running, eff := recPrio r.bits, readySince := tick }
  match r.redo with
  | _ :: q => { r with redo := q }
  | [] => { r with next := r.next + 1 }
/-- Grant a record: a GRID's teams are admitted together, or one team of an OPER or TILE (R349). -/
def grantRecord (s : State) (d b : Nat) (r : Rec) : Option State :=
  if isGrid r.bits then
    if channelsBusy s r then none
    else (placeGrid d b r (List.range (gridTeams r.bits)) s).map (fun s =>
      modRec (bindChannels s r) d b r.id (fun q => { takeStep s.tick q with next := gridTeams r.bits }))
  else match nextStep r with
    | none => none
    | some q =>
      (placeTeam s d b r q ((vdOf s (recCtx r.bits) d).getD 0) d none).map (fun s => modRec s d b r.id (takeStep s.tick))
/-- Records the dispatcher considers: ready, or an OPER with steps left, or a TILE whose step was discarded. -/
def dispatchable (r : Rec) : Bool :=
  recTeams r.bits != 0 && (recReady r || (r.st == .running && !isGrid r.bits && (nextStep r).isSome))
def recAge (tick : Nat) (r : Rec) : Nat := agedPrio (recPrio r.bits) r.readySince tick
/-- The order of R349: priority, acceptance, bank. DESIGN CHOICE (log entry 134): within a bank the lower record number. -/
def dispatchBefore (tick : Nat) (x y : Nat × Rec) : Bool :=
  if recAge tick x.2 != recAge tick y.2 then decide (recAge tick y.2 < recAge tick x.2)
  else if x.2.acc != y.2.acc then decide (x.2.acc < y.2.acc)
  else if x.1 != y.1 then decide (x.1 < y.1)
  else decide (x.2.id < y.2.id)
def bestRec (tick : Nat) : List (Nat × Rec) → Option (Nat × Rec)
  | [] => none
  | x :: r =>
    match bestRec tick r with
    | none => some x
    | some y => if dispatchBefore tick y x then some y else some x
def dispatchList (s : State) (d : Nat) : List (Nat × Rec) :=
  (List.range 16).flatMap (fun b =>
    if (bankCtx s d b).isSome then
      ((bankAt s d b).recs.filter (fun r => dispatchable r && (grantRecord s d b r).isSome)).map (fun r => (b, r))
    else [])
def dispatchReady (s : State) (d : Nat) : Bool := decide ((getDie s d).lastSel + 4 ≤ nowCyc s) && !(dispatchList s d).isEmpty
/-- One selection every 4 cycles (R349). -/
def execDispatchSelect (die : Nat) (s : State) : Outcome :=
  .next (if (getDie s die).lastSel + 4 ≤ nowCyc s then
    (match bestRec s.tick (dispatchList s die) with
     | none => s
     | some (b, r) =>
       (match grantRecord s die b r with
        | some s' => modDie s' die (fun D => { D with lastSel := nowCyc s })
        | none => s))
    else s)

/-! Team start (R340–R342, R350; 13 R294; 06 R149). -/

/-- Indices of tile step q, loop 0 outermost. -/
def stepIndices (trips : List Nat) (q : Nat) : List Nat :=
  (trips.foldr (fun n (acc : List Nat × Nat) => (acc.2 % n :: acc.1, acc.2 / n)) ([], q)).1
/-- Argument addresses of gang h of a team, and the register the first one goes to. -/
def argAddrs (T : Team) (h : Nat) : Nat × List Nat :=
  if isGrid T.bits then
    (0, (List.range (gridNargs T.bits)).map (fun i => recArgp T.bits + (T.num * recGangs T.bits + h) * gridAstr T.bits + 8 * i))
  else if isOper T.bits then (5, (List.range (operNargs T.bits)).map (fun i => recArgp T.bits + 8 * i))
  else (0, [])
/-- The registers that come from the record itself. -/
def fixedArgs (T : Team) : List DWord :=
  let r := T.bits
  if isOper r then ((stepIndices (tripsOf r) T.num ++ [0, 0, 0, 0]).take 4 ++ [T.num]).map (BitVec.ofNat 64)
  else if isTile r then
    ([recGroup r, tileRows r, rf r 319 288, rf r 371 320, rf r 435 384, rf r 499 448]).map (BitVec.ofNat 64)
  else []
/-- The s registers at start. -/
def startS (T : Team) (first : Nat) (vs : List DWord) : Sp DWord := spSetList 0 (spSetList 0 [] 0 (fixedArgs T)) first vs
/-- The gang's context at team start. -/
def startGang (t : Nat) (T : Team) (g gc : Nat) (sregs : Sp DWord) : Gang :=
  { Gang.start with
    gc := gc, team := some t, run := .run, stopAt := gc, lastIssue := gc
    a := { Path.free with live := true, pc := BitVec.ofNat 52 (recEntry T.bits), mask := 0xFFFF, elig := gc }
    s := sregs, stkb := spillArea g T.slot
    eng := (List.range 16).map (fun e => (e, { Engine.start with cfgA := BitVec.ofNat 32 (256 * T.accSteps) })) }
def gangIndex (T : Team) (g : Nat) : Nat := if T.gangs.length = 2 then g % 2 else 0
/-- Place a started gang: it runs at once, or its context waits in its save area for a switch. -/
def startOn (s : State) (t : Nat) (T : Team) (now : Bool) (g : Nat) (sregs : Sp DWord) : State :=
  let H := getGang s g
  if now then
    setGang s g { startGang t T g H.gc sregs with hw := H.hw.map (fun h => (h.1, { h.2 with regBad := [] })), frozen := H.frozen, freezes := H.freezes }
  else
    let G := { startGang t T g 0 sregs with run := .stopped .switch }
    let (n, s) := drawFree s
    let s := setGang (writeArea (setGang s g G) g (savePa s g T.slot) .switch 0 (if T.gangs.all (fun h => decide (g ≤ h)) then n else 0)) g H
    modTeam s t (fun T => { T with saved := spPut T.saved g G })
/-- Start the gangs of a team, one after another, each with the argument words read for it. -/
def startGangs (t : Nat) (T : Team) (now : Bool) : List Nat → List DWord → State → State
  | [], _, s => s
  | g :: gs, vs, s =>
    let as := argAddrs T (gangIndex T g)
    startGangs t T now gs (vs.drop as.2.length) (startOn s t T now g (startS T as.1 (vs.take as.2.length)))
/-- The gang of a team whose argument words an address holds. -/
def argGang (T : Team) (va : Nat) : Nat :=
  (T.gangs.find? (fun g => (argAddrs T (gangIndex T g)).2.contains va)).getD (T.gangs.headD 0)
def startReadyTeam (s : State) (T : Team) : Bool := T.run == .admitted && !startFaulted s T
/-- The team starts on its gangs if they are idle, else it is parked and ready. A page not present holds the start. -/
def execTeamStart (t : Nat) (s : State) : Outcome :=
  .next (match getTeam s t with
    | none => s
    | some T =>
      if !startReadyTeam s T then s
      else
        let now := T.gangs.all (fun g => gangIdle s g && (getGang s g).incoming.isNone)
        let loc (va : Nat) : Nat := locator s T.ctx (argGang T va) 0
        let s := if T.startFault then dropWalks (agDisp T.die) s else s
        let (r, s') := readArgs T.die T.ctx (T.gangs.flatMap (fun g => (argAddrs T (gangIndex T g)).2)) s
        if !r.absent.isEmpty then
          modTeam (argFaults (gangDie (T.gangs.headD 0)) (fun va => ⟨va, T.ctx, loc va, 4, 1, 0, 0, 0, teamKey T⟩) r.absent s) t
            (fun T => { T with startFault := true })
        else match r.ends with
          | some e => argEnds T.die T.ctx (loc e.2.1) e s
          | none =>
            modTeam (startGangs t T now T.gangs r.vals s') t
              (fun T => { T with run := if now then .running else .parked, since := s.tick, ranAt := s.tick, startFault := false }))

/-! Ageing (R352). -/

def ageRec (tick : Nat) (r : Rec) : Rec := if recReady r then { r with eff := recAge tick r } else r
def ageBank (tick : Nat) (B : Bank) : Bank := { B with recs := B.recs.map (ageRec tick), ring := B.ring.map (ageRec tick) }
def ageTeam (s : State) (T : Team) : Team := if T.run = .parked then { T with peff := teamPrio s T } else T
def ageAll (s : State) : State :=
  { s with
    dies := s.dies.map (fun d => (d.1, { d.2 with banks := d.2.banks.map (fun b => (b.1, ageBank s.tick b.2)) }))
    teams := s.teams.map (fun t => (t.1, ageTeam s t.2)) }
/-- A stored priority is behind, or a switch by priority is due. -/
def ageingDue (s : State) : Bool :=
  s.dies.any (fun d => d.2.banks.any (fun b => (b.2.recs ++ b.2.ring).any (fun r => ageRec s.tick r != r)))
  || s.teams.any (fun t => ageTeam s t.2 != t.2)
  || s.gangs.any (fun g => (switchChoice s g.1 (prioDue s)).isSome)
/-- Effective priorities rise, and a parked team two above the running one is switched to (R355). -/
def execPriorityAgeing (s : State) : Outcome :=
  .next (s.gangs.foldl (fun s g => match switchChoice s g.1 (prioDue s) with
    | some v => switchTo s v.1
    | none => s) (ageAll s))

/-! Migration (R356). -/

def anyReady (s : State) (d : Nat) : Bool :=
  (List.range 16).any (fun b => (bankAt s d b).recs.any (fun r => recReady r || dispatchable r) || (bankAt s d b).ring.any recReady)
def freeAdmission (s : State) (d : Nat) : Bool :=
  (List.range (enabledGangs s d)).any (fun l => decide ((pairTeams s (gangOfLogical s d l)).length < 4))
/-- The context's lowest bank with room on a die. -/
def roomBank (s : State) (c d : Nat) : Option Nat :=
  match vdOf s c d with
  | some v => (List.range 16).find? (fun b => (vdBanks s c v).testBit b && decide ((bankAt s d b).recs.length < 512))
  | none => none
def mayMigrate (s : State) (dst : Nat) (r : Rec) : Bool :=
  (isOper r.bits || isTile r.bits) && !recStay r.bits && recReady r && r.next == 0 && r.redo.isEmpty && r.doneN == 0
    && decide (r.readySince + 2 ^ ctxMiga s (recCtx r.bits) ≤ s.tick) && (roomBank s (recCtx r.bits) dst).isSome
def migrant (s : State) (src dst : Nat) : Option (Nat × Rec) :=
  let l := (List.range 16).flatMap (fun b => ((bankAt s src b).recs ++ (bankAt s src b).ring).map (fun r => (b, r)))
  match oldestRec ((l.filter (fun x => mayMigrate s dst x.2)).map (·.2)) with
  | some r => (l.find? (fun x => x.2.id == r.id))
  | none => none
def migrateReady (s : State) (src dst : Nat) : Bool :=
  decide (src < 20) && decide (dst < 20) && hops s src dst == 2 && !anyReady s dst && freeAdmission s dst && (migrant s src dst).isSome
/-- The oldest aged record moves; its tag ceases to be live and it keeps its age and priority. -/
def execMigrationSend (src dst : Nat) (s : State) : Outcome :=
  .next (if migrateReady s src dst then
    (match migrant s src dst with
     | none => s
     | some (b, r) =>
       match roomBank s (recCtx r.bits) dst with
       | none => s
       | some k =>
         let inRing := (bankAt s src b).ring.any (fun q => q.id == r.id)
         if inRing && ringBad s src b r then ringEnds s src b
         else
         let r := if inRing then ringRead s src b r else r
         let s := modBank s src b (fun B =>
           { ringDrop r.id B with recs := B.recs.filter (fun q => q.id != r.id), tags := if r.tag = 0 then B.tags else spSet 0 B.tags r.tag 0 })
         modBank s dst k (fun B => { B with recs := B.recs ++ [{ r with tag := 0 }] }))
    else s)

/-! The fabric (R358, R359). -/

/-- The escape wait: 64 cycles unless system software has set another (log entry 88). -/
def escapeWait : Nat :=
  match Config.freeEscapeWait with
  | some n => 16 + n % 4080
  | none => 64
def escapeReady (s : State) (pkt : Nat) : Bool := s.pkts.any (fun p => p.id == pkt && !p.escape && decide (escapeWait < p.waited))
def execEscapeWaitExpiry (pkt : Nat) (s : State) : Outcome :=
  .next (if escapeReady s pkt then { s with pkts := s.pkts.map (fun p => if p.id = pkt then { p with escape := true } else p) } else s)
/-- A window of budgets begins: every port's counts are 0 again. -/
def refillReady (s : State) : Bool := nowCyc s % 256 == 0 && !s.budget.isEmpty
def execBudgetWindowRefill (s : State) : Outcome := .next (if refillReady s then { s with budget := [] } else s)

end Sys2Proof.Machine
end

