-- ==== Sys2Proof/Machine/Errors.lean ====
section
/-! DEFINITION. Errors: counting against units, freezes, poison and parity, link and Thyme errors, clearing the log
(08 R208–R211; 22 R427–R431, R433, R434). -/

namespace Sys2Proof.Machine

/-! Units (R427, R428). -/

structure UnitId where
  site : Nat
  uclass : Nat
  uidx : Nat
  deriving DecidableEq, Repr
def unitKey (u : UnitId) : Nat := 2 ^ 24 * u.site + 2 ^ 16 * u.uclass + u.uidx
def unitErr (s : State) (u : UnitId) : UnitErr := (spFind s.units (unitKey u)).getD UnitErr.clear
def setUnit (s : State) (u : UnitId) (e : UnitErr) : State := { s with units := spSet UnitErr.clear s.units (unitKey u) e }
/-- Ticks that count at tick t: t − 2^34 < e ≤ t. -/
def inWindow (t e : Nat) : Bool := decide (t < e + 2 ^ 34)
/-- Number of errors in the unit's window. -/
def windowCount (s : State) (u : UnitId) : Nat := ((unitErr s u).ticks.filter (inWindow s.tick)).length
/-- A correctable error: its tick is kept; four in the window mark the unit lasting. The flag says whether this did. -/
def countError (s : State) (u : UnitId) : State × Bool :=
  let e := unitErr s u
  let ts := s.tick :: e.ticks.filter (inWindow s.tick)
  let mark := decide (4 ≤ ts.length)
  (setUnit s u { e with ticks := ts, lasting := e.lasting || mark }, mark && !e.lasting)
/-- An uncorrectable error marks its unit at once. -/
def markLasting (s : State) (u : UnitId) : State × Bool :=
  let e := unitErr s u
  (setUnit s u { e with lasting := true }, !e.lasting)
/-- Log an error of a unit that no access of a context met and that no gang is told of. -/
def logUnit (s : State) (u : UnitId) (kind : Nat) (lasting corr : Bool) : State :=
  logErr s ⟨kind, u.uclass, u.uidx, u.site, 0, windowCount s u, none, lasting, false, corr, 0, 0⟩

def gangUnit (g : Nat) : UnitId := ⟨gangRegion g, 1, gangPhys g⟩
def pairRegion (pr : Nat) : Nat := 2 * (pr / 480) + (if pr % 480 < 240 then 0 else 1)
/-- The unit that holds a site. -/
def siteUnit : ErrSite → UnitId
  | .spad g _ _ => gangUnit g
  | .acc g _ _ => gangUnit g
  | .reg g _ => gangUnit g
  | .l1 g _ => gangUnit g
  | .icache pr _ => ⟨pairRegion pr, 3, pr % 480⟩
  | .spareReg pr => ⟨pairRegion pr, 2, pr % 480⟩
  | .shared sl bank way _ => ⟨40 + sl, 4, 2 ^ 12 * bank + way⟩
  | .near d _ => ⟨40 + d, 5, d⟩
  | .far e ch _ => ⟨60 + e, 6, 64 * e + ch⟩
  | .core n => ⟨60 + n / 16, 7, n⟩
  | .port n => ⟨60 + n / 16, 10, n⟩
def siteAddr : ErrSite → Nat
  | .spad .. => 0
  | .acc .. => 0
  | .reg .. => 0
  | .l1 _ line => 64 * line
  | .icache _ unit => 64 * unit
  | .spareReg _ => 0
  | .shared _ _ _ sec => 32 * sec
  | .near _ sec => 32 * sec
  | .far _ _ sec => 32 * sec
  | .core _ => 0
  | .port _ => 0
/-- The frame of memory in which an error was found (R429). -/
def siteFrames : ErrSite → List Nat
  | .near _ sec => [sec / 2048]
  | .far _ _ sec => [sec / 2048]
  | .spad .. | .acc .. | .reg .. | .l1 .. | .icache .. | .spareReg _ | .shared .. | .core _ | .port _ => []
/-- The record kind of an error a control core reports is not listed: a free value. DEDUCED (log entry 118): a frame check error of
a port is recorded as a link's, 0x0A. -/
def siteKind (s : State) (corr : Bool) : ErrSite → Nat
  | .spad .. => if corr then 0x01 else 0x02
  | .acc .. => if corr then 0x01 else 0x02
  | .reg .. => 0x03
  | .l1 .. => 0x04
  | .icache .. => 0x04
  | .spareReg _ => 0x03
  | .shared .. => if corr then 0x05 else 0x06
  | .near .. => if corr then 0x07 else 0x08
  | .far .. => if corr then 0x07 else 0x08
  | .core _ => freeAt s 0 % 256
  | .port _ => 0x0A

/-- A site that the module has (R427). A sector of near DRAM lies on its own S-die, and one of far memory on the E-die that its
address gives (R191, R192). -/
def siteThere (s : State) : ErrSite → Bool
  | .near d sec => decide (32 * sec < 0x002800000000) && 32 * sec / 2 ^ 33 == d && populated s (32 * sec)
  | .far e ch sec => decide (ch < 64) && decide (farBase ≤ 32 * sec) && farEdie (32 * sec) == e && populated s (32 * sec)
  | .spad g e gran => decide (g < 19200) && decide (e < 16) && decide (gran < 2 ^ 14)
  | .acc g e ent => decide (g < 19200) && decide (e < 16) && decide (ent < 2 ^ 12)
  | .reg g _ => decide (g < 19200)
  | .l1 g _ => decide (g < 19200)
  | .icache pr _ => decide (pr < 9600)
  | .spareReg pr => decide (pr < 9600)
  | .shared sl bank way _ => decide (sl < 20) && decide (bank < 16) && decide (way < 16)
  | .core n => decide (n < 64)
  | .port n => decide (n < 64) && decide (n % 16 < 8)

/-! What a record says of the access (R434; log entry 117). -/

/-- The gang whose path B runs on a pair's spare sequencer. -/
def spareHolder (s : State) (pr : Nat) : Option Nat :=
  ([2 * pr, 2 * pr + 1]).find? (fun g => let G := getGang s g; G.run == .run && G.spare && G.b.live && G.b.onspare && !G.b.trapped)
def gangCtx (s : State) (g : Nat) : Option Nat := (gangTeam s g).map (·.ctx)
/-- The context of the access that met an error. Whether an access or a scrub met it, and which of the contexts that share the
storage, is a free choice. -/
def siteCtx (s : State) (site : ErrSite) : Option Nat :=
  let one (cs : List Nat) : Option Nat := cs[freeAt s 1 % (cs.length + 1)]?
  match site with
  | .spad g _ _ | .acc g _ _ => one (gangCtx s g).toList
  | .reg g _ | .l1 g _ => gangCtx s g
  | .icache pr _ => one ([2 * pr, 2 * pr + 1].filterMap (gangCtx s))
  | .spareReg pr => (spareHolder s pr).bind (gangCtx s)
  | .shared .. | .near .. | .far .. => one (s.teams.map (·.2.ctx)).eraseDups
  | .core _ | .port _ => none
/-- The cause that an error delivers to a gang: parity of a register of a gang that runs a team (kind 0x03), and a poisoned unit that
an access of a context met. Whether that access was a gang's, which takes 0x0F, is a free choice. -/
def siteCause (s : State) (site : ErrSite) (corr : Bool) : Nat :=
  match site with
  | .reg g _ => if (gangCtx s g).isSome then 0x0F else 0
  | .spareReg pr => if (spareHolder s pr).isSome then 0x0F else 0
  | .spad .. | .acc .. | .shared .. | .near .. | .far .. =>
    if !corr && (siteCtx s site).isSome && freeAt s 3 % 2 == 0 then 0x0F else 0
  | .l1 .. | .icache .. | .core _ | .port _ => 0
/-- Syndrome, set and way stand in bits that the rule does not give: a free value. -/
def siteDetail (s : State) : ErrSite → Nat
  | .reg .. | .spareReg _ | .port _ => 0
  | .spad .. | .acc .. | .l1 .. | .icache .. | .shared .. | .near .. | .far .. | .core _ => freeAt s 2 % 2 ^ 248
/-- An error of a site: its frame is noted, and its record says which unit it counts against, and what the error did. -/
def logSite (s : State) (site : ErrSite) (lasting poison corr : Bool) : State :=
  let u := siteUnit site
  let e := unitErr s u
  let s := setUnit s u { e with frames := e.frames ++ (siteFrames site).filter (fun f => !e.frames.contains f) }
  logErr { s with free := s.free + 4 } ⟨siteKind s corr site, u.uclass, u.uidx, u.site, siteAddr site, windowCount s u, siteCtx s site,
    lasting, poison, corr, siteCause s site corr, siteDetail s site⟩

/-! Correctable errors (R208, R209). -/

/-- Storage whose errors can be corrected; registers have parity only. -/
def correctable : ErrSite → Bool
  | .reg .. => false
  | .spareReg _ => false
  | _ => true
/-- What the correction does: a freeze of the gang, or a line invalidated and fetched again. -/
def correct (site : ErrSite) (s : State) : State :=
  match site with
  | .spad g _ _ => modGang s g (fun G => { G with freezes := G.freezes + 1 })
  | .acc g _ _ => modGang s g (fun G => { G with freezes := G.freezes + 1 })
  | .l1 g line => modGang s g (l1Drop line)
  | .icache pr unit => modPair s pr (fun P => { P with icache := spDel P.icache unit })
  | .reg .. => s
  | .spareReg _ => s
  | .shared .. => s
  | .near .. => s
  | .far .. => s
  | .core _ => s
  | .port _ => s
def execCorrectableError (site : ErrSite) (s : State) : Outcome :=
  .next (if correctable site && siteThere s site then
    (let r := countError s (siteUnit site)
     correct site (logSite r.1 site r.2 false true))
    else s)

/-- A freeze begins at a gang-cycle boundary, 48 main cycles each (R209). -/
def beginFreeze (G : Gang) : Gang :=
  if G.frozen = 0 ∧ 0 < G.freezes then { G with frozen := 48, freezes := G.freezes - 1 } else G
/-- The last cycle of a freeze is over: a second error's freeze follows at once, or what was held takes effect (R210). -/
def execFreezeEnd (g : Nat) (s : State) : Outcome :=
  .next (if (getGang s g).frozen = 1 then
    modGang s g (fun G =>
      let G := beginFreeze { G with frozen := 0 }
      if G.frozen = 0 ∧ (G.run = .run ∨ G.run = .finishing) then takeHeld G else G)
    else s)

/-! Uncorrectable errors (R208, R211). -/

def uncorrectable : ErrSite → Bool
  | .l1 .. => false
  | .icache .. => false
  | .port _ => false
  | _ => true
def poisons (s : State) : ErrSite → Bool
  | .spad .. => true
  | .acc .. => true
  | .shared sl _ _ sec => (slGet s sec sl).isSome || s.priv.any (fun p => p.sector == sec && p.slice == sl) || s.repl.contains (sec / 8, sl)
  | .near .. => true
  | .far .. => true
  | .reg .. | .l1 .. | .icache .. | .spareReg _ | .core _ | .port _ => false
def addOnce (x : Nat) (l : List Nat) : List Nat := if l.contains x then l else x :: l
/-- The engine record that carries a register's parity mark; the sequencer's registers and the gang's queues stand with
engine 0. -/
def regHome : RegName → Nat
  | .s _ => 0
  | .x e _ => e
  | .v e _ => e
  | .p e _ => e
  | .m e _ => e
  | .q e _ => if e < 16 then e else 0
/-- A sector of a slice is poisoned, as the slice holds it (R208). DESIGN CHOICE (log entry 129): where it holds several, the published
sector is, before the oldest team-private version, before the replica. -/
def poisonSector (s : State) (sec slice : Nat) : State :=
  match slGet s sec slice with
  | some x => slPut s sec slice { x with poison := true }
  | none => match s.priv.find? (fun p => p.sector == sec && p.slice == slice) with
    | some p => { s with priv := s.priv.map (fun q => if q = p then { p with poison := true } else q) }
    | none => if s.repl.contains (sec / 8, slice) then { s with replBad := (sec, slice) :: s.replBad } else s
/-- What an uncorrectable error of a site poisons (R208). -/
def poison (site : ErrSite) (s : State) : State :=
  match site with
  | .spad g e gran => modGang s g (fun G => modHw G e (fun H => { H with spadBad := addOnce gran H.spadBad }))
  | .acc g e ent => modGang s g (fun G => modHw G e (fun H => { H with accBad := addOnce ent H.accBad }))
  | .reg g r => modGang s g (fun G => modHw G (regHome r) (fun H =>
      { H with regBad := if H.regBad.contains r then H.regBad else r :: H.regBad }))
  | .spareReg pr =>
    (match spareHolder s pr with
     | some g => latchTrap s g { cause := 0x0F, va := 0, pc := (getGang s g).b.pc, emask := 0, code := 0, opc := 0, slot := 0,
                                 deferred := false, path := .B }
     | none => s)
  | .shared sl _ _ sec => poisonSector s sec sl
  | .near _ sec => setMemBad s sec true
  | .far _ _ sec => setMemBad s sec true
  | .l1 .. => s
  | .icache .. => s
  | .core _ => s
  | .port _ => s
def execUncorrectableError (site : ErrSite) (s : State) : Outcome :=
  .next (if uncorrectable site && siteThere s site then
    (let r := markLasting s (siteUnit site)
     poison site (logSite r.1 site r.2 (poisons s site) false))
    else s)

/-! Powering the main side down (22 R430, R440, R441). -/

/-- Every active context ends as by a state-2 write. -/
def endAllContexts (s : State) : State :=
  (List.range 4096).foldl (fun s c => endContext s c 0 0 0) s
/-- The main side without power: what its units held is lost; the management controller keeps its own. -/
def mainOff (s : State) (side : Nat) : State :=
  { State.reset with
    tick := s.tick, dev := s.dev.filter (fun w => decide ((logBase - devBase) / 8 ≤ w.1)), mem := s.mem, memBad := s.memBad, units := s.units, irqs := s.irqs, inputs := s.inputs, free := s.free
    nextTeam := s.nextTeam, badWays := s.badWays, dies := s.dies.map (fun d => (d.1, { GDie.clear with
      enabled := d.2.enabled, lone := d.2.lone, bad := d.2.bad }))
    mgmt := { s.mgmt with side := side, step := 0, coresEdies := 0 } }

def mgmtReg (off : Nat) : Nat := devBase + 0x50000000 + off
def setMgmt (f : Mgmt → Mgmt) (s : State) : State := { s with mgmt := f s.mgmt }
/-- Ticks of 1.6 ns in the grace time. -/
def graceTicks (s : State) : Nat := dbits (devGet s (mgmtReg 0x18)) 15 0 * 625000000
/-- The control cores are interrupted, and the grace time runs. -/
def beginStop (restart : Option StartOutcome) (s : State) : State :=
  setMgmt (fun m => { m with side := 3, grace := s.tick + graceTicks s, restart := restart }) (raiseIrq s .stop)

/-! Links and Thyme (R430, R431). -/

/-- Links 0–34 run east–west, row by row; 35–66 north–south (log entry 26). -/
def linkSite (k : Nat) : Nat :=
  let west := k < 35
  let y := if west then k / 7 else (k - 35) / 8
  let x := if west then k % 7 else (k - 35) % 8
  let isG (x y : Nat) : Bool := (x + y) % 2 == 0
  let g (x y : Nat) : Nat := 4 * y + x / 2
  if west then (if isG x y then 2 * g x y + 1 else 2 * g (x + 1) y)
  else (if isG x y then 2 * g x y else 2 * g x (y + 1))
def linkUnit (k : Nat) : UnitId :=
  if k < 67 then ⟨linkSite k, 9, k⟩ else ⟨60 + (k - 67) / 16 % 4, 10, (k - 67) % 64⟩
/-- Links of each E-die to S-dies, North, South, West and East (01 R12). -/
def edieLinks : List Nat := [4, 4, 2, 3]
/-- A link of an E-die: port numbers 8 and up of its 16, after its 8 scale-out ports (01 R30; log entry 26). -/
def isEdieLink (k : Nat) : Bool :=
  decide (67 ≤ k) && decide (k < 131) && decide (8 ≤ (k - 67) % 16) && decide ((k - 67) % 16 < 8 + edieLinks.getD ((k - 67) / 16) 0)
def linkThere (k : Nat) : Bool := decide (k < 67) || isEdieLink k || (decide (k < 131) && decide ((k - 67) % 16 < 8))
/-- The links that step 3 of start-up trains (R436). -/
def trainedLinks : List Nat := List.range 67 ++ (List.range 131).filter isEdieLink
/-- A flit fails its check and is sent again; one that fails 16 replays in a row takes the link down until the next start, and the
module stops the main side as by command 2 of R440, one that is starting too (log entry 48). -/
def execLinkFlitError (link fails : Nat) (s : State) : Outcome :=
  let u := linkUnit link
  .next (if !linkThere link || s.mgmt.side = 0 || s.mgmt.side = 4 then s
    else
      let r := countError s u
      let s := logUnit r.1 u 0x0A r.2 true
      if fails < 16 then s
      else
        let s := logUnit (setMgmt (fun m => { m with deadLinks := addOnce link m.deadLinks }) s) u 0x0A false false
        if s.mgmt.side = 2 || (s.mgmt.side = 1 && !s.mgmt.retry) then beginStop none s else s)

/-- The Thyme node of a number: a G-die's root, or 32 + an S-die (22 R427). DESIGN CHOICE (log entry 148): the region of a root, which
sits at the stitch, is its die's west field. -/
def nodeUnit (n : Nat) : UnitId := ⟨if n < 32 then 2 * n else 40 + (n - 32), 8, n⟩
def siteHops (s : State) (a b : Nat) : Nat := hopsFrom s b 40 [a]
def nodeSite (n : Nat) : Nat := if n < 32 then siteG n else siteS (n - 32)
/-- Messages among G-dies run through a node: the root of one of them, or a node, root or S-die, on a minimal route (09 R213, R218). -/
def passes (s : State) (n : Nat) (ds : List Nat) : Bool :=
  (decide (n < 32) && ds.contains n) || ds.any (fun a => ds.any (fun b => a != b &&
    siteHops s (siteG a) (nodeSite n) + siteHops s (nodeSite n) (siteG b) == siteHops s (siteG a) (siteG b)))
/-- The G-dies of a context, those that a channel slot's messages reach. -/
def dieSet (s : State) (c : Nat) (f : Nat → Bool) : List Nat := ((List.range 20).filter (fun v => vdValid s c v && f v)).map (vdPhys s c)
def chDies (s : State) (c ch v : Nat) : List Nat := dieSet s c (fun x => chPkg s c ch || x == v)
def roundThrough (s : State) (n : Nat) (r : Round) : Bool := passes s n (chDies s r.ctx r.ch r.vd)
def sbcThrough (s : State) (n : Nat) (b : Sbc) : Bool := passes s n (chDies s b.ctx b.ch b.vd)
def signalThrough (s : State) (n : Nat) (x : Signal) : Bool :=
  x.teams.any (fun t => match getTeam s t with | some T => passes s n (dieSet s T.ctx (fun _ => true)) | none => false)
/-- The message lost at a node: a broadcast, a pre-emption signal, or one of a round; which one is a free choice (log entry 119). -/
def loseMessage (s : State) (n : Nat) : State :=
  let bs := s.sbcs.filter (sbcThrough s n)
  let gs := s.signals.filter (signalThrough s n)
  let (k, s) := drawFree s
  let i := k % (bs.length + gs.length + 1)
  match bs[i]? with
  | some b => { s with sbcs := s.sbcs.erase b }
  | none => (match gs[i - bs.length]? with
    | some x => { s with signals := s.signals.erase x }
    | none => s)
/-- A message copy disagrees: the majority corrects it, or the message is lost and every context with a channel round through the
node ends. -/
def execThymeVoteError (node : Nat) (majority : Bool) (s : State) : Outcome :=
  let u := nodeUnit node
  .next (if !(node < 20 || (32 ≤ node && node < 52)) then s
    else if majority then
      (let r := countError s u
       logUnit r.1 u 0x0B r.2 true)
    else
      (let cs := ((s.rounds.filter (roundThrough s node)).map (·.ctx)).eraseDups
       let r := markLasting s u
       cs.foldl (fun s c => endContext s c 0x0F 0 0) (loseMessage (logUnit r.1 u 0x0B r.2 false) node)))

/-! The log is cleared on command (R433). -/

/-- Every word of the error log and the reject logs. -/
def execErrorLogClear (s : State) : Outcome :=
  .next { s with dev := s.dev.filter (fun w => decide (w.1 < (logBase - devBase) / 8) || decide ((logBase - devBase) / 8 + 2 ^ 25 ≤ w.1)) }

end Sys2Proof.Machine
end

