-- ==== Sys2Proof/Machine/Management.lean ====
section
/-! DEFINITION. The management controller: start-up steps and attempts, retirement and the gang map, stop, restart and
immediate off, firmware, power and temperature (22 R429, R432, R436–R441; 08 R193; 09 R222, R223). -/

namespace Sys2Proof.Machine

/-- A record of the controller itself; it stands on the South E-die. -/
def logMgmt (kind detail site : Nat) (s : State) : State := logErr s ⟨kind, 0, 0, site, 0, 0, none, false, false, false, 0, detail⟩

/-! Retirement and the gang map (R429, R432). -/

/-- Whether a lone gang lies in pair p. -/
def loneIn (D : GDie) (p : Nat) : Bool := D.lone.any (fun ph => ph / 2 == p)
def goodPairs (D : GDie) : List Nat := (List.range 480).filter (fun p => !D.bad.contains p && !loneIn D p)
def pairsInUse (D : GDie) : Nat := pairedGangs D / 2
def hasSparePair (D : GDie) : Bool := decide (pairsInUse D < (goodPairs D).length)
/-- Physical pairs by logical pair. DESIGN CHOICE (log entry 89): the manual leaves the binding to the map; here it takes the
good pairs in ascending order, from the lowest, and then the pairs of the gangs without a partner. -/
def mapOf (D : GDie) : List Nat := (goodPairs D).take (pairsInUse D) ++ D.lone.map (· / 2)
/-- A gang is retired: a spare pair replaces its pair; with none left it alone goes, and its partner stays (R14, R429). -/
def retireGang (ph : Nat) (D : GDie) : GDie :=
  let p := ph / 2
  let partner := if ph % 2 = 0 then ph + 1 else ph - 1
  if D.bad.contains p ∨ D.lone.contains partner then D
  else if D.lone.contains ph then { D with enabled := D.enabled - 1, lone := D.lone.filter (· != ph), bad := p :: D.bad }
  else if hasSparePair D then { D with bad := p :: D.bad }
  else { D with enabled := D.enabled - 1, lone := D.lone ++ [partner] }
/-- A spare sequencer or an instruction cache is retired, and its pair with it. -/
def retirePair (p : Nat) (D : GDie) : GDie :=
  if D.bad.contains p then D
  else if loneIn D p then { D with enabled := D.enabled - 1, lone := D.lone.filter (fun ph => ph / 2 != p), bad := p :: D.bad }
  else if hasSparePair D then { D with bad := p :: D.bad }
  else { D with enabled := D.enabled - 2, bad := p :: D.bad }
/-- The frames of the retired-frame list. -/
def listedFrames (s : State) : List Nat :=
  (List.range (devGet s (mgmtReg 0x1000)).toNat).map (fun i => (devGet s (mgmtReg (0x1008 + 8 * i))).toNat)
/-- The retired-frame list grows by the frames it does not hold (R429). -/
def listFrames (fs : List Nat) (s : State) : State :=
  fs.foldl (fun s f =>
    let l := listedFrames s
    if l.contains f || decide (65535 ≤ l.length) then s
    else devSet (devSet s (mgmtReg (0x1008 + 8 * l.length)) (BitVec.ofNat 64 f)) (mgmtReg 0x1000) (BitVec.ofNat 64 (l.length + 1))) s
/-- One lasting unit is retired; of a memory unit the frames in which its errors were found are listed. -/
def retireUnit (fs : List Nat) (u : UnitId) (s : State) : State :=
  match u.uclass with
  | 1 => modDie s (u.site / 2) (retireGang u.uidx)
  | 2 => modDie s (u.site / 2) (retirePair u.uidx)
  | 3 => modDie s (u.site / 2) (retirePair u.uidx)
  | 4 =>
    let w := (u.site - 40, u.uidx / 2 ^ 12, u.uidx % 16)
    { s with badWays := if s.badWays.contains w then s.badWays else w :: s.badWays }
  | 5 => listFrames fs s
  | 6 => listFrames fs s
  | 7 => setMgmt (fun m => { m with retiredCores := u.uidx :: m.retiredCores }) s
  | 8 => setMgmt (fun m => { m with retiredNodes := u.uidx :: m.retiredNodes }) s
  | _ => s
/-- All lasting units: each retirement is logged as kind 0x0C and clears the mark (22 R429). DESIGN CHOICE (log entry 149): a lasting
link or port, which stays in service, is reported for service in the same way. -/
def retireAll (s : State) : State :=
  s.units.foldl (fun s e =>
    if e.2.lasting then
      let u : UnitId := ⟨e.1 / 2 ^ 24, e.1 / 2 ^ 16 % 256, e.1 % 2 ^ 16⟩
      setUnit (logUnit (retireUnit e.2.frames u s) u 0x0C false false) u { e.2 with lasting := false, frames := [] }
    else s) s
/-- The units whose self-test step 7 runs: every gang, spare sequencer and instruction cache (R436). -/
def testedUnits : List UnitId :=
  (List.range 19200).map gangUnit ++ (List.range 9600).map (fun pr => siteUnit (.spareReg pr)) ++ (List.range 9600).map (fun pr => siteUnit (.icache pr 0))
/-- The self-test: any of them may fail, by a free value, and is marked lasting (R437). -/
def selfTest (s : State) : State :=
  let (n, s) := drawFree s
  (testedUnits.zipIdx.filter (fun u => n.testBit u.2)).foldl (fun s u => (markLasting s u.1).1) s
/-- The gang map of a die in its window; entries above the last logical pair read 0xFFFF. -/
def writeMap (s : State) (d : Nat) : State :=
  let m := mapOf (getDie s d)
  (List.range 120).foldl (fun s i =>
    devSet s (dieWin d + 0x28000 + 8 * i)
      (BitVec.ofNat 64 ((List.range 4).map (fun k => m.getD (4 * i + k) 0xFFFF * 2 ^ (16 * k))).sum)) s

/-! The steps (R436). -/

def hasAlternative (k : Nat) : Bool := k == 3 || k == 4 || k == 5 || k == 6 || k == 7 || k == 9
/-- The step whose alternative the attempt runs, or 0. -/
def altOf (s : State) : Nat := if s.mgmt.altRun then s.mgmt.record else 0
/-- A step begins: it is the step in progress, and an alternative taken is logged. One already begun goes on. -/
def beginStep (k : Nat) (s : State) : State :=
  if s.mgmt.step = k then s
  else (fun s => if k = altOf s then logMgmt 0x0D (k + 256) 61 s else s) (setMgmt (fun m => { m with step := k }) s)
/-- What a step, or its alternative, has done at its end; which link, S-die or E-die failed is a free value. -/
def stepWork (k : Nat) (s : State) : State :=
  let alt := altOf s
  match k with
  | 3 => if alt = 3 then setMgmt (fun m => { m with deadLinks := [trainedLinks.getD (freeAt s 0 % trainedLinks.length) 0], diag := true }) { s with free := s.free + 1 } else s
  | 4 => if alt = 4 then setMgmt (fun m => { m with absentNear := [freeAt s 0 % 20] }) { s with free := s.free + 1 } else s
  | 5 => if alt = 5 then setMgmt (fun m => { m with halfRate := [freeAt s 0 % 4] }) { s with free := s.free + 1 } else s
  | 6 => { s with mem := [], memBad := [], sl := [], priv := [], ntag := [], repl := [], gangs := [] }
  | 7 => (List.range 20).foldl writeMap (retireAll (if alt = 7 then s else selfTest s))
  | 8 => { s with
      tick := 0, sub := 0
      roff := (List.range 64).foldl (fun m r => spSet 0 m r (Config.freeRoff s.mgmt.start r)) []
      units := s.units.map (fun u => (u.1, { u.2 with ticks := [] })) }
  | 9 => setMgmt (fun m => { m with coresEdies := if alt = 9 then 3 else 15 }) s
  | 10 => setMgmt (fun m => { m with side := 2, record := 0 }) s
  | _ => s
def runStep (k : Nat) (s : State) : State := stepWork k (beginStep k s)
def outcomeStep : StartOutcome → Nat
  | .handOff => 11
  | .failsAt k => max 1 (min k 10)
  | .inStep k => max 1 (min k 10)
/-- The step in progress fails (R437): it is recorded and logged, and the main side is off; the next attempt begins by itself where the step has an alternative
that this one did not run. -/
def failStep (s : State) : State :=
  let k := s.mgmt.step
  let again := hasAlternative k && altOf s != k
  setMgmt (fun m => { m with record := k, altRun := false, retry := again }) (mainOff (logMgmt 0x0D k 61 s) (if again then 1 else 4))
/-- An attempt from a step on (R437): the steps before the one it ends in, then hand-off, failure, or a step still in progress. After
the alternative of step 3 the steps 4 to 9 run for diagnosis and the attempt stops in state 4. -/
def runFrom (first : Nat) (o : StartOutcome) (s : State) : State :=
  let last := max first (outcomeStep o)
  let diag := altOf s == 3 && decide (10 ≤ last)
  let last := if diag then 10 else last
  let s := (List.range (last - first)).foldl (fun s i => runStep (first + i) s) s
  if diag then mainOff s 4
  else match o with
    | .handOff => s
    | .inStep _ => beginStep last s
    | .failsAt _ => failStep (beginStep last s)
/-- A start attempt begins at step 1, under the step record as it stands. -/
def attempt (o : StartOutcome) (s0 : State) : State :=
  if !s0.mgmt.imageOk then s0
  else
    runFrom 1 o (setMgmt (fun m => { m with
      image := m.pending.getD m.image, pending := none, start := m.start + 1, retry := false, restart := none, power := true
      absentNear := [], halfRate := [], deadLinks := [], diag := false, altRun := hasAlternative m.record }) (mainOff s0 1))
/-- A step of an attempt is in progress. -/
def inStep (s : State) : Bool := s.mgmt.side == 1 && !s.mgmt.retry

/-! Commands (R437, R440). -/

/-- No command is in progress. -/
def mgmtIdle (s : State) : Bool := s.mgmt.side == 0 || s.mgmt.side == 4
def execStartCommand (o : StartOutcome) (s : State) : Outcome := .next (if mgmtIdle s then attempt o s else s)
def execStopCommand (s : State) : Outcome := .next (if s.mgmt.side = 2 then beginStop none s else s)
def execRestartCommand (o : StartOutcome) (s : State) : Outcome :=
  .next (if s.mgmt.side = 2 then beginStop (some o) s else if mgmtIdle s then attempt o s else s)
/-- The stop goes on: every active context ends and the main side is powered down; a restart then starts it. -/
def finishStop (s : State) : State :=
  let r := s.mgmt.restart
  let s := setMgmt (fun m => { m with restart := none }) (mainOff (endAllContexts s) 0)
  match r with
  | some o => attempt o s
  | none => s
def graceOver (s : State) : Bool := s.mgmt.side == 3 && decide (s.mgmt.grace ≤ s.tick)
def execStopGraceExpiry (s : State) : Outcome := .next (if graceOver s then finishStop s else s)
def execControlCoreStopAck (s : State) : Outcome := .next (if s.mgmt.side = 3 then finishStop s else s)
/-- The main side loses power at once; a step in progress counts as failed. -/
def powerDown (s : State) : State :=
  setMgmt (fun n => { n with restart := none, retry := false }) (mainOff (if inStep s then failStep s else s) 0)
def execImmediateOff (s : State) : Outcome := .next (powerDown s)
def execClearStepRecord (s : State) : Outcome :=
  .next (if mgmtIdle s || s.mgmt.side == 2 then setMgmt (fun m => { m with record := 0 }) s else s)
/-- Command 6 names a class and a number within it: the mark is cleared wherever such a unit lies. -/
def execClearLastingMark (uclass uidx : Nat) (s : State) : Outcome :=
  .next (if mgmtIdle s || s.mgmt.side == 2 then
    { s with units := s.units.map (fun u =>
        if u.1 / 2 ^ 16 % 256 = uclass ∧ u.1 % 2 ^ 16 = uidx then (u.1, { u.2 with lasting := false }) else u) }
    else s)
/-- The next attempt after a failed step with an untried alternative, the main supply having returned if it was lost; or the step in
progress of an attempt ends, and the attempt goes on from it. -/
def execStartAttemptRetry (o : StartOutcome) (s : State) : Outcome :=
  .next (if s.mgmt.retry then attempt o s
    else if inStep s then runFrom (max 1 s.mgmt.step) o s else s)
/-- Loss of the main supply, or a reset: a start step in progress fails. A next attempt that waits goes on waiting. -/
def execMainPowerLoss (s : State) : Outcome :=
  let s := if inStep s then failStep s else s
  .next (setMgmt (fun n => { n with power := false, restart := none })
    (mainOff s (if s.mgmt.retry then 1 else if s.mgmt.side = 4 then 4 else 0)))
/-- A new image is written as a whole and takes effect at the next start; its digest is checked before step 1 (R438). -/
def execFirmwareImageUpdate (version : DWord) (digestOk : Bool) (s : State) : Outcome :=
  .next (setMgmt (fun m => { m with pending := some version, imageOk := digestOk }) s)

/-! Power and temperature (R441). -/

/-- Power in units of 10 W above the warning threshold: kind 0x0E and an interrupt. -/
def execPowerWarning (power : BitVec 16) (s : State) : Outcome :=
  let s' := devSet s (mgmtReg 0x28) (power.setWidth 64)
  .next (if dbits (devGet s (mgmtReg 0x20)) 15 0 < power.toNat then logMgmt 0x0E power.toNat 61 s' else s')
/-- The die of the hottest reading, and the reading. -/
def hottest (m : Sp Nat) : Nat × Nat := m.foldl (fun a b => if a.2 < b.2 then b else a) (0, 0)
/-- The reading a trip names, stored in its register; of the dies the hottest one's stands there (R440). -/
def storeReading (c : TripCause) (reading : BitVec 16) (s : State) : State :=
  match c with
  | .power => devSet s (mgmtReg 0x28) (reading.setWidth 64)
  | .die r =>
    let temps := spSet 0 s.mgmt.temps (r % 64) reading.toNat
    let hot := hottest temps
    setMgmt (fun m => { m with temps := temps }) (devSet s (mgmtReg 0x38) (BitVec.ofNat 64 (hot.2 + hot.1 * 2 ^ 16)))
  | .inlet b => devSet s (mgmtReg 0x30)
      (dput (devGet s (mgmtReg 0x30)) (if b then 31 else 15) (if b then 16 else 0) reading.toNat)
def tripSite : TripCause → Nat
  | .power => 61
  | .die r => r
  | .inlet _ => 61
/-- Over 46 kW for 10 ms, a die at 105 °C, or an inlet over 47 °C. -/
def overLimit (c : TripCause) (reading : BitVec 16) : Bool :=
  match c with
  | .power => decide (4600 < reading.toNat)
  | .die _ => decide (10500 ≤ reading.toNat)
  | .inlet _ => decide (4700 < reading.toNat)
def execOverlimitTrip (cause : TripCause) (reading : BitVec 16) (s : State) : Outcome :=
  let s' := storeReading cause reading s
  .next (if overLimit cause reading then powerDown (logMgmt 0x0E reading.toNat (tripSite cause) s') else s')
/-- A die at the 95 °C warning temperature. -/
def execDieTemperatureWarning (region : Nat) (reading : BitVec 16) (s : State) : Outcome :=
  let s' := storeReading (.die region) reading s
  .next (if 9500 ≤ reading.toNat then logMgmt 0x0E reading.toNat region s' else s')

end Sys2Proof.Machine
end

