-- ==== Sys2Proof/Machine/MemEvents.lean ====
section
/-! DEFINITION. What the shared level does on its own schedule, and key slots (08 R198, R202, R203, R205; 19 R401). -/

namespace Sys2Proof.Machine

/-- A line of class 1 with clean sectors at its home, in fewer than four replicas, may be copied into the slice next to a G-die
that has read it, on that G-die's minimal route to the home (R202). -/
def replicaReady (s : State) (slice line : Nat) : Bool :=
  let home := homeSlice s (256 * line)
  let held := (List.range 8).filterMap (fun i => slGet s (8 * line + i) home)
  decide (slice < 20) && slice != home && held.any (fun x => !x.line) && held.all (fun x => x.cls == 1)
    && !s.repl.contains (line, slice) && decide ((s.repl.filter (fun r => r.1 == line)).length < 4)
    && s.readers.any (fun r => r.1 == line && onRoute r.2 slice home)
def execReplicaCreate (slice line : Nat) (s : State) : Outcome :=
  .next (if replicaReady s slice line then
    { s with repl := s.repl ++ [(line, slice)], replBad := s.replBad.filter (fun r => !(r.1 / 8 == line && r.2 == slice)) } else s)
def execReplicaDrop (slice line : Nat) (s : State) : Outcome :=
  .next { s with repl := s.repl.filter (fun r => r != (line, slice)) }
/-- A line leaves a slice; its dirty sectors are written back (R198). -/
def execLineEviction (slice line : Nat) (s : State) : Outcome :=
  .next (if linePresent s line slice then evictLine s line slice else s)

/-- Lines of a slice tagged with a key slot. -/
def taggedLines (s : State) (slice slot : Nat) : List Nat :=
  ((s.sl.filter (fun c => c.1 % 32 == slice && c.2.key == slot)).map (fun c => c.1 / 32 / 8)).eraseDups
/-- A write of doubleword dw of a key slot in one slice: its lines go first, under the old key (R401). -/
def writeKey (slot dw : Nat) (v : DWord) (s : State) (slice : Nat) : State :=
  let old := keyVal s slice slot
  let new := BitVec.ofNat 256 (old.toNat - nbits old.toNat (64 * dw + 63) (64 * dw) * 2 ^ (64 * dw) + v.toNat * 2 ^ (64 * dw))
  if new = old then s
  else
    let s := (taggedLines s slice slot).foldl (fun s l => evictLine s l slice) s
    { s with keys := spSet 0 s.keys (64 * slice + slot) new }
/-- A write to a key slot of an S-die, or of all of them (number 20, the broadcast page); slot 0 stays plaintext. -/
def execKeySlotWrite (sdie : Nat) (slot : BitVec 6) (dw : BitVec 2) (v : DWord) (s : State) : Outcome :=
  .next (if slot = 0 then s
    else if sdie < 20 then writeKey slot.toNat dw.toNat v s sdie
    else if sdie = 20 then (List.range 20).foldl (writeKey slot.toNat dw.toNat v) s
    else s)

end Sys2Proof.Machine
end

