-- ==== Sys2Proof/Machine/ContextEvents.lean ====
section
/-! DEFINITION. Contexts as system software drives them: activation, end, unmap, fault resolution, pieces from other
modules, and writes to the device windows (19 R382–R403; 09 R218, R225; 15 R346; 21 R417; 22 R433). -/

namespace Sys2Proof.Machine

/-! Activation (R382, R383). -/

def blockWord (s : State) (c off : Nat) : DWord := devGet s (ctxBlock c + off)
def vdLow (s : State) (c v : Nat) : DWord := blockWord s c (0x100 + 16 * v)
/-- Dies of the partition. -/
def vdCount (s : State) (c : Nat) : Nat := ((List.range 20).filter (vdValid s c)).length
/-- Fields in range and reserved bits 0. -/
def descriptorOk (s : State) (c : Nat) : Bool :=
  let w (k : Nat) : DWord := blockWord s c (8 * k)
  dbits (w 0) 63 2 == 0 && dbits (w 1) 63 32 == 0 && w 2 == 0 && w 3 == 0
    && dbits (w 4) 23 0 == 0 && dbits (w 4) 31 29 == 0 && dbits (w 4) 47 37 == 0 && dbits (w 5) 7 4 == 0
    && dbits (w 5) 63 16 == 0 && dbits (w 6) 31 0 == 0
    && decide (10 ≤ ctxLease s c) && decide (ctxLease s c ≤ 20) && decide (6 ≤ ctxMiga s c) && decide (ctxMiga s c ≤ 20)
    && decide (64 ≤ ctxSwth s c)
def tablesOk (s : State) (c : Nat) : Bool :=
  (List.range 20).all (fun v => blockWord s c (0x108 + 16 * v) == 0 && dbits (vdLow s c v) 47 13 == 0 && dbits (vdLow s c v) 7 1 == 0)
  && blockWord s c 0x400 == 0 && blockWord s c 0x408 == 0
  && (List.range 64).all (fun w => blockWord s c (0x408 + 16 * w) == 0 && dbits (blockWord s c (0x400 + 16 * w)) 63 26 == 0
        && dbits (blockWord s c (0x400 + 16 * w)) 15 8 == 0 && dbits (blockWord s c (0x400 + 16 * w)) 1 1 == 0)
  && (List.range 64).all (fun h => blockWord s c (0x808 + 16 * h) == 0 && dbits (chHead s c h) 63 48 == 0
        && dbits (chHead s c h) 31 16 == 0 && dbits (chHead s c h) 14 14 == 0 && dbits (chHead s c h) 7 1 == 0)
/-- Valid entries are exactly 0 to n − 1, of different dies that are present. DEDUCED (log entry 143): the range of pdie binds valid
entries alone. -/
def diesOk (s : State) (c : Nat) : Bool :=
  let n := vdCount s c
  decide (0 < n) && (List.range n).all (vdValid s c) && !dup ((List.range n).map (vdPhys s c))
    && (List.range n).all (fun v => decide (vdPhys s c v < 20) && enabledGangs s (vdPhys s c v) != 0)
def banksOk (s : State) (c : Nat) : Bool :=
  (List.range (vdCount s c)).all (fun v => (List.range 16).all (fun b =>
    !(vdBanks s c v).testBit b || bankOwner s (vdPhys s c v) b == some c))
def chPch (s : State) (c h : Nat) : Nat := dbits (chHead s c h) 13 8
/-- Active contexts that share a die with c. -/
def neighbours (s : State) (c : Nat) : List Nat :=
  (List.range 4096).filter (fun k => k != c && ctxActive s k
    && (List.range (vdCount s c)).any (fun v => (vdOf s k (vdPhys s c v)).isSome))
def channelsFree (s : State) (c : Nat) : Bool :=
  (neighbours s c).all (fun k => (List.range 64).all (fun h => !chGiven s c h ||
    (List.range 64).all (fun j => !chGiven s k j || chPch s k j != chPch s c h)))
/-- The sync diameter of a partition (R218). -/
def diameter (s : State) (c : Nat) : Nat :=
  let ds := (List.range (vdCount s c)).map (vdPhys s c)
  (ds.flatMap (fun a => ds.map (hops s a))).foldl max 0
def activationOk (s : State) (c : Nat) : Bool :=
  descriptorOk s c && tablesOk s c && diesOk s c && banksOk s c && channelsFree s c && decide (diameter s c ≤ 11)
/-- A free context whose state is set to 1 is checked: active with ndie and diam written, or refused. DESIGN CHOICE (log entry 145):
fva, fcause and floc of an earlier end become 0 here, where the activation succeeds, and stand until then. -/
def execContextActivate (ctx : Nat) (s : State) : Outcome :=
  .next (if ctx < 4096 ∧ ctxState s ctx = 0 then
    (let b := ctxBlock ctx
     if activationOk s ctx then
       (let s := devSet s (b + 40) (BitVec.ofNat 64 (diameter s ctx + 256 * vdCount s ctx))
        let s := devSet (devSet s (b + 48) 0) (b + 56) 0
        devSet s b (dput (devGet s b) 1 0 1))
     else devSet s b (dput (devGet s b) 1 0 3))
    else s)
def execContextEnd (ctx : Nat) (cause : BitVec 8) (va : DWord) (loc : BitVec 24) (s : State) : Outcome :=
  .next (endContext s ctx cause va.toNat loc.toNat)

/-! Unmap (R395). -/

def unmapPage (v : DWord) : Nat := dbits v 51 16
def unmapCount (v : DWord) : Nat := dbits v 63 52 + 1
def unmapBad (v : DWord) : Bool := dbits v 15 0 != 0 || decide (2 ^ 36 < unmapPage v + unmapCount v)
def unmapOf (s : State) (c : Nat) : Option Unmap := s.unmaps.find? (fun u => u.ctx == c)
def statusAddr (c : Nat) : Nat := ctxBlock c + 0x48
/-- A command starts: busy is set. -/
def startUnmap (c : Nat) (v : DWord) (next : List DWord) (s : State) : State :=
  devSet { s with unmaps := s.unmaps ++ [⟨c, s.tick, unmapPage v, unmapCount v, next⟩] } (statusAddr c)
    (dput (devGet s (statusAddr c)) 0 0 1)
/-- A completed command's tick; the next waiting one starts, malformed ones completing at once. DESIGN CHOICE (log entry 135): a
command accepted when an earlier one completes counts from that tick. -/
def runUnmaps (c : Nat) : List DWord → State → State
  | [], s => devSet s (statusAddr c) (BitVec.ofNat 64 (s.tick % 2 ^ 56 * 2 ^ 8))
  | v :: r, s =>
    if unmapBad v then runUnmaps c r s
    else startUnmap c v r (devSet s (statusAddr c) (BitVec.ofNat 64 (s.tick % 2 ^ 56 * 2 ^ 8)))
def execUnmapCommand (ctx : Nat) (v : DWord) (s : State) : Outcome :=
  .next (if 4096 ≤ ctx then s
    else match unmapOf s ctx with
      | some _ => { s with unmaps := s.unmaps.map (fun u => if u.ctx = ctx then { u with next := u.next ++ [v] } else u) }
      | none => if unmapBad v then s else startUnmap ctx v [] s)
/-- An access of the context not yet performed whose translation of the range was read before the command. -/
def translatedBefore (u : Unmap) (a : Acc) : Bool :=
  !a.done && decide (a.rdTick < u.start) && decide (u.page ≤ (a.va + a.len - 1) / 2 ^ 16) && decide (a.va / 2 ^ 16 < u.page + u.npg)
def unmapWaits (s : State) (u : Unmap) : Bool :=
  s.gangs.any (fun g => (match g.2.team.bind (getTeam s) with | some T => T.ctx == u.ctx | none => false)
    && g.2.txns.any (fun T => T.accs.any (translatedBefore u)))
  || s.left.any (fun x => x.ctx == u.ctx && translatedBefore u x.acc)
def unmapReady (s : State) (c : Nat) : Bool :=
  match unmapOf s c with
  | some u => decide (u.start + 2 ^ ctxLease s c ≤ s.tick) && !unmapWaits s u
  | none => false
def execUnmapComplete (ctx : Nat) (s : State) : Outcome :=
  .next (match unmapOf s ctx with
    | some u => if unmapReady s ctx then runUnmaps ctx u.next { s with unmaps := s.unmaps.filter (fun x => x.ctx != ctx) } else s
    | none => s)

/-! Fault resolution (R399). -/

def execFaultRetry (die n : Nat) (s : State) : Outcome :=
  .next (if die < 20 ∧ n < 32 ∧ fbState s die n = 1 then freeEntry s die n else s)
def execFaultAbort (die n : Nat) (s : State) : Outcome :=
  .next (if die < 20 ∧ n < 32 ∧ fbState s die n = 1 then
    (let v := (fbImage s die n).toNat
     endContext s (nbits v 203 192) 0x08 (nbits v 255 204) (nbits v 183 160))
    else s)

/-! Pieces from other modules (R403, R207). -/

def iwinBase : Nat := devBase + 0x30010000
def pieceAllowed (s : State) (p : RemotePiece) : Bool :=
  let lo := devGet s (iwinBase + 16 * p.iwin.toNat)
  let hi := devGet s (iwinBase + 16 * p.iwin.toNat + 8)
  let npg := dbits lo 63 48 + dbits hi 15 0 * 2 ^ 16
  lo.getLsbD 0 && dbits lo 47 38 == p.src.toNat && decide (p.off.toNat + p.len ≤ npg * 2 ^ 16)
    && (if p.op = .read then lo.getLsbD 1 else lo.getLsbD 2)
/-- The parts of a range inside each sector: address and length. -/
def sectorParts : Nat → Nat → Nat → List (Nat × Nat)
  | 0, _, _ => []
  | fuel + 1, pa, len =>
    if len = 0 then []
    else
      let n := min len (32 - pa % 32)
      (pa, n) :: sectorParts fuel (pa + n) (len - n)
/-- A part of an accepted piece inside one sector: the bytes it reads, none where they cannot be read, and the state after it. An
unpopulated address is refused and recorded: no context of this module is behind the access (08 R193). -/
def doPart (p : RemotePiece) (base key : Nat) (x : Nat × Nat) (s : State) : Option (List Byte) × State :=
  if isWindow x.1 || !populated s x.1 then (none, logUnpopulated s 0 x.1 none 0)
  else match p.op with
    | .read =>
      let r := homeReadAt s none x.1 x.2 key 0 false
      (if r.2.1 then none else some (leBytes x.2 r.1), r.2.2)
    | .write => (some [], homeWriteAt s none x.1 x.2 (leNat ((p.data.drop (x.1 - base)).take x.2)) key 0 false)
    | .flush => (some [], flushPiece s none .cfls x.1 0)
    | .drop => (some [], flushPiece s none .cinv x.1 0)
def doParts (p : RemotePiece) (base key : Nat) : List (Nat × Nat) → State → Option (List Byte) × State
  | [], s => (some [], s)
  | x :: r, s =>
    let a := doPart p base key x s
    let b := doParts p base key r a.2
    ((a.1.bind (fun u => b.1.map (fun v => u ++ v))), b.2)
/-- A piece from another module: a refused one does nothing, an accepted one is performed at base + offset, and the answer goes back to
its module in a frame: what was read or done, a refusal, or that it failed (19 R402, R403; 01 R30; 08 R207). DESIGN CHOICE (log
entry 59): the class is 0 and the hint 0, and a cache command needs the right to write. -/
def execRemotePieceArrival (p : RemotePiece) (s : State) : Outcome :=
  let answer (kind : FrameKind) (bs : List Byte) (s : State) : State := sendFrame p.src.toNat p.iwin.toNat p.off.toNat p.len kind bs s
  .next (if !pieceAllowed s p then answer .refused [] s
    else
      let key := dbits (devGet s (iwinBase + 16 * p.iwin.toNat)) 37 32
      let base := dbits (devGet s (iwinBase + 16 * p.iwin.toNat + 8)) 47 16 * 2 ^ 16 + p.off.toNat
      match doParts p base key (sectorParts (p.len + 1) base p.len) s with
      | (some bs, s) => answer .done bs s
      | (none, s) => answer .failed [] s)

/-! Writes to the device windows (R385–R389). -/

/-- A context block: descriptor and tables are stored; the module's own fields keep their values. DEDUCED (log entry 144): a write to
one of the block's remaining bytes is ignored (19 R385, R386). -/
def writeBlock (c off : Nat) (v : DWord) (s : State) : State :=
  let a := ctxBlock c + off
  if off = 0 then
    (let st := ctxState s c
     let s' := devSet s a (dput v 1 0 st)
     if v.toNat % 4 = 1 ∧ st = 0 then (match execContextActivate c s' with | .next t => t | _ => s')
     else if v.toNat % 4 = 2 ∧ st = 1 then endContext s' c 0 0 0
     else if v.toNat % 4 = 0 ∧ st ≠ 1 then devSet s a (dput v 1 0 0)
     else s')
  else if off < 0x30 then
    (if off = 0x28 then devSet s a (dput (dput v 3 0 (dbits (devGet s a) 3 0)) 15 8 (dbits (devGet s a) 15 8)) else devSet s a v)
  else if off = 0x30 then devSet s a (dput (devGet s a) 31 0 (dbits v 31 0))
  else if off = 0x40 then (match execUnmapCommand c v s with | .next t => t | _ => s)
  else if (0x100 ≤ off && off < 0x240) || (0x400 ≤ off && off < 0x800) then devSet s a v
  else if 0x800 ≤ off && off < 0xC00 then
    (if off % 16 = 0 then devSet s a (dput (dput v 47 32 (dbits (devGet s a) 47 32)) 15 15 (dbits (devGet s a) 15 15)) else devSet s a v)
  else if 0xC00 ≤ off && off < 0x3400 then devSet s a v
  else s
/-- A G-die's window: bank pages, fault buffer, gang control page. A bank given to a context has counters of 0 (15 R344). -/
def writeDie (core d off : Nat) (v : DWord) (s : State) : State :=
  if off < 0x10000 then
    (let b := off / 0x1000
     let o := off % 0x1000
     if o < 0x38 then modBank s d b (fun B => { B with stage := spSetList 0 B.stage (64 * core + o) (leBytes 8 v.toNat) })
     else if o = 0x38 then (match execRecordSubmitWindow core (16 * d + b) v s with | .next t => t | _ => s)
     else if o = 0x40 then modBank (devSet s (dieWin d + off) v) d b (fun B => { B with tags := [], decs := [] })
     else if o = 0x48 ∨ o = 0x50 then devSet s (dieWin d + off) v
     else s)
  else if off < 0x10400 then
    (if off % 32 != 0 then s
     else if v.toNat % 4 = 2 then (match execFaultRetry d ((off - 0x10000) / 32) s with | .next t => t | _ => s)
     else if v.toNat % 4 = 3 then (match execFaultAbort d ((off - 0x10000) / 32) s with | .next t => t | _ => s)
     else s)
  else if off = 0x11000 then
    (let g := dbits v 9 0
     let cmd := dbits v 12 10
     if dbits v 63 13 != 0 || decide (960 ≤ g) then s
     else if cmd = 1 then (match execHaltCommand d g s with | .next t => t | _ => s)
     else if cmd = 2 then (match execResumeCommand d g s with | .next t => t | _ => s)
     else if cmd = 3 then (match execStepCommand d g s with | .next t => t | _ => s)
     else s)
  else if off = 0x11008 then devSet s (dieWin d + off) (if 16 ≤ v.toNat % 32 then BitVec.ofNat 64 (v.toNat % 32) else 0)
  else s
/-- The error log's main read index and the reject logs' read indices for the control cores (number below 64), the
management read index for the management controller (22 R433). -/
def writeLog (core off : Nat) (v : DWord) (s : State) : State :=
  if core < 64 then
    (if off = 8 ∨ (0x09000000 ≤ off ∧ off < 0x0A000000 ∧ off % 0x1000 = 8) then devSet s (logBase + off) v else s)
  else if off = 16 then devSet s (logBase + off) v else s
/-- How the attempt of a command written to the window goes: a free value. -/
def freeOutcome (s : State) : StartOutcome :=
  let n := freeAt s 0 % 21
  if n = 0 then .handOff else if n < 11 then .failsAt n else .inStep (n - 10)
/-- A command of the management window (22 R440); unknown ones do nothing. -/
def commandInstr (s : State) (v : DWord) : Option Instr :=
  match v.toNat % 8 with
  | 1 => some (.startCommand (freeOutcome s))
  | 2 => some .stopCommand
  | 3 => some (.restartCommand (freeOutcome s))
  | 4 => some .immediateOff
  | 5 => some .clearStepRecord
  | 6 => some (.clearLastingMark (dbits v 31 24) (dbits v 23 8))
  | _ => none
def writeCommand (v : DWord) (s : State) : State :=
  let s' := { s with free := s.free + 1 }
  let done (o : Outcome) : State := match o with | .next t => t | _ => s
  match commandInstr s v with
  | some (.startCommand o) => done (execStartCommand o s')
  | some .stopCommand => done (execStopCommand s)
  | some (.restartCommand o) => done (execRestartCommand o s')
  | some .immediateOff => done (execImmediateOff s)
  | some .clearStepRecord => done (execClearStepRecord s)
  | some (.clearLastingMark c i) => done (execClearLastingMark c i s)
  | _ => s
/-- The management window: only the management port writes it (01 R31): commands, the grace time and the warning threshold. -/
def writeMgmt (core off : Nat) (v : DWord) (s : State) : State :=
  if core < 64 then s
  else if off = 0x10 then writeCommand v s
  else if off = 0x18 then
    (if 1 ≤ v.toNat % 2 ^ 16 ∧ v.toNat % 2 ^ 16 ≤ 3600 then devSet s (devBase + 0x50000000 + off) (BitVec.ofNat 64 (v.toNat % 2 ^ 16)) else s)
  else if off = 0x20 then devSet s (devBase + 0x50000000 + off) (BitVec.ofNat 64 (v.toNat % 2 ^ 16))
  else s
/-- The doubleword that a smaller write leaves the other bytes of: in a staging buffer its bytes, in a key slot its key; the
bytes of a submission that nothing wrote are a free value (log entry 90). -/
def oldWord (s : State) (core a : Nat) : DWord :=
  let o := a - devBase
  let p := (o - 0x10000000) % 0x100000
  if 0x10000000 ≤ o ∧ o < 0x11400000 ∧ p < 0x10000 ∧ p % 0x1000 < 0x38 then
    BitVec.ofNat 64 (leNat ((List.range 8).map (fun i =>
      spGet 0 (bankAt s ((o - 0x10000000) / 0x100000) (p / 0x1000)).stage (64 * core + p % 0x1000 + i))))
  else if 0x10000000 ≤ o ∧ o < 0x11400000 ∧ p < 0x10000 ∧ p % 0x1000 = 0x38 then BitVec.ofNat 64 (freeAt s 0)
  else devGet s a
/-- Bytes off to off + size − 1 of a doubleword replaced. -/
def putSized (old : DWord) (off size : Nat) (v : DWord) : DWord :=
  if size = 8 then v else dput old (8 * (off + size) - 1) (8 * off) (v.toNat % 2 ^ (8 * size))
/-- A key slot's doubleword, in one S-die or, by the broadcast page, in all of them. -/
def writeKeySlot (n w off size : Nat) (v : DWord) (s : State) : State :=
  let slot := w / 32
  let dw := w / 8 % 4
  let one (s : State) (k : Nat) : State :=
    writeKey slot dw (putSized (BitVec.ofNat 64 ((keyVal s k slot).toNat / 2 ^ (64 * dw))) off size v) s k
  if 0x800 ≤ w ∨ slot = 0 then s
  else if n < 20 then one s n
  else if n = 0x1F then (List.range 20).foldl one s
  else s
/-- An aligned write of 1, 2, 4 or 8 bytes to the windows by a control core that runs, or by the management controller (number 64).
Addresses the layout does not name ignore it. -/
def execDeviceRegisterWrite (core : Nat) (pa : BitVec 48) (v : DevWrite) (s : State) : Outcome :=
  let ⟨size, v⟩ := v
  let a := pa.toNat / 8 * 8
  let o := a - devBase
  let off := pa.toNat % 8
  let w := putSized (oldWord s core a) off size v
  .next (if (decide (core < 64) && !coreRuns s core) || !([1, 2, 4, 8].contains size) || pa.toNat % size != 0 || !isWindow a then s
    else if o < 0x04000000 then writeBlock (o / 0x4000) (o % 0x4000) w s
    else if 0x10000000 ≤ o ∧ o < 0x11400000 then
      writeDie core ((o - 0x10000000) / 0x100000) (o % 0x100000) w (if size = 8 then s else { s with free := s.free + 1 })
    else if 0x20000000 ≤ o ∧ o < 0x20200000 then writeKeySlot ((o - 0x20000000) / 0x10000) (o % 0x10000) off size v s
    else if 0x30000000 ≤ o ∧ o < 0x30000200 then devSet s a w
    else if 0x30010000 ≤ o ∧ o < 0x30010400 then devSet s a w
    else if 0x40000000 ≤ o ∧ o < 0x50000000 then writeLog core (o - 0x40000000) w s
    else if 0x50000000 ≤ o ∧ o < 0x60000000 then writeMgmt core (o - 0x50000000) w s
    else s)

/-! What a read of the windows returns (R385; 09 R225; 19 R401). -/

/-- The banded-latency entry of a crossing from region a into region b. -/
def bandEntry (a b : Nat) : Nat :=
  let field (r d : Nat) : Bool := decide (r < 40) && r / 2 == d
  let gs (x y : Nat) : Bool :=   -- field x of a G-die linked to S-die y
    decide (x < 40) && decide (40 ≤ y) && decide (y < 60) && (
      let q := siteG (x / 2)
      let p := siteS (y - 40)
      if x % 2 = 0 then (p + 1 == q && q % 8 != 0) || p + 8 == q || q + 8 == p
      else q + 1 == p && p % 8 != 0)
  let se (y z : Nat) : Bool :=   -- S-die y linked to E-die z (01 R12)
    decide (40 ≤ y) && decide (y < 60) && (
      (z == 60 && decide (y < 44)) || (z == 61 && decide (56 ≤ y)) || (z == 62 && (y == 44 || y == 52))
      || (z == 63 && (y == 43 || y == 51 || y == 59)))
  if a = b then 0
  else if field a (b / 2) && field b (a / 2) then 0x0906
  else if gs a b || gs b a then 0x0C08
  else if se a b || se b a then 0x0F0A
  else 0xFFFF
def bandWord (off : Nat) : Nat :=
  if off = 0 then 64 + 2 * 2 ^ 32
  else if off = 8 then 1
  else ((List.range 4).map (fun k => let i := (off - 16) / 2 + k; bandEntry (i / 64) (i % 64) * 2 ^ (16 * k))).sum
/-- The doubleword a control core reads: key slots read as 0, the banded-latency table and the main side's state are
the module's own. -/
def deviceRead (s : State) (pa : Nat) : DWord :=
  let o := pa - devBase
  if 0x20000000 ≤ o ∧ o < 0x20200000 then 0
  else if 0x30020000 ≤ o ∧ o < 0x30022010 then BitVec.ofNat 64 (bandWord (o - 0x30020000))
  else if o = 0x50000000 then BitVec.ofNat 64 (s.mgmt.side + s.mgmt.step * 2 ^ 8 + s.mgmt.start % 2 ^ 16 * 2 ^ 16)
  else if o = 0x50000008 then BitVec.ofNat 64 s.mgmt.record
  else if o = 0x50000040 then s.mgmt.image
  else devGet s pa

end Sys2Proof.Machine
end

