-- ==== Sys2Proof/Machine/Control.lean ====
section
/-! DEFINITION. Control transfer, loops, traps and exit of the S slot (14 R320–R325). -/

namespace Sys2Proof.Machine

/-- The next bundle's address. -/
def nextPc (s : State) : VAddr := s.cur.pc + BitVec.ofNat 52 s.cur.len
/-- A format B target: the bundle's address + 2 × offset (02 R39). -/
def branchTarget (s : State) (off : BitVec 24) : VAddr := s.cur.pc + off.signExtend 52 + off.signExtend 52
/-- The path continues at an address; its next bundle is eligible `d` gang cycles after issue (R322). -/
def goTo (target : VAddr) (d : Nat) (s : State) : State :=
  modCur s (fun G => modPath G s.cur.path (fun P => { P with pc := target, elig := G.gc + d }))
/-- A register target: odd raises 0x04, beyond 52 bits 0x03 (R320). -/
def targetCheck (a : DWord) : Verdict :=
  Verdict.and (if a.getLsbD 0 then .trap ⟨0x04, a.setWidth 52, 0, 0, none⟩ else .ok)
    (if a.extractLsb' 52 12 = 0 then .ok else .trap ⟨0x03, a.setWidth 52, 0, 0, none⟩)

def controlCheck (i : Instr) (s : State) : Verdict :=
  (commonCheck i s).and (match i with
    | .jmpr ra => targetCheck (sv s ra)
    | .ret => targetCheck ((curPath s).lnk.setWidth 64)
    | .trap code => .trap ⟨0x0D, 0, 0, code, none⟩
    | .bkpt => trapOf 0x0C
    | _ => .ok)

def execBr (c : Cond) (ra rb : SReg) (off : BitVec 24) (s : State) : Outcome :=
  commit (.br c ra rb off) (controlCheck (.br c ra rb off) s)
    (fun s => if condHolds c (sv s ra) (sv s rb) then goTo (branchTarget s off) 2 s else s) s
def execJmp (off : BitVec 24) (s : State) : Outcome :=
  commit (.jmp off) (controlCheck (.jmp off) s) (fun s => goTo (branchTarget s off) 2 s) s
def execJmpr (ra : SReg) (s : State) : Outcome :=
  commit (.jmpr ra) (controlCheck (.jmpr ra) s) (fun s => goTo ((sv s ra).setWidth 52) 2 s) s
/-- CALL: lnk takes the next bundle's address (R320, R321). -/
def execCall (off : BitVec 24) (s : State) : Outcome :=
  commit (.call off) (controlCheck (.call off) s)
    (fun s => goTo (branchTarget s off) 2 (inFlight s 1 (.lnk (nextPc s)))) s
def execRet (s : State) : Outcome :=
  commit .ret (controlCheck .ret s) (fun s => goTo (curPath s).lnk 2 s) s
/-- LOOP (R323). -/
def execLoop (k : BitVec 2) (off : BitVec 24) (s : State) : Outcome :=
  commit (.loop k off) (controlCheck (.loop k off) s)
    (fun s =>
      let n := spGet 0 (curGang s).lc k.toNat
      if n = 0 then s else goTo (branchTarget s off) 2 (inFlight s 1 (.lc k.toNat (n - 1)))) s

def execTrap (code : BitVec 16) (s : State) : Outcome := commit (.trap code) (controlCheck (.trap code) s) (fun s => s) s
def execBkpt (s : State) : Outcome := commit .bkpt (controlCheck .bkpt s) (fun s => s) s

/-- Engines leave the path's mask at the end of the bundle (13 R305, 14 R327). A mask that becomes empty is
resolved in the next gang cycle; rounds that awaited only this path then count in this tick (09 R215). -/
def retireEngines (es : Mask) (s : State) : State :=
  let s := modCur s (fun G =>
    let G := { G with retired := G.retired ||| es }
    modPath G s.cur.path (fun P =>
      let m := P.mask &&& ~~~es
      { P with mask := m, resolveAt := if m = 0 then some G.gc else none }))
  if (curPath s).mask = 0 then recheckTeam s s.cur.gang else s

/-- EXIT ends the issuing path (R325). -/
def execExit (s : State) : Outcome :=
  commit .exit (controlCheck .exit s)
    (fun s => retireEngines (curPath s).mask (modCur s (fun G => { G with exitPc := s.cur.pc, exitPath := s.cur.path }))) s

end Sys2Proof.Machine
end

