-- ==== Sys2Proof/Machine/Special.lean ====
section
/-! DEFINITION. The special functions of the V slots (05 R124). The manual fixes the special and exact cases and a
maximum error; within it the result is a free value, a fixed function of the input bits (log entry 8). A rational
enclosure of the exact value decides whether the free candidate lies within the error. -/

namespace Sys2Proof.Machine

/-- One ulp at an exact result: the spacing of FP32 values there, 2^-149 below 2^-126 (R124). -/
def ulpAt : FVal → FVal
  | .fin _ m e => .fin false 1 (max (fexp m e) (-126) - 23)
  | _ => .fin false 0 0

/-- k ulp. -/
def ulps (k : Nat) (v : FVal) : FVal := (FVal.fin false k 0).mul (ulpAt v)

def fsub (a b : FVal) : FVal := dySum [a, b.neg]

/-- r lies within tol of every point of the enclosure lo to hi. DEDUCED (log entry 83): an infinity counts as 2^128, and
where no candidate lies within tol, as for a reciprocal beyond the FP32 range, the nearest value is taken. -/
def withinErr (lo hi tol r : FVal) : Bool :=
  match r with
  | .fin .. => (fsub r lo).abs.le tol && (fsub hi r).abs.le tol
  | .inf neg => neg == lo.sign && (FVal.fin false 1 128).le (dySum [hi.abs, tol])
  | .nan => false

/-- The free candidate when the error bound allows it, else the enclosure's end rounded to nearest. -/
def chooseNear (cand : Word) (lo hi tol : FVal) (signed : Bool) : Word :=
  let r := f32v cand
  if withinErr lo hi tol r && (!signed || r.sign == lo.sign) then cand else round32 .rne lo

/-- floor(n / d) · 2^-p and one step above it, as an enclosure of (n / d) with sign. -/
def encQuot (neg : Bool) (n d : Nat) (p : Nat) (sh : Int) : FVal × FVal :=
  let q := n * 2 ^ p / d
  (.fin neg q (sh - p), .fin neg (q + 1) (sh - p))

/-- Integer square root by bits, from bit k down. -/
def isqrtBits (n : Nat) : Nat → Nat → Nat
  | 0, r => r
  | k + 1, r => let c := r + 2 ^ k; isqrtBits n k (if c * c ≤ n then c else r)

/-- Fraction bits of the fixed-point enclosures. -/
def fxP : Nat := 128

/-- ln 2 in fixed point, floor: the sum over k ≥ 1 of 1 / (k · 2^k). -/
def ln2Fx : Nat := (List.range 140).foldl (fun a k => a + 2 ^ (fxP + 16) / ((k + 1) * 2 ^ (k + 1))) 0 / 2 ^ 16

/-- exp of a fixed-point argument below 1, by its series. -/
def expSeries (x : Nat) : Nat → Nat → Nat → Nat
  | 0, _, _ => 0
  | f + 1, k, t => t + expSeries x f (k + 1) (t * x / ((k + 1) * 2 ^ fxP))

/-- 2^t for a fixed-point t in 0 to 1. -/
def exp2Frac (t : Nat) : Nat := expSeries (t * ln2Fx / 2 ^ fxP) 60 0 (2 ^ fxP)

/-- Bits of log2 of a fixed-point x in 1 to 2, by repeated squaring. -/
def log2Bits : Nat → Nat → Nat → Nat
  | 0, _, acc => acc
  | n + 1, x, acc =>
    let y := x * x / 2 ^ fxP
    if 2 ^ (fxP + 1) ≤ y then log2Bits n (y / 2) (2 * acc + 1) else log2Bits n y (2 * acc)

/-- Widen a fixed-point value by 2^s steps either way. -/
def encFx (neg : Bool) (v s : Nat) (e : Int) : FVal × FVal := (.fin neg (v - 2 ^ s) e, .fin neg (v + 2 ^ s) e)

def infBits (neg : Bool) : Word := if neg then 0xFF800000 else 0x7F800000
def zeroBits (neg : Bool) : Word := if neg then 0x80000000 else 0
def isPow2 (m : Nat) : Bool := m == 2 ^ m.log2

/-- VRCP. -/
def fnRcp (a : Word) : Word :=
  match f32v a with
  | .nan => nan32
  | .inf s => zeroBits s
  | .fin s m e =>
    if m = 0 then infBits s
    else if isPow2 m then
      let exact := FVal.fin s 1 (-(fexp m e))
      if (round32 .rne exact).extractLsb' 23 8 = 0xFF then
        chooseNear (Config.freeRcp a) exact exact (ulps 1 exact) true
      else round32 .rne exact
    else
      let (lo, hi) := encQuot s 1 m 200 (-e)
      chooseNear (Config.freeRcp a) lo hi (ulps 1 lo) true

/-- VRSQ. -/
def fnRsq (a : Word) : Word :=
  match f32v a with
  | .nan => nan32
  | .inf s => if s then nan32 else 0
  | .fin s m e =>
    if m = 0 then infBits s
    else if s then nan32
    else if isPow2 m && fexp m e % 2 == 0 then round32 .rne (.fin false 1 (-(fexp m e) / 2))
    else
      -- 1/√(m·2^e) with e made even: √(2^(2p) / m') · 2^-p · 2^(-e'/2)
      let m' := if e % 2 = 0 then m else 2 * m
      let e' := if e % 2 = 0 then e else e - 1
      let r := isqrtBits (2 ^ 240 / m') 121 0
      let lo := FVal.fin false r (-120 - e' / 2)
      let hi := FVal.fin false (r + 1) (-120 - e' / 2)
      chooseNear (Config.freeRsq a) lo hi (ulps 2 lo) true

/-- A finite value in fixed point, floor. -/
def toFx (m : Nat) (e : Int) : Nat := quantize .rtz false m e (-(fxP : Int))

/-- VEX2. -/
def fnEx2 (a : Word) : Word :=
  match f32v a with
  | .nan => nan32
  | .inf s => if s then 0 else 0x7F800000
  | .fin s m e =>
    let v := FVal.fin s m e
    if (FVal.fin false 128 0).le v then 0x7F800000
    else if v.le (.fin true 150 0) then 0
    else
      let f := toFx m e
      let isInt := if 0 ≤ e then true else m % 2 ^ (-e).toNat == 0
      -- v = n + t with 0 ≤ t < 1
      let whole := f / 2 ^ fxP
      let frac := f % 2 ^ fxP
      if isInt then round32 .rne (.fin false 1 (if s then -(whole : Int) else whole))
      else
        let n : Int := if s then -(whole : Int) - 1 else whole
        let t := if s then 2 ^ fxP - frac else frac
        let (lo, hi) := encFx false (exp2Frac t) 20 (n - fxP)
        chooseNear (Config.freeEx2 a) lo hi (ulps 2 lo) true

/-- VLG2. -/
def fnLg2 (a : Word) : Word :=
  match f32v a with
  | .nan => nan32
  | .inf s => if s then nan32 else 0x7F800000
  | .fin s m e =>
    if m = 0 then 0xFF800000
    else if s then nan32
    else if isPow2 m then round32 .rne (intVal (fexp m e))
    else
      let x := m * 2 ^ fxP / 2 ^ m.log2
      let b := log2Bits 60 x 0
      -- log2 a = fexp + b·2^-60, error below 2^-55
      let n : Int := fexp m e * (2 ^ 60 : Nat) + (b : Int)
      let lo := FVal.fin (decide (n - 32 < 0)) (n - 32).natAbs (-60)
      let hi := FVal.fin (decide (n + 32 < 0)) (n + 32).natAbs (-60)
      let v := FVal.fin false m e
      let inner := (FVal.fin false 1 (-1)).le v && v.le (.fin false 2 0)
      chooseNear (Config.freeLg2 a) lo hi (if inner then .fin false 1 (-22) else ulps 2 lo) false

/-- VTANH of a non-negative finite value. -/
def tanhPos (a : Word) (m : Nat) (e : Int) : Word :=
  let v := FVal.fin false m e
  let r :=
    if v.lt (.fin false 1 (-10)) then
      -- v − v³/3 ≤ tanh v ≤ v − v³/3 + 2v⁵/15 for 0 ≤ v
      let lo := fsub v (.fin false (m * m * m * 2 ^ 160 / 3 + 1) (3 * e - 160))
      let hi := dySum [v, .fin true (m * m * m * 2 ^ 160 / 3) (3 * e - 160),
        .fin false (m * m * m * m * m * 2 ^ 160 / 7 + 1) (5 * e - 160)]
      chooseNear (Config.freeTanh a) lo hi (ulps 2 lo) true
    else if (FVal.fin false 64 0).le v then
      chooseNear (Config.freeTanh a) (.fin false (2 ^ 180 - 1) (-180)) (.fin false 1 0) (ulps 2 (.fin false 1 (-1))) true
    else
      -- q = e^(-2v) = 2^-(n + t)
      let y := 2 * toFx m e * 2 ^ fxP / ln2Fx
      let n := y / 2 ^ fxP
      let t := y % 2 ^ fxP
      let q := 2 ^ (2 * fxP) / exp2Frac t / 2 ^ n
      let d := (2 ^ fxP - q) * 2 ^ 100 / (2 ^ fxP + q)
      let (lo, hi) := encFx false d 14 (-100)
      chooseNear (Config.freeTanh a) lo hi (ulps 2 lo) true
  if (FVal.fin false 1 0).lt (f32v r) then 0x3F800000 else r

/-- VTANH: odd in its sign bit. -/
def fnTanh (a : Word) : Word :=
  match f32v a with
  | .nan => nan32
  | .inf s => if s then 0xBF800000 else 0x3F800000
  | .fin s m e =>
    if m = 0 then a
    else
      let r := tanhPos (a &&& 0x7FFFFFFF) m e
      if s then r ^^^ 0x80000000 else r

end Sys2Proof.Machine
end

