-- ==== Sys2Proof/Machine/Vector.lean ====
section
/-! DEFINITION. The V slots within an engine (05 R118–R135). -/

namespace Sys2Proof.Machine

/-- A V-space source of engine e, lane i. -/
def vl (s : State) (e : Nat) (a : VSrc) (i : Nat) : Word := lane (vVal (curGang s) e a) i
def pm (s : State) (e : Nat) (p : PReg) : Half := pRegE (getEng (curGang s) e) p.toNat

/-- A lane result in every active engine, under the lane predicate read at issue (R119). -/
def vWrite (lat : Nat) (d : VDst) (p : PReg) (f : Nat → Nat → Word) (s : State) : State :=
  match d with
  | .zero => s
  | .reg r => inFlight s lat (.v r.toNat ((actives s).map (fun e => (e, pm s e p, lanes512 (f e)))))
/-- A predicate result, bit by bit under the same rule. -/
def pWrite (lat : Nat) (d : PReg) (p : PReg) (f : Nat → Half) (s : State) : State :=
  inFlight s lat (.p d.toNat ((actives s).map (fun e => (e, pm s e p, f e))))

/-- The F mark of R118: TAB must resolve to FP32. -/
def tabCheck (s : State) (tab : Bool) : Verdict := if tab then fmtCheck s .tab (fun f => f == .f32) else .ok

/-- Width of a tile access in engine e (R134). -/
def tileW (s : State) (e : Nat) (f : Fmt) : Nat := (selFmt s e f).width
/-- The data-dependent checks of VTRD and VTWR (R135). -/
def tileCheck (s : State) (f : Fmt) (t : Tile) (dir : Dir) (idx : Nat) (g : BitVec 3) (isRead : Bool) : Verdict :=
  (fmtCheck s f (fun x => !t.isC || x.width == 32)).and
    ((engCheck s (fun e => match pickFa f (fmttEntry s e) with
        | some x => if f = .tab && x.groups ≤ g.toNat then some (0x01, 0) else none
        | none => none)).and
      (engCheck s (lineTileFail s (fun _ => List.range 16) t dir idx isRead)))

/-- A VPLD of either form not yet landed in engine e (R131). -/
def patPending (s : State) (e : Nat) : Bool :=
  (curGang s).flight.any (fun f => match f.w with
    | .patLoad es => es.any (fun x => x.1 == e)
    | .patSwap es => es.contains e
    | _ => false)

def vectorCheck (i : Instr) (s : State) : Verdict :=
  (commonCheck i s).and (match i with
    | .vaddf _ _ _ tab _ _ _ | .vsubf _ _ _ tab _ _ _ | .vmulf _ _ _ tab _ _ _ | .vfmaf _ _ _ _ tab _ _ _ => tabCheck s tab
    | .vminf _ _ _ tab _ | .vmaxf _ _ _ tab _ | .vcmpf _ _ _ _ tab _ => tabCheck s tab
    | .vrcp _ _ tab _ | .vrsq _ _ tab _ | .vex2 _ _ tab _ | .vlg2 _ _ tab _ | .vtanh _ _ tab _ => tabCheck s tab
    | .vcvt d _ _ _ _ _ _ => fmtCheck s d Fmt.cvtDstOk
    | .vqnt d _ _ _ _ _ _ => fmtCheck s d Fmt.qntOk
    | .vdqn f _ _ _ _ _ _ => fmtCheck s f Fmt.cvtDstOk
    | .vpld a =>
      (waitUnless (!(actives s).any (patPending s)) .other).and (engCheck s (fun e => spReadFail s e (xa s e a).toNat 512 16))
    | .vpldSwap => waitUnless (!(actives s).any (patPending s)) .other
    | .vtrd f _ t dir idx g _ => tileCheck s f t dir idx.toNat g true
    | .vtwr f t _ dir idx g _ => tileCheck s f t dir idx.toNat g false
    | _ => .ok)

/-- A lane-by-lane instruction. -/
def laneOp (i : Instr) (lat : Nat) (d : VDst) (p : PReg) (f : State → Nat → Nat → Word) (s : State) : Outcome :=
  commit i (vectorCheck i s) (fun s => vWrite lat d p (f s) s) s
def predOp (i : Instr) (lat : Nat) (d p : PReg) (f : State → Nat → Half) (s : State) : Outcome :=
  commit i (vectorCheck i s) (fun s => pWrite lat d p (f s) s) s

/-! Floating-point arithmetic (R122, R123). -/

def isFin32 (a : Word) : Bool := !(f32v a).isNan && !(f32v a).isInf
/-- Rounding with the saturation of R122. -/
def fpFinish (rnd : Rnd) (sat fin : Bool) (x : FVal) : Word :=
  let r := round32 rnd x
  if sat && fin && (f32v r).isInf then (if r.getLsbD 31 then 0xFF7FFFFF else 0x7F7FFFFF) else r
def fpAdd (rnd : Rnd) (sat : Bool) (a b : Word) : Word :=
  fpFinish rnd sat (isFin32 a && isFin32 b) (FVal.add rnd (f32v a) (f32v b))
def fpSub (rnd : Rnd) (sat : Bool) (a b : Word) : Word :=
  fpFinish rnd sat (isFin32 a && isFin32 b) (FVal.add rnd (f32v a) (f32v b).neg)
def fpMul (rnd : Rnd) (sat : Bool) (a b : Word) : Word :=
  fpFinish rnd sat (isFin32 a && isFin32 b) ((f32v a).mul (f32v b))
def fpFma (rnd : Rnd) (sat : Bool) (a b c : Word) : Word :=
  fpFinish rnd sat (isFin32 a && isFin32 b && isFin32 c) (FVal.add rnd ((f32v a).mul (f32v b)) (f32v c))
/-- VMINF and VMAXF: −0 lies below +0, a NaN gives the canonical NaN. -/
def fpMinMax (larger : Bool) (a b : Word) : Word :=
  let x := f32v a
  let y := f32v b
  if x.isNan || y.isNan then nan32
  else
    let aLess := x.lt y || (x.eq y && a.getLsbD 31)
    if larger then (if aLess then b else a) else (if aLess then a else b)

def execVaddf (d : VDst) (a b : VSrc) (tab : Bool) (rnd : Rnd) (sat : Bool) (p : PReg) (s : State) : Outcome :=
  laneOp (.vaddf d a b tab rnd sat p) 4 d p (fun s e i => fpAdd rnd sat (vl s e a i) (vl s e b i)) s
def execVsubf (d : VDst) (a b : VSrc) (tab : Bool) (rnd : Rnd) (sat : Bool) (p : PReg) (s : State) : Outcome :=
  laneOp (.vsubf d a b tab rnd sat p) 4 d p (fun s e i => fpSub rnd sat (vl s e a i) (vl s e b i)) s
def execVmulf (d : VDst) (a b : VSrc) (tab : Bool) (rnd : Rnd) (sat : Bool) (p : PReg) (s : State) : Outcome :=
  laneOp (.vmulf d a b tab rnd sat p) 4 d p (fun s e i => fpMul rnd sat (vl s e a i) (vl s e b i)) s
def execVfmaf (d : VDst) (a b c : VSrc) (tab : Bool) (rnd : Rnd) (sat : Bool) (p : PReg) (s : State) : Outcome :=
  laneOp (.vfmaf d a b c tab rnd sat p) 4 d p (fun s e i => fpFma rnd sat (vl s e a i) (vl s e b i) (vl s e c i)) s
def execVminf (d : VDst) (a b : VSrc) (tab : Bool) (p : PReg) (s : State) : Outcome :=
  laneOp (.vminf d a b tab p) 4 d p (fun s e i => fpMinMax false (vl s e a i) (vl s e b i)) s
def execVmaxf (d : VDst) (a b : VSrc) (tab : Bool) (p : PReg) (s : State) : Outcome :=
  laneOp (.vmaxf d a b tab p) 4 d p (fun s e i => fpMinMax true (vl s e a i) (vl s e b i)) s
def execVcmpf (c : FCond) (d : PReg) (a b : VSrc) (tab : Bool) (p : PReg) (s : State) : Outcome :=
  predOp (.vcmpf c d a b tab p) 4 d p (fun s e => laneBits (fun i => fcondHolds c (vl s e a i) (vl s e b i))) s

def execVrcp (d : VDst) (a : VSrc) (tab : Bool) (p : PReg) (s : State) : Outcome :=
  laneOp (.vrcp d a tab p) 10 d p (fun s e i => fnRcp (vl s e a i)) s
def execVrsq (d : VDst) (a : VSrc) (tab : Bool) (p : PReg) (s : State) : Outcome :=
  laneOp (.vrsq d a tab p) 10 d p (fun s e i => fnRsq (vl s e a i)) s
def execVex2 (d : VDst) (a : VSrc) (tab : Bool) (p : PReg) (s : State) : Outcome :=
  laneOp (.vex2 d a tab p) 10 d p (fun s e i => fnEx2 (vl s e a i)) s
def execVlg2 (d : VDst) (a : VSrc) (tab : Bool) (p : PReg) (s : State) : Outcome :=
  laneOp (.vlg2 d a tab p) 10 d p (fun s e i => fnLg2 (vl s e a i)) s
def execVtanh (d : VDst) (a : VSrc) (tab : Bool) (p : PReg) (s : State) : Outcome :=
  laneOp (.vtanh d a tab p) 10 d p (fun s e i => fnTanh (vl s e a i)) s

/-! Integers, logic and moves (R125). -/

/-- The exact signed result, clamped with sat, else modulo 2^32. -/
def intFinish (sat : Bool) (n : Int) : Word :=
  if sat then (if 2147483647 < n then 0x7FFFFFFF else if n < -2147483648 then 0x80000000 else BitVec.ofInt 32 n)
  else BitVec.ofInt 32 n
def mulHigh32 (u : Bool) (a b : Word) : Word :=
  if u then BitVec.ofNat 32 (a.toNat * b.toNat / 2 ^ 32) else BitVec.ofInt 32 (a.toInt * b.toInt / (2 ^ 32 : Nat))
def minMax32 (u larger : Bool) (a b : Word) : Word :=
  let less := if u then a.ult b else a.slt b
  if larger then (if less then b else a) else (if less then a else b)

def execVaddi (d : VDst) (a b : VSrc) (sat : Bool) (p : PReg) (s : State) : Outcome :=
  laneOp (.vaddi d a b sat p) 2 d p (fun s e i => intFinish sat ((vl s e a i).toInt + (vl s e b i).toInt)) s
def execVsubi (d : VDst) (a b : VSrc) (sat : Bool) (p : PReg) (s : State) : Outcome :=
  laneOp (.vsubi d a b sat p) 2 d p (fun s e i => intFinish sat ((vl s e a i).toInt - (vl s e b i).toInt)) s
def execVmuli (d : VDst) (a b : VSrc) (sat : Bool) (p : PReg) (s : State) : Outcome :=
  laneOp (.vmuli d a b sat p) 2 d p (fun s e i => intFinish sat ((vl s e a i).toInt * (vl s e b i).toInt)) s
def execVmulhi (u : Bool) (d : VDst) (a b : VSrc) (p : PReg) (s : State) : Outcome :=
  laneOp (.vmulhi u d a b p) 2 d p (fun s e i => mulHigh32 u (vl s e a i) (vl s e b i)) s
def execVand (d : VDst) (a b : VSrc) (p : PReg) (s : State) : Outcome :=
  laneOp (.vand d a b p) 2 d p (fun s e i => vl s e a i &&& vl s e b i) s
def execVor (d : VDst) (a b : VSrc) (p : PReg) (s : State) : Outcome :=
  laneOp (.vor d a b p) 2 d p (fun s e i => vl s e a i ||| vl s e b i) s
def execVxor (d : VDst) (a b : VSrc) (p : PReg) (s : State) : Outcome :=
  laneOp (.vxor d a b p) 2 d p (fun s e i => vl s e a i ^^^ vl s e b i) s
def execVshl (d : VDst) (a b : VSrc) (p : PReg) (s : State) : Outcome :=
  laneOp (.vshl d a b p) 2 d p (fun s e i => vl s e a i <<< ((vl s e b i).toNat % 32)) s
def execVshr (d : VDst) (a b : VSrc) (p : PReg) (s : State) : Outcome :=
  laneOp (.vshr d a b p) 2 d p (fun s e i => vl s e a i >>> ((vl s e b i).toNat % 32)) s
def execVsar (d : VDst) (a b : VSrc) (p : PReg) (s : State) : Outcome :=
  laneOp (.vsar d a b p) 2 d p (fun s e i => (vl s e a i).sshiftRight ((vl s e b i).toNat % 32)) s
def execVmini (u : Bool) (d : VDst) (a b : VSrc) (p : PReg) (s : State) : Outcome :=
  laneOp (.vmini u d a b p) 2 d p (fun s e i => minMax32 u false (vl s e a i) (vl s e b i)) s
def execVmaxi (u : Bool) (d : VDst) (a b : VSrc) (p : PReg) (s : State) : Outcome :=
  laneOp (.vmaxi u d a b p) 2 d p (fun s e i => minMax32 u true (vl s e a i) (vl s e b i)) s
def execVcmpi (c : ICond) (d : PReg) (a b : VSrc) (p : PReg) (s : State) : Outcome :=
  predOp (.vcmpi c d a b p) 2 d p (fun s e => laneBits (fun i => icondHolds c (vl s e a i) (vl s e b i))) s
def execVmov (d : VDst) (a : VSrc) (p : PReg) (s : State) : Outcome :=
  laneOp (.vmov d a p) 2 d p (fun s e i => vl s e a i) s
/-- VLI writes all 16 lanes: it carries no pred field (02 R39). -/
def execVli (d : VDst) (imm : BitVec 32) (s : State) : Outcome :=
  laneOp (.vli d imm) 2 d 0 (fun _ _ _ => imm) s
def execVbcs (d : VDst) (sa : SReg) (p : PReg) (s : State) : Outcome :=
  laneOp (.vbcs d sa p) 2 d p (fun s _ _ => (sReg (curGang s) sa.toNat).setWidth 32) s
def execVsel (d : VDst) (a b : VSrc) (pc : PReg) (p : PReg) (s : State) : Outcome :=
  laneOp (.vsel d a b pc p) 2 d p (fun s e i => if (pm s e pc).getLsbD i then vl s e a i else vl s e b i) s
def execVrot (d : VDst) (a : VSrc) (n : BitVec 4) (p : PReg) (s : State) : Outcome :=
  laneOp (.vrot d a n p) 2 d p (fun s e i => vl s e a ((i + n.toNat) % 16)) s

/-! Predicates (R126, R127). -/

def execPlog (d : PReg) (o : PlogSrc) (p : PReg) (s : State) : Outcome :=
  predOp (.plog d o p) 2 d p (fun s e => match o with
    | .bin op a b => plogHolds op (pm s e a) (pm s e b)
    | .not a => ~~~(pm s e a)
    | .mov a => pm s e a
    | .fromv a => laneBits (fun i => vl s e a i != 0)) s
/-- EPSET acts in every engine of the path's mask, whatever its ep; it reads ep and sh.rows at its issue (00 R7). Log entry 81. -/
def execEpset (o : EpsetSrc) (s : State) : Outcome :=
  commit (.epset o) (vectorCheck (.epset o) s)
    (fun s => inFlight s 2 (.ep ((pathEngines s).map (fun e => (e, (getEng (curGang s) e).rows != 0 && match o with
      | .set a => vl s e a 0 != 0
      | .and a => (getEng (curGang s) e).ep && vl s e a 0 != 0
      | .all => true))))) s

/-! Conversion (R128, R129). -/

/-- A conversion of the bits of a lane; between equal formats the value is unchanged but for a NaN (R129). -/
def convertFrom (src dst : Fmt) (rnd : Rnd) (sat : Bool) (x : Nat) : Nat :=
  if src = dst && !(fmtVal src x).isNan then x % 2 ^ src.width else convert dst rnd sat (fmtVal src x)
def execVcvt (dst src : Fmt) (d : VDst) (a : VSrc) (rnd : Rnd) (sat : Bool) (p : PReg) (s : State) : Outcome :=
  laneOp (.vcvt dst src d a rnd sat p) 3 d p
    (fun s e i => BitVec.ofNat 32 (convertFrom src (selFmt s e dst) rnd sat (vl s e a i).toNat)) s
def execVqnt (dst : Fmt) (d : VDst) (a b : VSrc) (rnd : Rnd) (sat : Bool) (p : PReg) (s : State) : Outcome :=
  laneOp (.vqnt dst d a b rnd sat p) 3 d p
    (fun s e i => BitVec.ofNat 32 (convert (selFmt s e dst) rnd sat ((f32v (vl s e a i)).mul (f32v (vl s e b i))))) s
def execVdqn (src : Fmt) (d : VDst) (a b : VSrc) (rnd : Rnd) (sat : Bool) (p : PReg) (s : State) : Outcome :=
  laneOp (.vdqn src d a b rnd sat p) 3 d p
    (fun s e i => BitVec.ofNat 32 (convert .f32 rnd sat ((fmtVal (selFmt s e src) (vl s e a i).toNat).mul (f32v (vl s e b i))))) s

/-! Reductions (R132, R133, 04 R115). -/

def redIdentity : RedOp → Word
  | .add => 0x80000000
  | .min => 0x7F800000
  | .max => 0xFF800000
  | .iadd => 0
  | .imin => 0x7FFFFFFF
  | .imax => 0x80000000
  | .umin => 0xFFFFFFFF
  | .umax => 0
  | .and => 0xFFFFFFFF
  | .or => 0
  | .xor => 0
/-- One step of a reduction. -/
def redCombine (op : RedOp) (rnd : Rnd) (sat : Bool) (a b : Word) : Word :=
  match op with
  | .add => fpAdd rnd sat a b
  | .min => fpMinMax false a b
  | .max => fpMinMax true a b
  | .iadd => a + b
  | .imin => minMax32 false false a b
  | .imax => minMax32 false true a b
  | .umin => minMax32 true false a b
  | .umax => minMax32 true true a b
  | .and => a &&& b
  | .or => a ||| b
  | .xor => a ^^^ b
/-- A step whose operands may be the identity, none here, which leaves every value unchanged, a zero's sign under RDN too (04
R115). DEDUCED (log entry 82): a value combined with the identity is finished as any result of the step is. -/
def redStep (op : RedOp) (rnd : Rnd) (sat : Bool) : Option Word → Option Word → Option Word
  | none, none => none
  | some a, none => some (redCombine op .rne sat a (redIdentity op))
  | none, some b => some (redCombine op .rne sat (redIdentity op) b)
  | some a, some b => some (redCombine op rnd sat a b)
/-- One level of the pairwise tree. -/
def pairUp {α : Type} (f : α → α → α) : List α → List α
  | a :: b :: r => f a b :: pairUp f r
  | l => l
/-- The exact sum of the values that take part, clamped once, at the end. -/
def intSum (sat : Bool) (vs : List (Option Word)) : Word := intFinish sat (vs.foldl (fun a v => a + (v.getD 0).toInt) 0)
/-- The fixed pairwise tree over 16 values. -/
def redTree (op : RedOp) (rnd : Rnd) (sat : Bool) (vs : List (Option Word)) : Word :=
  if op = .iadd then intSum sat vs
  else
    let f := redStep op rnd sat
    (((pairUp f (pairUp f (pairUp f (pairUp f vs)))).headD none)).getD (redIdentity op)
def execVred (op : RedOp) (d : VDst) (a : VSrc) (rnd : Rnd) (sat : Bool) (p : PReg) (s : State) : Outcome :=
  laneOp (.vred op d a rnd sat p) 4 d p
    (fun s e _ => redTree op rnd sat ((List.range 16).map (fun i => if (pm s e p).getLsbD i then some (vl s e a i) else none))) s

/-! Lane movement through the pattern table (R130, R131). -/

def patByte (E : Engine) (bank : Bool) (n : Nat) : Nat := (spGet 0 E.pat (if bank then 1 else 0)).toNat / 2 ^ (8 * n) % 256
def execVperm (d : VDst) (a b : VSrc) (n : BitVec 5) (p : PReg) (s : State) : Outcome :=
  laneOp (.vperm d a b n p) 3 d p
    (fun s e i =>
      let E := getEng (curGang s) e
      let x := patByte E E.patBank (16 * n.toNat + i)
      if 128 ≤ x then 0 else if x % 32 < 16 then vl s e a (x % 32) else vl s e b (x % 32 - 16)) s
def execVpld (a : XSrc) (s : State) : Outcome :=
  commit (.vpld a) (vectorCheck (.vpld a) s)
    (fun s => inFlight s 8 (.patLoad ((actives s).map (fun e =>
      (e, BitVec.allOnes 4096, BitVec.ofNat 4096 (leNat (spadBytes (curHw s e) (curWin s) (xa s e a).toNat 512))))))) s
def execVpldSwap (s : State) : Outcome :=
  commit .vpldSwap (vectorCheck .vpldSwap s) (fun s => inFlight s 2 (.patSwap (actives s))) s

/-! Tile access (R134, R135). -/

def execVtrd (f : Fmt) (d : VDst) (t : Tile) (dir : Dir) (idx : BitVec 4) (g : BitVec 3) (p : PReg) (s : State) : Outcome :=
  laneOp (.vtrd f d t dir idx g p) 3 d p
    (fun s e i => tileElem (curGang s) (curWin s) e t dir idx.toNat (tileW s e f) g.toNat i) s
def execVtwr (f : Fmt) (t : Tile) (a : VSrc) (dir : Dir) (idx : BitVec 4) (g : BitVec 3) (p : PReg) (s : State) : Outcome :=
  commit (.vtwr f t a dir idx g p) (vectorCheck (.vtwr f t a dir idx g p) s)
    (fun s =>
      inFlight s 3 (.group t dir idx.toNat ((actives s).map (fun e => (e, tileW s e f, g.toNat, pm s e p, vVal (curGang s) e a))))) s

end Sys2Proof.Machine
end

