-- ==== Sys2Proof/Machine/Cross.lean ====
section
/-! DEFINITION. Cross-engine instructions (05 R136–R138). -/

namespace Sys2Proof.Machine

/-- The gang's one network: the other half-gang's bundle used it in this gang cycle (R136). -/
def crossCheck (i : Instr) (s : State) : Verdict :=
  (commonCheck i s).and (waitUnless ((curGang s).netAt != (curGang s).gc + 1) .other)
def useNet (s : State) : State := modCur s (fun G => { G with netAt := G.gc + 1 })
def crossOp (i : Instr) (lat : Nat) (d : VDst) (p : PReg) (f : State → Nat → Nat → Word) (s : State) : Outcome :=
  commit i (crossCheck i s) (fun s => vWrite lat d p (f s) (useNet s)) s

def fillVal (s : State) : Fill → Word
  | .s r => (sReg (curGang s) r.toNat).setWidth 32
  | .imm n => n.signExtend 32

def execGshf (d : VDst) (a b : VSrc) (fill : Fill) (p : PReg) (s : State) : Outcome :=
  crossOp (.gshf d a b fill p) 8 d p
    (fun s e i =>
      let n := (vl s e b i).toNat % 16
      if isActive s n then vl s n a i else fillVal s fill) s
/-- GPSH: the highest-numbered sender of a lane wins; lanes without a sender are unchanged. -/
def execGpsh (d : VDst) (a b : VSrc) (p : PReg) (s : State) : Outcome :=
  commit (.gpsh d a b p) (crossCheck (.gpsh d a b p) s)
    (fun s =>
      let s := useNet s
      let sender (dst i : Nat) : Option Nat :=
        ((actives s).filter (fun e => (vl s e b i).toNat % 16 == dst && (pm s e p).getLsbD i)).getLast?
      match d with
      | .zero => s
      | .reg r => inFlight s 8 (.v r.toNat ((actives s).map (fun e =>
          (e, laneBits (fun i => (sender e i).isSome),
            lanes512 (fun i => match sender e i with | some n => vl s n a i | none => 0)))))) s
/-- Lane i of engine e as a reduction takes it: the identity where the engine or the lane is off. -/
def redIn (s : State) (a : VSrc) (p : PReg) (e i : Nat) : Option Word :=
  if isActive s e && (pm s e p).getLsbD i then some (vl s e a i) else none
def execGred (op : RedOp) (d : VDst) (a : VSrc) (rnd : Rnd) (sat : Bool) (p : PReg) (s : State) : Outcome :=
  crossOp (.gred op d a rnd sat p) 12 d p
    (fun s _ i => redTree op rnd sat ((List.range 16).map (fun e => redIn s a p e i))) s
def execGbcst (d : VDst) (a : VSrc) (n : BitVec 4) (fill : Fill) (p : PReg) (s : State) : Outcome :=
  crossOp (.gbcst d a n fill p) 8 d p
    (fun s _ i => if isActive s n.toNat then vl s n.toNat a i else fillVal s fill) s
/-- A prefix in ascending engine order, one rounding per step; an integer prefix sum is exact and clamped once. -/
def scanTo (op : RedOp) (rnd : Rnd) (sat : Bool) (vs : List (Option Word)) : Word :=
  if op = .iadd then intSum sat vs else (vs.foldl (redStep op rnd sat) none).getD (redIdentity op)
def execGscan (op : RedOp) (ex : Bool) (d : VDst) (a : VSrc) (rnd : Rnd) (sat : Bool) (p : PReg) (s : State) : Outcome :=
  crossOp (.gscan op ex d a rnd sat p) 14 d p
    (fun s e i => scanTo op rnd sat ((List.range (if ex then e else e + 1)).map (fun n => redIn s a p n i))) s

end Sys2Proof.Machine
end

