-- ==== Sys2Proof/Machine/Diverge.lean ====
section
/-! DEFINITION. Divergence instructions and votes (13 R299–R302, R306; 14 R326–R328). -/

namespace Sys2Proof.Machine

/-- A path that goes on after f keeps the stall of its bundle (02 R57): it is not eligible before. -/
def keepStall (f : State → State) (s : State) : State :=
  let e := (curPath s).elig
  let s := f s
  modCur s (fun G => modPath G (if (getPath G s.cur.path).live then s.cur.path else .A) (fun P => { P with elig := max P.elig e }))
/-- T, F and Z of a GIF (13 R299). -/
def gifT (c : Cond) (a b : XSrc) (s : State) : Mask := maskOf (votersC s c a b)
def gifF (c : Cond) (a b : XSrc) (s : State) : Mask := maskOf (actives s) &&& ~~~(gifT c a b s)
def gifZ (s : State) : Mask := s.cur.mask &&& ~~~(maskOf (actives s))
def gifDiverges (c : Cond) (a b : XSrc) (s : State) : Bool := gifT c a b s != 0 && gifF c a b s != 0

def divergeCheck (i : Instr) (s : State) : Verdict :=
  (commonCheck i s).and (match i with
    | .gif c _ a b _ => trapIf (gifDiverges c a b s && decide (136 ≤ stackDepth (curGang s))) 0x05
    | .gelse _ | .gend => waitUnless (!(govSpilled s (curGang s) s.cur.path)) .other
    | _ => .ok)

/-- Request the spare for path B (13 R306), in this main cycle or `d` later: the pair entry records it until it is granted. -/
def requestSpare (d : Nat) (s : State) : State :=
  let s := modCur s (fun G => if G.spareReq || (G.spare && G.spareFreeAt.isNone) then G
    else { G with spareReq := true, spareAskAt := nowCyc s + d })
  setPair s s.cur.gang (fun e => { e with spreq := true })

/-- A GIF that pushes a pair entry: the issuing path becomes or stays slot A, slot B starts at the target (R299, R302). A request
that slot B's path had recorded ends as it becomes slot A (R308; log entry 109). -/
def pairSplit (target : VAddr) (tm fm : Mask) (long : Bool) (s : State) : State :=
  let s := if s.cur.path = .B then swapStack (retagArrivals s s.cur.gang becomesA) s.cur.gang else s
  let s := pushEnt s s.cur.gang
    ⟨target, target, tm, fm, false, false, false, false, false, false, false⟩
  let G0 := curGang s
  let P := curPath s
  let t := G0.gc
  let wasSpare := P.onspare
  let s := modCur s (fun G =>
    let G := if s.cur.path = .B then retagB G else G
    let G := { G with
      ilks := G.ilks.map (fun k => { k with both := !k.ended }), oldWords := splitWords s.cur.path G.oldWords
      relGc := if s.cur.path = .A then (G.relGc.1, G.relGc.1) else (G.relGc.2, G.relGc.2), gifGc := G.gc + 1 }
    let G := if wasSpare then releaseSpare (t + 1) G else G
    let G := if s.cur.path = .B then { G with spareReq := false } else G
    { G with
      a := { P with mask := tm, pc := nextPc s, onspare := false, entering := .none, elig := if wasSpare then t + 6 else t + 1 }
      b := { P with live := true, pc := target, mask := fm, onspare := false, entering := .diverged, elig := t + 2,
                    resolveAt := none, parked := false, barOpen := none, barResume := none, barx := false, hold := .none,
                    eligPhases := none }
      handoverEnd := none })
  let s := { s with cur := { s.cur with path := .A } }
  if long then requestSpare (if wasSpare then 1 else 0) s else s

def execGif (c : Cond) (long : Bool) (xa xb : XSrc) (off : BitVec 24) (s : State) : Outcome :=
  commit (.gif c long xa xb off) (divergeCheck (.gif c long xa xb off) s)
    (keepStall fun s =>
      let T := gifT c xa xb s
      let F := gifF c xa xb s
      let Z := gifZ s
      let target := branchTarget s off
      let other := getPath (curGang s) (otherSlot s.cur.path)
      if F = 0 then s
      else if T = 0 then modCurPath (goTo target 2 s) (fun P => { P with entering := .uniform })
      else if !other.live then pairSplit target (T ||| Z) F long s
      else
        let s := pushEnt s s.cur.gang
          ⟨target, target, T ||| Z, F, false, false, false, false, false, decide (s.cur.path = .B), true⟩
        modCurPath s (fun P => { P with mask := T ||| Z })) s

/-- GELSE (R300). -/
def execGelse (off : BitVec 24) (s : State) : Outcome :=
  commit (.gelse off) (divergeCheck (.gelse off) s)
    (fun s =>
      let e := branchTarget s off
      let G := curGang s
      match govIdx G s.cur.path, govEnt G s.cur.path with
      | some i, some g =>
        if s.cur.entering = .diverged then setEnt s s.cur.gang i (fun x => { x with rpc := e })
        else if s.cur.entering = .uniform then s
        else if g.deferred && !g.phaseElse && g.dpc == s.cur.pc then
          let s := setEnt s s.cur.gang i (fun x => { x with rpc := e, phaseElse := true })
          let m := g.fmask &&& ~~~G.retired
          modCur s (fun G => modPath G s.cur.path (fun P =>
            { P with mask := m, elig := G.gc + 2, resolveAt := if m = 0 then some G.gc else none }))
        else
          let s := if !g.deferred && g.dpc == s.cur.pc then setEnt s s.cur.gang i (fun x => { x with rpc := e }) else s
          goTo e 2 s
      | _, _ => if s.cur.entering = .none then goTo e 2 s else s) s

/-- GEND (R301). -/
def execGend (s : State) : Outcome :=
  commit .gend (divergeCheck .gend s)
    (keepStall fun s =>
      let G := curGang s
      match govIdx G s.cur.path, govEnt G s.cur.path with
      | some i, some g =>
        if g.rpc != s.cur.pc then s
        else if g.deferred then
          let m := (g.tmask ||| g.fmask) &&& ~~~G.retired
          let s := popIdx s s.cur.gang i
          modCur s (fun G => modPath G s.cur.path (fun P =>
            { P with mask := m, elig := G.gc + 4, resolveAt := if m = 0 then some G.gc else none }))
        else recheckTeam (arrivePair s s.cur.gang s.cur.path i (nextPc s) G.gc) s.cur.gang
      | _, _ => s) s

/-- GSPLIT: requests the spare while both slots are live on the gang's own sequencer (R306). -/
def execGsplit (s : State) : Outcome :=
  commit .gsplit (divergeCheck .gsplit s)
    (fun s => let G := curGang s
      if G.a.live && G.b.live && !G.a.onspare && !G.b.onspare then requestSpare 0 s else s) s

/-- GOFF (14 R327). -/
def execGoff (g : GoffSel) (s : State) : Outcome :=
  commit (.goff g) (divergeCheck (.goff g) s)
    (fun s => retireEngines (match g with
      | .all => s.cur.mask
      | .cond c a b => maskOf (votersC s c a b)) s) s

def maskWord (m : Mask) : DWord := m.setWidth 64
def execGany (c : Cond) (rd : SReg) (xa xb : XSrc) (s : State) : Outcome :=
  commit (.gany c rd xa xb) (divergeCheck (.gany c rd xa xb) s)
    (fun s => sWrite 1 rd (if (votersC s c xa xb).isEmpty then 0 else 1) s) s
def execGall (c : Cond) (rd : SReg) (xa xb : XSrc) (s : State) : Outcome :=
  commit (.gall c rd xa xb) (divergeCheck (.gall c rd xa xb) s)
    (fun s => sWrite 1 rd (if (votersC s c xa xb).length = (votersE s).length then 1 else 0) s) s
def execGcnt (c : Cond) (rd : SReg) (xa xb : XSrc) (s : State) : Outcome :=
  commit (.gcnt c rd xa xb) (divergeCheck (.gcnt c rd xa xb) s)
    (fun s => sWrite 1 rd (BitVec.ofNat 64 (votersC s c xa xb).length) s) s
def execGmsk (g : GmskSel) (rd : SReg) (s : State) : Outcome :=
  commit (.gmsk g rd) (divergeCheck (.gmsk g rd) s)
    (fun s => sWrite 1 rd (maskWord (match g with
      | .cond c a b => maskOf (votersC s c a b)
      | .path => s.cur.mask
      | .act => maskOf (votersE s)
      | .ret => (curGang s).retired)) s) s

end Sys2Proof.Machine
end

