-- ==== Sys2Proof/Machine/LoadStore.lean ====
section
/-! DEFINITION. The L and W slots and the sequencer's memory instructions (11 R256–R265). -/

namespace Sys2Proof.Machine

/-! Vector and tile forms. -/

def execLdv (d : VDst) (a : XSrc) (byp : Bool) (p : PReg) (s : State) : Outcome :=
  commit (.ldv d a byp p) (lwCheck (.ldv d a byp p) s) (vLoad (.ldv d a byp p) d byp) s
def execLdg (d : VDst) (a : XSrc) (b : VSrc) (byp : Bool) (p : PReg) (s : State) : Outcome :=
  commit (.ldg d a b byp p) (lwCheck (.ldg d a b byp p) s) (vLoad (.ldg d a b byp p) d byp) s
def execLdx (d : VDst) (a b : XSrc) (byp : Bool) (p : PReg) (s : State) : Outcome :=
  commit (.ldx d a b byp p) (lwCheck (.ldx d a b byp p) s) (vLoad (.ldx d a b byp p) d byp) s
def execStv (v : VSrc) (a : XSrc) (byp : Bool) (p : PReg) (s : State) : Outcome :=
  commit (.stv v a byp p) (lwCheck (.stv v a byp p) s) (fun s => vStore (.stv v a byp p) byp (fun e i => vw s e v i) s) s
def execStg (v : VSrc) (a : XSrc) (c : VSrc) (byp : Bool) (p : PReg) (s : State) : Outcome :=
  commit (.stg v a c byp p) (lwCheck (.stg v a c byp p) s) (fun s => vStore (.stg v a c byp p) byp (fun e i => vw s e v i) s) s
def execStx (v : VSrc) (a c : XSrc) (byp : Bool) (p : PReg) (s : State) : Outcome :=
  commit (.stx v a c byp p) (lwCheck (.stx v a c byp p) s) (fun s => vStore (.stx v a c byp p) byp (fun e i => vw s e v i) s) s

/-- LDM and STM move one line of a tile (R259). -/
def execLdm (t : Tile) (a : XSrc) (dir : Dir) (idx : BitVec 4) (byp : Bool) (p : PReg) (s : State) : Outcome :=
  commit (.ldm t a dir idx byp p) (lwCheck (.ldm t a dir idx byp p) s)
    (fun s =>
      let part (e : Nat) : Nat × Half × BitVec 512 :=
        (e, pRegE (getEng (curGang s) e) p.toNat, lanes512 (fun i => spWord s e (xa s e a + w4 i).toNat))
      holdStage s.cur.stall (inFlight s (6 + s.cur.stall) (.line t dir idx.toNat ((actives s).map part)))) s
def execStm (t : Tile) (a : XSrc) (dir : Dir) (idx : BitVec 4) (byp : Bool) (p : PReg) (s : State) : Outcome :=
  commit (.stm t a dir idx byp p) (lwCheck (.stm t a dir idx byp p) s)
    (fun s => vStore (.stm t a dir idx byp p) byp (fun e i => tileWord s e t dir idx.toNat i) s) s

/-- LDMK and STMK move the rows of an m register that shape selects (R260). -/
def execLdmk (m : MReg) (a b : XSrc) (rb : BitVec 2) (byp : Bool) (s : State) : Outcome :=
  commit (.ldmk m a b rb byp) (lwCheck (.ldmk m a b rb byp) s)
    (fun s =>
      let row (e r : Nat) : BitVec 512 :=
        if (mkRows s e rb).contains r then
          BitVec.ofNat 512 (leNat (spadBytes (curHw s e) (curWin s) (xa s e a + BitVec.ofNat 32 r * xa s e b).toNat 64))
        else 0
      holdStage s.cur.stall (inFlight s (6 + s.cur.stall)
        (.rows m.toNat ((actives s).map (fun e => (e, (List.range 16).map (fun r => (r, row e r)))))))) s
def execStmk (m : MReg) (a c : XSrc) (rb : BitVec 2) (byp : Bool) (s : State) : Outcome :=
  commit (.stmk m a c rb byp) (lwCheck (.stmk m a c rb byp) s)
    (fun s => vStore (.stmk m a c rb byp) byp
      (fun e k => (mRow (getEng (curGang s) e) m.toNat (k / 16)).extractLsb' (32 * (k % 16)) 32) s) s

/-- LDB pushes words onto q2 or q3; they are readable from t + 6 + s on (R261). -/
def execLdb (q3 : Bool) (a : XSrc) (n : BitVec 4) (byp : Bool) (s : State) : Outcome :=
  commit (.ldb q3 a n byp) (lwCheck (.ldb q3 a n byp) s)
    (fun s =>
      let words (e : Nat) : List Word := (laneAddrs s e (.ldb q3 a n byp)).map (fun x => spWord s e x.2.toNat)
      holdStage s.cur.stall (inFlight s (6 + s.cur.stall)
        (.qpush (if q3 then 3 else 2) ((actives s).map (fun e => (e, words e)))))) s

/-- LDW loads one row of a B operand with the smoothing fold (R262). -/
def execLdw (src dst : Fmt) (m : MReg) (a xs : XSrc) (row : BitVec 4) (byp : Bool) (s : State) : Outcome :=
  commit (.ldw src dst m a xs row byp) (lwCheck (.ldw src dst m a xs row byp) s)
    (fun s => holdStage s.cur.stall (inFlight s (6 + s.cur.stall)
      (.rows m.toNat ((actives s).map (fun e => (e, [(row.toNat, ldwRow s e src dst a xs row.toNat)])))))) s

/-! The sequencer's memory instructions (R263–R265). -/

def sizeBytes : Size → Nat
  | .b => 1
  | .h => 2
  | .w => 4
  | .d => 8
/-- va = (sa + off) mod 2^64 (R263). -/
def seqVa (s : State) (ra : SReg) (off : BitVec 26) : Nat := (sv s ra + off.signExtend 64).toNat
def rmwBytes (dbl : Bool) : Nat := if dbl then 8 else 4

def seqMemCheck (i : Instr) (s : State) : Verdict :=
  (commonCheck i s).and (match i with
    | .lds sz _ ra off => accessVerdict s (seqVa s ra off) (sizeBytes sz) 1
    | .sts sz _ ra off => (accessVerdict s (seqVa s ra off) (sizeBytes sz) 2).and (waitUnless (decide ((curGang s).nstore < 63)) .other)
    | .amo _ dbl _ ra _ => accessVerdict s (sv s ra).toNat (rmwBytes dbl) 3
    | .cas dbl _ ra _ _ => accessVerdict s (sv s ra).toNat (rmwBytes dbl) 3
    | _ => .ok)

/-- An AMO or CAS of the path to a line has not been performed: a later LDS of that line does not hit the L1 (10 R233). -/
def atomicPending (s : State) (pa : Nat) : Bool :=
  (curGang s).txns.any (fun U => (curPath s).own.contains U.id && U.accs.any (fun a => !a.done && isAtomic a.op && a.pa / 64 == pa / 64))

/-- LDS: an L1 hit is written in t + 4; a miss fetches the line (classes 0 and 1) or the bytes (08 R195). DEDUCED (log entry
101): a line in the L1 is hit even where the path's own W-slot store or a copy that WAIT has shown complete wrote it at its
home, for R195 and R236 keep it until an ACQ, though R233 orders that write before the LDS. -/
def execLds (sz : Size) (rd ra : SReg) (off : BitVec 26) (s : State) : Outcome :=
  commit (.lds sz rd ra off) (seqMemCheck (.lds sz rd ra off) s)
    (fun s =>
      let va := seqVa s ra off
      let n := sizeBytes sz
      let G := curGang s
      match accessTr s va 1 with
      | (none, _) => s
      | (some t, es) =>
        let s := cacheWalk s es
        let hit := if t.2.2.1 < 2 && !acquirePending s && !atomicPending s t.1 then l1Find G t.1 else none
        match hit with
        | some x => addIlk s rd.toNat (.at (G.gc + 4) (BitVec.ofNat 64 (l1Bytes x t.1 n)))
        | none =>
          let acc (pa va len : Nat) : Acc :=
            { va := va, pa := pa, len := len, key := t.2.1, cls := t.2.2.1, byp := false, op := .read, rdTick := t.2.2.2,
              tag := none, eng := 0, lane := 0, done := false, got := 0, bad := false }
          let accs := if t.2.2.1 < 2 then
              [acc (t.1 / 64 * 64) (va / 64 * 64) 32, acc (t.1 / 64 * 64 + 32) (va / 64 * 64 + 32) 32]
            else [acc t.1 va n]
          addTxn (.lds sz rd ra off) (ilkOfNext s rd.toNat) (.lds rd.toNat n va) accs none) s

/-- STS: written through to the home; a line present in the L1 is updated (08 R195). -/
def execSts (sz : Size) (rd ra : SReg) (off : BitVec 26) (s : State) : Outcome :=
  commit (.sts sz rd ra off) (seqMemCheck (.sts sz rd ra off) s)
    (fun s =>
      let n := sizeBytes sz
      let v := (sv s rd).toNat % 2 ^ (8 * n)
      let m := mkAcc s (seqVa s ra off) n 2 (.write (BitVec.ofNat 512 v)) false 0 0
      match m.1 with
      | none => s
      | some a => raiseStore (addTxn (.sts sz rd ra off) (modCur m.2 (l1Store a.pa n v)) .sts [a] none)) s

/-- An interlocked read and write at the home (R264, R265). -/
def rmwIssue (i : Instr) (rd : SReg) (va n : Nat) (op : AccOp) (s : State) : State :=
  let m := mkAcc s va n 3 op false 0 0
  match m.1 with
  | none => s
  | some a => addTxn i (ilkOfNext m.2 rd.toNat) (.rmw rd.toNat n) [a] none
def execAmo (op : AmoOp) (dbl : Bool) (rd ra rb : SReg) (s : State) : Outcome :=
  commit (.amo op dbl rd ra rb) (seqMemCheck (.amo op dbl rd ra rb) s)
    (fun s => rmwIssue (.amo op dbl rd ra rb) rd (sv s ra).toNat (rmwBytes dbl) (.amo op (sv s rb)) s) s
def execCas (dbl : Bool) (rd ra rb rc : SReg) (s : State) : Outcome :=
  commit (.cas dbl rd ra rb rc) (seqMemCheck (.cas dbl rd ra rb rc) s)
    (fun s => rmwIssue (.cas dbl rd ra rb rc) rd (sv s ra).toNat (rmwBytes dbl) (.cas (sv s rb) (sv s rc)) s) s

end Sys2Proof.Machine
end

