-- ==== Sys2Proof/Machine/Sync.lean ====
section
/-! DEFINITION. The Y slot: waits, named barriers, Thyme operations, release and acquire, time (11 R279–R287). -/

namespace Sys2Proof.Machine

/-- A counter against a threshold; 63 places no constraint (R279). -/
def under (n : Nat) (t : BitVec 6) : Bool := t == 63 || decide (n ≤ t.toNat)
def ctrValue (G : Gang) : Ctr → Nat
  | .tile => G.ntile
  | .join => G.njoin
  | .pred => G.npred
  | .copy => G.ncopy
  | .store => G.nstore

/-- A Thyme operation exists at die and package scope only: the encoding raises 0x01 before anything else (R283). -/
def thymeScopeBad : Instr → Bool
  | .syna sc _ | .synw sc _ | .sbc sc _ _ | .sbcRd sc _ _ | .sred _ sc _ _ _ => !(sc == .die || sc == .package)
  | _ => false

def syncCheck (i : Instr) (s : State) : Verdict :=
  if thymeScopeBad i then trapOf 0x01 else (commonCheck i s).and (match i with
    | .wait ts tj tc tt =>
      let G := curGang s
      (waitUnless (under G.nstore ts && under G.njoin tj && under G.ntile tt) .wait).and (waitUnless (under G.ncopy tc) .copy)
    | .waitr c ra => waitUnless (decide (ctrValue (curGang s) c ≤ min (sv s ra).toNat 63)) (if c = .copy then .copy else .wait)
    | .bara _ => relCheck s
    | .barw b => barwCheck b.toNat s
    | .barx b => barxCheck b.toNat s
    | .syna sc ch => (thymeCheck sc ch.toNat s).and ((relCheck s).and (waitUnless (!arrivedOpen s ch.toNat (Scope.isPkg sc)) (.synw ch.toNat)))
    | .synw sc ch => (thymeCheck sc ch.toNat s).and (waitUnless (!synwPending s ch.toNat (Scope.isPkg sc)) (.synw ch.toNat))
    | .sbc sc ch _ => thymeCheck sc ch.toNat s
    | .sbcRd sc ch _ => thymeCheck sc ch.toNat s
    | .sred _ sc ch _ _ =>
      (thymeCheck sc ch.toNat s).and ((relCheck s).and (waitUnless (!arrivedOpen s ch.toNat (Scope.isPkg sc)) (.synw ch.toNat)))
    | .fence _ => relCheck s
    | .rel _ => relCheck s
    | .acqr _ ra => accessVerdict s (sv s ra).toNat 4 1
    | _ => .ok)

def execWait (ts tj tc tt : BitVec 6) (s : State) : Outcome :=
  commit (.wait ts tj tc tt) (syncCheck (.wait ts tj tc tt) s) (fun s => s) s
def execWaitr (c : Ctr) (ra : SReg) (s : State) : Outcome :=
  commit (.waitr c ra) (syncCheck (.waitr c ra) s) (fun s => s) s

/-- BARI: the target is set and the count returns to 0; waiting paths wait for the new target (R281). -/
def execBari (b : BitVec 4) (ra : SReg) (s : State) : Outcome :=
  commit (.bari b ra) (syncCheck (.bari b ra) s)
    (fun s => match curTeamNo s with
      | some t => modTeam (settleBar s t b.toNat) t (fun T => setBar T b.toNat
          { barOf T b.toNat with target := ((sv s ra).setWidth 8).toNat, count := 0, due := false })
      | none => s) s
def execBara (b : BitVec 4) (s : State) : Outcome :=
  commit (.bara b) (syncCheck (.bara b) s) (recordPhase b.toNat false) s

/-- The wait of a bundle at a barrier is over. -/
def clearBar (s : State) : State := modCurPath s (fun P => { P with barOpen := none, barResume := none, barx := false })
/-- BARW: its completion is an acquire at team scope (10 R247). DESIGN CHOICE (log entry 107): where no phase completes, one that
never waited performs it, a disabled barrier's included; one that a BARI to target 0 lets go, and a BARX without an arrival, do
not. -/
def execBarw (b : BitVec 4) (s : State) : Outcome :=
  commit (.barw b) (syncCheck (.barw b) s)
    (fun s => clearBar (if (curPath s).barOpen.isNone then doAcquire s else s)) s
/-- BARX: the arrival is made while the bundle waits; a disabled barrier holds nothing (R281, R282). -/
def execBarx (b : BitVec 4) (s : State) : Outcome :=
  commit (.barx b) (syncCheck (.barx b) s)
    (fun s => clearBar (if (curPath s).barx then s else recordPhase b.toNat false s)) s

/-! Thyme (R283, R284). -/

def execSyna (sc : Scope) (ch : BitVec 6) (s : State) : Outcome :=
  commit (.syna sc ch) (syncCheck (.syna sc ch) s) (thymeArrive sc ch.toNat none) s
def execSynw (sc : Scope) (ch : BitVec 6) (s : State) : Outcome :=
  commit (.synw sc ch) (syncCheck (.synw sc ch) s) (fun s => s) s
/-- SRED: an arrival carrying a value; sd is interlocked until the round's result. -/
def execSred (op : SredOp) (sc : Scope) (ch : BitVec 6) (sd ra : SReg) (s : State) : Outcome :=
  commit (.sred op sc ch sd ra) (syncCheck (.sred op sc ch sd ra) s)
    (fun s =>
      let s := thymeArrive sc ch.toNat (some (op, (sv s ra).setWidth 32)) s
      addIlk s sd.toNat (.sred ch.toNat (arrivalNum s ch.toNat (Scope.isPkg sc)))) s
/-- Place of a source in the order of one tick (R220): team number, lower gang, path A. -/
def sbcKey (s : State) (T : Team) : Nat :=
  4 * T.num + (if T.gangs.length = 2 then 2 * (s.cur.gang % 2) else 0) + (if s.cur.path = .B then 1 else 0)
def execSbc (sc : Scope) (ch : BitVec 6) (ra : SReg) (s : State) : Outcome :=
  commit (.sbc sc ch ra) (syncCheck (.sbc sc ch ra) s)
    (fun s => match gangTeam s s.cur.gang with
      | none => s
      | some T =>
        let pkg := Scope.isPkg sc
        { s with sbcs := s.sbcs ++ [⟨T.ctx, ch.toNat, roundVd T pkg, sv s ra,
                                     2 ^ 20 * (s.tick + thymeCost 14 3 s T.ctx pkg) + sbcKey s T, s.tick + thymeCost 14 3 s T.ctx pkg⟩] }) s
def execSbcRd (sc : Scope) (ch : BitVec 6) (sd : SReg) (s : State) : Outcome :=
  commit (.sbcRd sc ch sd) (syncCheck (.sbcRd sc ch sd) s) (fun s => addIlk s sd.toNat (.sbc ch.toNat)) s

/-! Release, acquire and time (R285–R287). -/

def execFence (sc : Scope) (s : State) : Outcome :=
  commit (.fence sc) (syncCheck (.fence sc) s) (fun s => doAcquire (doRelease sc s)) s
def execAcq (sc : Scope) (s : State) : Outcome :=
  commit (.acq sc) (syncCheck (.acq sc) s) doAcquire s
def execRel (sc : Scope) (s : State) : Outcome :=
  commit (.rel sc) (syncCheck (.rel sc) s) (doRelease sc) s
/-- ACQR: the read at the home, and an acquire whose acquire read it is (10 R245). -/
def execAcqr (sd ra : SReg) (s : State) : Outcome :=
  commit (.acqr sd ra) (syncCheck (.acqr sd ra) s)
    (fun s =>
      let m := mkAcc s (sv s ra).toNat 4 1 .acqr true 0 0
      match m.1 with
      | none => s
      | some a => doAcquire (addTxn (.acqr sd ra) (ilkOfNext m.2 sd.toNat) (.acqr sd.toNat) [a] none)) s
/-- TIME: package time of the tick, or the package cycle, of the issue cycle (R287). -/
def execTime (cyc : Bool) (sd : SReg) (s : State) : Outcome :=
  commit (.time cyc sd) (syncCheck (.time cyc sd) s)
    (fun s => addIlk s sd.toNat (.at ((curGang s).gc + 1) (if cyc then pkgCycle s else ptime s))) s

end Sys2Proof.Machine
end

