-- ==== Sys2Proof/Machine/ThymeEvents.lean ====
section
/-! DEFINITION. Results of Thyme rounds and broadcasts, pre-emption signals, barrier phases, and package time (09
R217–R220, R222, R227, R228; 10 R246, R247; 11 R281–R284). -/

namespace Sys2Proof.Machine

/-! Rounds and broadcasts. -/

def roundDue (s : State) (ctx ch v : Nat) : Option Round :=
  s.rounds.find? (fun r => r.ctx == ctx && r.ch == ch && r.vd == v && (match r.due with | some d => decide (d ≤ s.tick) | none => false))
/-- A member still takes a result: its team runs on the bound grid and the gang has not finished. -/
def stillMember (s : State) (c grid : Nat) (m : Nat × Nat) : Bool :=
  match getTeam s m.1 with
  | some T => T.ctx == c && gridNo T.recId == grid && T.gangs.contains m.2 && !T.done.contains m.2
  | none => false
/-- The round's result takes effect in every member, as an acquire (R217, R219). -/
def execThymeRoundResult (ctx ch v : Nat) (s : State) : Outcome :=
  .next (match roundDue s ctx ch v with
    | none => s
    | some r =>
      let s := { s with rounds := s.rounds.filter (fun q => q != r) }
      r.members.foldl (fun s m => if stillMember s ctx (chGrid s ctx ch) m then
        giveThyme s m.1 m.2 (.round ch r.num (roundValue r)) else s) s)

/-- The broadcast of a channel slot that is delivered next (R220). -/
def firstSbc : List Sbc → Option Sbc
  | [] => none
  | x :: r =>
    match firstSbc r with
    | none => some x
    | some y => if y.key < x.key then some y else some x
def sbcDue (s : State) (ctx ch v : Nat) : Option Sbc :=
  firstSbc (s.sbcs.filter (fun b => b.ctx == ctx && b.ch == ch && b.vd == v && decide (b.due ≤ s.tick)))
/-- Members that hear a broadcast: gangs of the bound grid, on the die or all, which have not finished. -/
def hearers (s : State) (c ch v : Nat) : List (Nat × Nat) :=
  s.teams.flatMap (fun p =>
    if p.2.ctx = c && gridNo p.2.recId == chGrid s c ch && (chPkg s c ch || p.2.vdie == v) then
      (p.2.gangs.filter (fun g => !p.2.done.contains g)).map (fun g => (p.1, g))
    else [])
/-- One broadcast is delivered; others of the slot that are due wait for the next tick. -/
def execSbcDelivery (ctx ch v : Nat) (s : State) : Outcome :=
  .next (match sbcDue s ctx ch v with
    | none => s
    | some b =>
      let rest := (s.sbcs.erase b).map (fun x =>
        if x.ctx = ctx ∧ x.ch = ch ∧ x.vd = v ∧ x.due ≤ s.tick then { x with due := s.tick + 1 } else x)
      (hearers s ctx ch v).foldl (fun s m => giveThyme s m.1 m.2 (.sbc ch b.v)) { s with sbcs := rest })

/-! Pre-emption signals (R227, R228). -/

/-- A signal names teams of one context and reaches their gangs 14 + 3·D ticks later. -/
def execPreemptSignalIssue (ctx : Nat) (teams : List Nat) (s : State) : Outcome :=
  .next { s with signals := s.signals ++
    [⟨teams.filter (fun t => match getTeam s t with | some T => T.ctx == ctx | none => false), s.tick + 14 + 3 * ctxDiam s ctx⟩] }
/-- A gang that traps notes the signal; one that halts, and a halted one, keep it until it runs again (21 R426; 02 R56). -/
def preemptGang (s : State) (g : Nat) : State :=
  let G := getGang s g
  let waits : Bool := match G.stopReq, G.run with
    | some .trap, _ => true
    | some .halt, _ => true
    | _, .stopped .trap => true
    | _, .stopped .halt => true
    | _, _ => false
  if waits then modGang s g (fun G => { G with preempted := true })
  else if G.run = .halted then modGang s g (fun G => { G with stopReq := some .preempt })
  else stopGang s g .preempt
def signalDue (s : State) : Option Signal := s.signals.find? (fun x => decide (x.due ≤ s.tick))
def execPreemptSignalDelivery (s : State) : Outcome :=
  .next (match signalDue s with
    | none => s
    | some x =>
      x.teams.foldl (fun s t => match getTeam s t with
        | some T => T.gangs.foldl (fun s g => if (getGang s g).team = some t then preemptGang s g else s) s
        | none => s) { s with signals := s.signals.erase x })

/-! Barriers (11 R281). -/

def execBarrierPhaseComplete (t b : Nat) (s : State) : Outcome :=
  .next (if (teamBar s t b).due then completePhase s t b else s)
/-- A path that waits on a phase completed four main cycles ago. -/
def waiterDue (s : State) (b : Nat) (P : Path) : Bool :=
  P.live && P.hold == .barrier && (P.barOpen.map (·.1)) == some b && (match P.barResume with | some r => decide (r ≤ nowCyc s) | none => false)
def resumePath (s : State) (b : Nat) (p : PathSlot) (G : Gang) : Gang :=
  if waiterDue s b (getPath G p) then modPath (acquirePath G p) p (fun P => { P with hold := .none }) else G
def waitersDue (s : State) (t b : Nat) : Bool :=
  match getTeam s t with
  | some T => T.gangs.any (fun g => let G := getGang s g
      G.team == some t && G.run == .run && G.frozen == 0 && (waiterDue s b G.a || waiterDue s b G.b))
  | none => false
/-- Waiting paths resume with an acquire at team scope (10 R247). -/
def execBarrierWaiterResume (t b : Nat) (s : State) : Outcome :=
  .next (match getTeam s t with
    | some T => T.gangs.foldl (fun s g =>
        if (getGang s g).team = some t ∧ (getGang s g).run = .run ∧ (getGang s g).frozen = 0 then
          modGang s g (fun G => resumePath s b .B (resumePath s b .A G)) else s) s
    | none => s)

/-! Package time (R222). -/

def execPackageTimeTick (s : State) : Outcome := .next (if s.sub = 3 then { s with tick := s.tick + 1, sub := 0 } else s)

end Sys2Proof.Machine
end

