-- ==== Sys2Proof/Machine/Dispatch.lean ====
section
/-! DEFINITION. The one dispatch of the machine: one arm per instruction of the slots and per step or event of the module (05, 06, 11, 14, 95). -/

namespace Sys2Proof.Machine

def exec (i : Instr) (s : State) : Host.Outcome State Fault Refusal :=
  match i with
  | .delayOnly delay pop => Sys2Proof.Machine.execDelayOnly delay pop s
  | .resultLand g => Sys2Proof.Machine.execResultLand g s
  | .interlockedResultWrite g id => Sys2Proof.Machine.execInterlockedResultWrite g id s
  | .l1Fill g id => Sys2Proof.Machine.execL1Fill g id s
  | .storeAck g id => Sys2Proof.Machine.execStoreAck g id s
  | .tInstrBegin g e id => Sys2Proof.Machine.execTInstrBegin g e id s
  | .tInstrComplete g e id => Sys2Proof.Machine.execTInstrComplete g e id s
  | .keyedPlacement g e bank => Sys2Proof.Machine.execKeyedPlacement g e bank s
  | .patrolScrub g => Sys2Proof.Machine.execPatrolScrub g s
  | .sageQueuePush g e => Sys2Proof.Machine.execSageQueuePush g e s
  | .copyCommandStart t => Sys2Proof.Machine.execCopyCommandStart t s
  | .copyPiece t cmd off => Sys2Proof.Machine.execCopyPiece t cmd off s
  | .copyCommandComplete t cmd => Sys2Proof.Machine.execCopyCommandComplete t cmd s
  | .copyCounterFall g => Sys2Proof.Machine.execCopyCounterFall g s
  | .copyQueuePush t cmd => Sys2Proof.Machine.execCopyQueuePush t cmd s
  | .cpygEntryTake t cmd e => Sys2Proof.Machine.execCpygEntryTake t cmd e s
  | .homeWritePerform r => Sys2Proof.Machine.execHomeWritePerform r s
  | .homeRead r => Sys2Proof.Machine.execHomeRead r s
  | .replicaCreate slice line => Sys2Proof.Machine.execReplicaCreate slice line s
  | .replicaDrop slice line => Sys2Proof.Machine.execReplicaDrop slice line s
  | .lineEviction slice line => Sys2Proof.Machine.execLineEviction slice line s
  | .keySlotWrite sdie slot dw v => Sys2Proof.Machine.execKeySlotWrite sdie slot dw v s
  | .correctableError site => Sys2Proof.Machine.execCorrectableError site s
  | .freezeEnd g => Sys2Proof.Machine.execFreezeEnd g s
  | .uncorrectableError site => Sys2Proof.Machine.execUncorrectableError site s
  | .deferredTrap g => Sys2Proof.Machine.execDeferredTrap g s
  | .thymeRoundResult ctx ch v => Sys2Proof.Machine.execThymeRoundResult ctx ch v s
  | .sbcDelivery ctx ch v => Sys2Proof.Machine.execSbcDelivery ctx ch v s
  | .preemptSignalIssue ctx teams => Sys2Proof.Machine.execPreemptSignalIssue ctx teams s
  | .preemptCapture g => Sys2Proof.Machine.execPreemptCapture g s
  | .thymeVoteError node majority => Sys2Proof.Machine.execThymeVoteError node majority s
  | .barrierPhaseComplete t b => Sys2Proof.Machine.execBarrierPhaseComplete t b s
  | .barrierWaiterResume t b => Sys2Proof.Machine.execBarrierWaiterResume t b s
  | .spareGrant pair => Sys2Proof.Machine.execSpareGrant pair s
  | .spareHandoverEnd g => Sys2Proof.Machine.execSpareHandoverEnd g s
  | .pathResolve g p => Sys2Proof.Machine.execPathResolve g p s
  | .gangFinish g => Sys2Proof.Machine.execGangFinish g s
  | .trapEntry g => Sys2Proof.Machine.execTrapEntry g s
  | .partnerStop g => Sys2Proof.Machine.execPartnerStop g s
  | .resumeCommand die gang => Sys2Proof.Machine.execResumeCommand die gang s
  | .haltCommand die gang => Sys2Proof.Machine.execHaltCommand die gang s
  | .stepCommand die gang => Sys2Proof.Machine.execStepCommand die gang s
  | .watchdogExpiry g => Sys2Proof.Machine.execWatchdogExpiry g s
  | .recordSubmitWindow core bank v => Sys2Proof.Machine.execRecordSubmitWindow core bank v s
  | .recordAccept bank => Sys2Proof.Machine.execRecordAccept bank s
  | .overflowReturn bank => Sys2Proof.Machine.execOverflowReturn bank s
  | .tagDecrement bank tag amount => Sys2Proof.Machine.execTagDecrement bank tag amount s
  | .dispatchSelect die => Sys2Proof.Machine.execDispatchSelect die s
  | .teamStart t => Sys2Proof.Machine.execTeamStart t s
  | .teamSwitch g => Sys2Proof.Machine.execTeamSwitch g s
  | .switchThresholdExpiry g => Sys2Proof.Machine.execSwitchThresholdExpiry g s
  | .quantumExpiry g => Sys2Proof.Machine.execQuantumExpiry g s
  | .migrationSend src dst => Sys2Proof.Machine.execMigrationSend src dst s
  | .contextActivate ctx => Sys2Proof.Machine.execContextActivate ctx s
  | .contextEnd ctx cause va loc => Sys2Proof.Machine.execContextEnd ctx cause va loc s
  | .unmapCommand ctx v => Sys2Proof.Machine.execUnmapCommand ctx v s
  | .unmapComplete ctx => Sys2Proof.Machine.execUnmapComplete ctx s
  | .faultRetry die n => Sys2Proof.Machine.execFaultRetry die n s
  | .faultAbort die n => Sys2Proof.Machine.execFaultAbort die n s
  | .remotePieceArrival p => Sys2Proof.Machine.execRemotePieceArrival p s
  | .linkFlitError link fails => Sys2Proof.Machine.execLinkFlitError link fails s
  | .deviceRegisterWrite core pa v => Sys2Proof.Machine.execDeviceRegisterWrite core pa v s
  | .startCommand o => Sys2Proof.Machine.execStartCommand o s
  | .restartCommand o => Sys2Proof.Machine.execRestartCommand o s
  | .clearLastingMark uclass uidx => Sys2Proof.Machine.execClearLastingMark uclass uidx s
  | .startAttemptRetry o => Sys2Proof.Machine.execStartAttemptRetry o s
  | .firmwareImageUpdate version digestOk => Sys2Proof.Machine.execFirmwareImageUpdate version digestOk s
  | .powerWarning power => Sys2Proof.Machine.execPowerWarning power s
  | .overlimitTrip cause reading => Sys2Proof.Machine.execOverlimitTrip cause reading s
  | .add rd ra rb => Sys2Proof.Machine.execAdd rd ra rb s
  | .sub rd ra rb => Sys2Proof.Machine.execSub rd ra rb s
  | .and rd ra rb => Sys2Proof.Machine.execAnd rd ra rb s
  | .or rd ra rb => Sys2Proof.Machine.execOr rd ra rb s
  | .xor rd ra rb => Sys2Proof.Machine.execXor rd ra rb s
  | .andn rd ra rb => Sys2Proof.Machine.execAndn rd ra rb s
  | .shl rd ra rb => Sys2Proof.Machine.execShl rd ra rb s
  | .shr rd ra rb => Sys2Proof.Machine.execShr rd ra rb s
  | .sar rd ra rb => Sys2Proof.Machine.execSar rd ra rb s
  | .min u rd ra rb => Sys2Proof.Machine.execMin u rd ra rb s
  | .max u rd ra rb => Sys2Proof.Machine.execMax u rd ra rb s
  | .cmp c rd ra rb => Sys2Proof.Machine.execCmp c rd ra rb s
  | .sel rd ra rb rc => Sys2Proof.Machine.execSel rd ra rb rc s
  | .popc rd ra => Sys2Proof.Machine.execPopc rd ra s
  | .clz rd ra => Sys2Proof.Machine.execClz rd ra s
  | .mul rd ra rb => Sys2Proof.Machine.execMul rd ra rb s
  | .mulh u rd ra rb => Sys2Proof.Machine.execMulh u rd ra rb s
  | .div u rd ra rb => Sys2Proof.Machine.execDiv u rd ra rb s
  | .rem u rd ra rb => Sys2Proof.Machine.execRem u rd ra rb s
  | .addi rd ra imm => Sys2Proof.Machine.execAddi rd ra imm s
  | .li rd imm => Sys2Proof.Machine.execLi rd imm s
  | .lih rd imm => Sys2Proof.Machine.execLih rd imm s
  | .br c ra rb off => Sys2Proof.Machine.execBr c ra rb off s
  | .jmp off => Sys2Proof.Machine.execJmp off s
  | .jmpr ra => Sys2Proof.Machine.execJmpr ra s
  | .call off => Sys2Proof.Machine.execCall off s
  | .loop k off => Sys2Proof.Machine.execLoop k off s
  | .trap code => Sys2Proof.Machine.execTrap code s
  | .gif c long xa xb off => Sys2Proof.Machine.execGif c long xa xb off s
  | .gelse off => Sys2Proof.Machine.execGelse off s
  | .goff sel => Sys2Proof.Machine.execGoff sel s
  | .gany c rd xa xb => Sys2Proof.Machine.execGany c rd xa xb s
  | .gall c rd xa xb => Sys2Proof.Machine.execGall c rd xa xb s
  | .gcnt c rd xa xb => Sys2Proof.Machine.execGcnt c rd xa xb s
  | .gmsk sel rd => Sys2Proof.Machine.execGmsk sel rd s
  | .enq ra rb => Sys2Proof.Machine.execEnq ra rb s
  | .recd ra => Sys2Proof.Machine.execRecd ra s
  | .prio ra => Sys2Proof.Machine.execPrio ra s
  | .qid sel rd => Sys2Proof.Machine.execQid sel rd s
  | .csrr rd c => Sys2Proof.Machine.execCsrr rd c s
  | .csrw c ra => Sys2Proof.Machine.execCsrw c ra s
  | .qtop sel rd => Sys2Proof.Machine.execQtop sel rd s
  | .qdie rd ra rb => Sys2Proof.Machine.execQdie rd ra rb s
  | .lds sz rd ra off => Sys2Proof.Machine.execLds sz rd ra off s
  | .sts sz rd ra off => Sys2Proof.Machine.execSts sz rd ra off s
  | .amo op dbl rd ra rb => Sys2Proof.Machine.execAmo op dbl rd ra rb s
  | .cas dbl rd ra rb rc => Sys2Proof.Machine.execCas dbl rd ra rb rc s
  | .xli xd imm => Sys2Proof.Machine.execXli xd imm s
  | .xmov xd a => Sys2Proof.Machine.execXmov xd a s
  | .xadd xd a b => Sys2Proof.Machine.execXadd xd a b s
  | .xsub xd a b => Sys2Proof.Machine.execXsub xd a b s
  | .xmul xd a b => Sys2Proof.Machine.execXmul xd a b s
  | .xand xd a b => Sys2Proof.Machine.execXand xd a b s
  | .xxor xd a b => Sys2Proof.Machine.execXxor xd a b s
  | .xshl xd a b => Sys2Proof.Machine.execXshl xd a b s
  | .xshr xd a b => Sys2Proof.Machine.execXshr xd a b s
  | .xpopc xd a => Sys2Proof.Machine.execXpopc xd a s
  | .xpfx xd a b => Sys2Proof.Machine.execXpfx xd a b s
  | .xsel xd a b c => Sys2Proof.Machine.execXsel xd a b c s
  | .xldc f xd a => Sys2Proof.Machine.execXldc f xd a s
  | .xadv st xd a b => Sys2Proof.Machine.execXadv st xd a b s
  | .xhash lg xd a => Sys2Proof.Machine.execXhash lg xd a s
  | .xcmpa rowA rowB sa sb xa xb xd => Sys2Proof.Machine.execXcmpa rowA rowB sa sb xa xb xd s
  | .vaddf d a b tab rnd sat p => Sys2Proof.Machine.execVaddf d a b tab rnd sat p s
  | .vsubf d a b tab rnd sat p => Sys2Proof.Machine.execVsubf d a b tab rnd sat p s
  | .vmulf d a b tab rnd sat p => Sys2Proof.Machine.execVmulf d a b tab rnd sat p s
  | .vfmaf d a b c tab rnd sat p => Sys2Proof.Machine.execVfmaf d a b c tab rnd sat p s
  | .vminf d a b tab p => Sys2Proof.Machine.execVminf d a b tab p s
  | .vmaxf d a b tab p => Sys2Proof.Machine.execVmaxf d a b tab p s
  | .vcmpf c d a b tab p => Sys2Proof.Machine.execVcmpf c d a b tab p s
  | .vrcp d a tab p => Sys2Proof.Machine.execVrcp d a tab p s
  | .vrsq d a tab p => Sys2Proof.Machine.execVrsq d a tab p s
  | .vex2 d a tab p => Sys2Proof.Machine.execVex2 d a tab p s
  | .vlg2 d a tab p => Sys2Proof.Machine.execVlg2 d a tab p s
  | .vtanh d a tab p => Sys2Proof.Machine.execVtanh d a tab p s
  | .vaddi d a b sat p => Sys2Proof.Machine.execVaddi d a b sat p s
  | .vsubi d a b sat p => Sys2Proof.Machine.execVsubi d a b sat p s
  | .vmuli d a b sat p => Sys2Proof.Machine.execVmuli d a b sat p s
  | .vmulhi u d a b p => Sys2Proof.Machine.execVmulhi u d a b p s
  | .vand d a b p => Sys2Proof.Machine.execVand d a b p s
  | .vor d a b p => Sys2Proof.Machine.execVor d a b p s
  | .vxor d a b p => Sys2Proof.Machine.execVxor d a b p s
  | .vshl d a b p => Sys2Proof.Machine.execVshl d a b p s
  | .vshr d a b p => Sys2Proof.Machine.execVshr d a b p s
  | .vsar d a b p => Sys2Proof.Machine.execVsar d a b p s
  | .vmini u d a b p => Sys2Proof.Machine.execVmini u d a b p s
  | .vmaxi u d a b p => Sys2Proof.Machine.execVmaxi u d a b p s
  | .vcmpi c d a b p => Sys2Proof.Machine.execVcmpi c d a b p s
  | .vmov d a p => Sys2Proof.Machine.execVmov d a p s
  | .vli d imm => Sys2Proof.Machine.execVli d imm s
  | .vbcs d sa p => Sys2Proof.Machine.execVbcs d sa p s
  | .vsel d a b pc p => Sys2Proof.Machine.execVsel d a b pc p s
  | .vrot d a n p => Sys2Proof.Machine.execVrot d a n p s
  | .plog d sel p => Sys2Proof.Machine.execPlog d sel p s
  | .epset sel => Sys2Proof.Machine.execEpset sel s
  | .vcvt dst src d a rnd sat p => Sys2Proof.Machine.execVcvt dst src d a rnd sat p s
  | .vqnt dst d a b rnd sat p => Sys2Proof.Machine.execVqnt dst d a b rnd sat p s
  | .vdqn src d a b rnd sat p => Sys2Proof.Machine.execVdqn src d a b rnd sat p s
  | .vred op d a rnd sat p => Sys2Proof.Machine.execVred op d a rnd sat p s
  | .vperm d a b e p => Sys2Proof.Machine.execVperm d a b e p s
  | .vpld xa => Sys2Proof.Machine.execVpld xa s
  | .vtrd f d t dir idx g p => Sys2Proof.Machine.execVtrd f d t dir idx g p s
  | .vtwr f t a dir idx g p => Sys2Proof.Machine.execVtwr f t a dir idx g p s
  | .gshf d a b fill p => Sys2Proof.Machine.execGshf d a b fill p s
  | .gpsh d a b p => Sys2Proof.Machine.execGpsh d a b p s
  | .gred op d a rnd sat p => Sys2Proof.Machine.execGred op d a rnd sat p s
  | .gbcst d a n fill p => Sys2Proof.Machine.execGbcst d a n fill p s
  | .gscan op ex d a rnd sat p => Sys2Proof.Machine.execGscan op ex d a rnd sat p s
  | .mma fa fb c a b rb => Sys2Proof.Machine.execMma fa fb c a b rb s
  | .mmag fa fb c a x g rb => Sys2Proof.Machine.execMmag fa fb c a x g rb s
  | .tzero t => Sys2Proof.Machine.execTzero t s
  | .ttrn f td ta dir rot => Sys2Proof.Machine.execTtrn f td ta dir rot s
  | .tdec fa fb md ma => Sys2Proof.Machine.execTdec fa fb md ma s
  | .cbld xa => Sys2Proof.Machine.execCbld xa s
  | .fmtw xa e => Sys2Proof.Machine.execFmtw xa e s
  | .shset xa => Sys2Proof.Machine.execShset xa s
  | .acfg xa xb => Sys2Proof.Machine.execAcfg xa xb s
  | .join fa fb xd xa xb xo => Sys2Proof.Machine.execJoin fa fb xd xa xb xo s
  | .jins f xd xa => Sys2Proof.Machine.execJins f xd xa s
  | .adrn lay f xd xa xb => Sys2Proof.Machine.execAdrn lay f xd xa xb s
  | .afold c xa => Sys2Proof.Machine.execAfold c xa s
  | .aspl xd => Sys2Proof.Machine.execAspl xd s
  | .ard sel xd => Sys2Proof.Machine.execArd sel xd s
  | .awr sel => Sys2Proof.Machine.execAwr sel s
  | .pred f xd xa => Sys2Proof.Machine.execPred f xd xa s
  | .pchk f xd xa xe => Sys2Proof.Machine.execPchk f xd xa xe s
  | .ldv d xa byp p => Sys2Proof.Machine.execLdv d xa byp p s
  | .ldm t xa dir idx byp p => Sys2Proof.Machine.execLdm t xa dir idx byp p s
  | .ldg d xa vb byp p => Sys2Proof.Machine.execLdg d xa vb byp p s
  | .ldmk m xa xb rb byp => Sys2Proof.Machine.execLdmk m xa xb rb byp s
  | .ldx d xa xb byp p => Sys2Proof.Machine.execLdx d xa xb byp p s
  | .ldb q3 xa n byp => Sys2Proof.Machine.execLdb q3 xa n byp s
  | .ldw src dst m xa xs row byp => Sys2Proof.Machine.execLdw src dst m xa xs row byp s
  | .stv va xa byp p => Sys2Proof.Machine.execStv va xa byp p s
  | .stm t xa dir idx byp p => Sys2Proof.Machine.execStm t xa dir idx byp p s
  | .stg vb xa vc byp p => Sys2Proof.Machine.execStg vb xa vc byp p s
  | .stmk m xa xc rb byp => Sys2Proof.Machine.execStmk m xa xc rb byp s
  | .stx vb xa xc byp p => Sys2Proof.Machine.execStx vb xa xc byp p s
  | .dset d n sa => Sys2Proof.Machine.execDset d n sa s
  | .cpy d sa sb cls bar => Sys2Proof.Machine.execCpy d sa sb cls bar s
  | .cpyg d sa mask cls bar => Sys2Proof.Machine.execCpyg d sa mask cls bar s
  | .cpsh d sa sb nb cls bar => Sys2Proof.Machine.execCpsh d sa sb nb cls bar s
  | .cmc d sa sb mask cls bar => Sys2Proof.Machine.execCmc d sa sb mask cls bar s
  | .cprf d cls bar => Sys2Proof.Machine.execCprf d cls bar s
  | .cfls d cls bar => Sys2Proof.Machine.execCfls d cls bar s
  | .cinv d cls bar => Sys2Proof.Machine.execCinv d cls bar s
  | .cfil d sa sb cls bar => Sys2Proof.Machine.execCfil d sa sb cls bar s
  | .wait ts tj tc tt => Sys2Proof.Machine.execWait ts tj tc tt s
  | .waitr c sa => Sys2Proof.Machine.execWaitr c sa s
  | .bari b sa => Sys2Proof.Machine.execBari b sa s
  | .bara b => Sys2Proof.Machine.execBara b s
  | .barw b => Sys2Proof.Machine.execBarw b s
  | .barx b => Sys2Proof.Machine.execBarx b s
  | .syna sc ch => Sys2Proof.Machine.execSyna sc ch s
  | .synw sc ch => Sys2Proof.Machine.execSynw sc ch s
  | .sbc sc ch sa => Sys2Proof.Machine.execSbc sc ch sa s
  | .sbcRd sc ch sd => Sys2Proof.Machine.execSbcRd sc ch sd s
  | .sred op sc ch sd sa => Sys2Proof.Machine.execSred op sc ch sd sa s
  | .fence sc => Sys2Proof.Machine.execFence sc s
  | .acq sc => Sys2Proof.Machine.execAcq sc s
  | .rel sc => Sys2Proof.Machine.execRel sc s
  | .acqr sd sa => Sys2Proof.Machine.execAcqr sd sa s
  | .time cyc sd => Sys2Proof.Machine.execTime cyc sd s
  | .bundleFetch g p => Sys2Proof.Machine.execBundleFetch g p s
  | .apertureLoadReturn g id => Sys2Proof.Machine.execApertureLoadReturn g id s
  | .escapeWaitExpiry pkt => Sys2Proof.Machine.execEscapeWaitExpiry pkt s
  | .dieTemperatureWarning region reading => Sys2Proof.Machine.execDieTemperatureWarning region reading s
  | .preemptSignalDelivery => Sys2Proof.Machine.execPreemptSignalDelivery s
  | .packageTimeTick => Sys2Proof.Machine.execPackageTimeTick s
  | .priorityAgeing => Sys2Proof.Machine.execPriorityAgeing s
  | .stopCommand => Sys2Proof.Machine.execStopCommand s
  | .immediateOff => Sys2Proof.Machine.execImmediateOff s
  | .clearStepRecord => Sys2Proof.Machine.execClearStepRecord s
  | .stopGraceExpiry => Sys2Proof.Machine.execStopGraceExpiry s
  | .controlCoreStopAck => Sys2Proof.Machine.execControlCoreStopAck s
  | .mainPowerLoss => Sys2Proof.Machine.execMainPowerLoss s
  | .ret => Sys2Proof.Machine.execRet s
  | .bkpt => Sys2Proof.Machine.execBkpt s
  | .exit => Sys2Proof.Machine.execExit s
  | .gend => Sys2Proof.Machine.execGend s
  | .gsplit => Sys2Proof.Machine.execGsplit s
  | .yield => Sys2Proof.Machine.execYield s
  | .fencei => Sys2Proof.Machine.execFencei s
  | .vpldSwap => Sys2Proof.Machine.execVpldSwap s
  | .aclr => Sys2Proof.Machine.execAclr s
  | .budgetWindowRefill => Sys2Proof.Machine.execBudgetWindowRefill s
  | .errorLogClear => Sys2Proof.Machine.execErrorLogClear s

end Sys2Proof.Machine
end

