-- ==== Sys2Proof/Machine/Slots.lean ====
section
/-! DEFINITION. Every slot instruction's check at issue, by family (02 R60, R63). -/

namespace Sys2Proof.Machine

/-- The verdict on a slot instruction of the current issue; a step or event of the module stands in no bundle. -/
def slotCheck (i : Instr) (s : State) : Verdict :=
  match i with
  | .add .. | .sub .. | .and .. | .or .. | .xor .. | .andn .. | .shl .. | .shr .. | .sar .. | .min .. | .max ..
  | .cmp .. | .sel .. | .popc .. | .clz .. | .mul .. | .mulh .. | .div .. | .rem .. | .addi .. | .li ..
  | .lih .. => scalarCheck i s
  | .br .. | .jmp .. | .jmpr .. | .call .. | .loop .. | .trap .. | .ret | .bkpt | .exit => controlCheck i s
  | .gif .. | .gelse .. | .goff .. | .gany .. | .gall .. | .gcnt .. | .gmsk .. | .gend | .gsplit => divergeCheck i s
  | .enq .. | .recd .. | .prio .. | .qid .. | .csrr .. | .csrw .. | .qtop .. | .qdie .. | .yield | .fencei => schedCheck i s
  | .lds .. | .sts .. | .amo .. | .cas .. => seqMemCheck i s
  | .xli .. | .xmov .. | .xadd .. | .xsub .. | .xmul .. | .xand .. | .xxor .. | .xshl .. | .xshr .. | .xpopc ..
  | .xpfx .. | .xsel .. | .xldc .. | .xadv .. | .xhash .. | .xcmpa .. => indexCheck i s
  | .vaddf .. | .vsubf .. | .vmulf .. | .vfmaf .. | .vminf .. | .vmaxf .. | .vcmpf .. | .vrcp .. | .vrsq ..
  | .vex2 .. | .vlg2 .. | .vtanh .. | .vaddi .. | .vsubi .. | .vmuli .. | .vmulhi .. | .vand .. | .vor ..
  | .vxor .. | .vshl .. | .vshr .. | .vsar .. | .vmini .. | .vmaxi .. | .vcmpi .. | .vmov .. | .vli ..
  | .vbcs .. | .vsel .. | .vrot .. | .plog .. | .epset .. | .vcvt .. | .vqnt .. | .vdqn .. | .vred ..
  | .vperm .. | .vpld .. | .vtrd .. | .vtwr .. | .vpldSwap => vectorCheck i s
  | .gshf .. | .gpsh .. | .gred .. | .gbcst .. | .gscan .. => crossCheck i s
  | .mma .. | .mmag .. | .tzero .. | .ttrn .. | .tdec .. | .cbld .. | .fmtw .. | .shset .. | .acfg .. | .join ..
  | .jins .. | .adrn .. | .afold .. | .aspl .. | .ard .. | .awr .. | .pred .. | .pchk .. | .aclr => tCheck i s
  | .ldv .. | .ldm .. | .ldg .. | .ldmk .. | .ldx .. | .ldb .. | .ldw .. | .stv .. | .stm .. | .stg ..
  | .stmk .. | .stx .. => lwCheck i s
  | .dset .. | .cpy .. | .cpyg .. | .cpsh .. | .cmc .. | .cprf .. | .cfls .. | .cinv .. | .cfil .. => copyCheck i s
  | .wait .. | .waitr .. | .bari .. | .bara .. | .barw .. | .barx .. | .syna .. | .synw .. | .sbc .. | .sbcRd ..
  | .sred .. | .fence .. | .acq .. | .rel .. | .acqr .. | .time .. => syncCheck i s
  | .delayOnly _ pop => delayOnlyCheck pop s
  | .resultLand .. | .interlockedResultWrite .. | .l1Fill .. | .storeAck .. | .tInstrBegin ..
  | .tInstrComplete .. | .keyedPlacement .. | .patrolScrub .. | .sageQueuePush .. | .copyCommandStart ..
  | .copyPiece .. | .copyCommandComplete .. | .copyCounterFall .. | .copyQueuePush .. | .cpygEntryTake ..
  | .homeWritePerform .. | .homeRead .. | .replicaCreate .. | .replicaDrop .. | .lineEviction ..
  | .keySlotWrite .. | .correctableError .. | .freezeEnd .. | .uncorrectableError .. | .deferredTrap ..
  | .thymeRoundResult .. | .sbcDelivery .. | .preemptSignalIssue .. | .preemptCapture .. | .thymeVoteError ..
  | .barrierPhaseComplete .. | .barrierWaiterResume .. | .spareGrant .. | .spareHandoverEnd .. | .pathResolve ..
  | .gangFinish .. | .trapEntry .. | .partnerStop .. | .resumeCommand .. | .haltCommand .. | .stepCommand ..
  | .watchdogExpiry .. | .recordSubmitWindow .. | .recordAccept .. | .overflowReturn .. | .tagDecrement ..
  | .dispatchSelect .. | .teamStart .. | .teamSwitch .. | .switchThresholdExpiry .. | .quantumExpiry ..
  | .migrationSend .. | .contextActivate .. | .contextEnd .. | .unmapCommand .. | .unmapComplete ..
  | .faultRetry .. | .faultAbort .. | .remotePieceArrival .. | .linkFlitError .. | .deviceRegisterWrite ..
  | .startCommand .. | .restartCommand .. | .clearLastingMark .. | .startAttemptRetry ..
  | .firmwareImageUpdate .. | .powerWarning .. | .overlimitTrip .. | .bundleFetch .. | .apertureLoadReturn ..
  | .escapeWaitExpiry .. | .dieTemperatureWarning .. | .preemptSignalDelivery | .packageTimeTick
  | .priorityAgeing | .stopCommand | .immediateOff | .clearStepRecord | .stopGraceExpiry | .controlCoreStopAck
  | .mainPowerLoss | .budgetWindowRefill | .errorLogClear => .ok

end Sys2Proof.Machine
end

