-- ==== Sys2Proof/Machine/Ports.lean ====
section
/-! DEFINITION. The steps on their own schedule, the packets that bring them over the fabric, and the ports that serve them (15
R358, R359; log entry 88). -/

namespace Sys2Proof.Machine

def slotsAB : List PathSlot := [.A, .B]
def flag (c : Bool) (i : Instr) : List Instr := if c then [i] else []
/-- A packet of this number stands at its end, with no response to come. -/
def answered (s : State) (ids : List Nat) : Bool := ids.all (fun n => s.pkts.any (fun p => p.id == n && p.site == p.dst && p.back.isNone))

/-! Steps on their own schedule: when, and which of them first, no rule says. -/

/-- Accesses of a transaction that their homes may serve. -/
def txnServed (s : State) (g : Nat) (T : Txn) : List Instr :=
  ((T.accs.zipIdx).filter (fun a => accReady s g T a.2)).map (fun a =>
    if isReadOp a.1.op then Instr.homeRead (.txn g T.id a.2) else Instr.homeWritePerform (.txn g T.id a.2))
def ilkReturned (G : Gang) (k : Ilk) : Bool :=
  ilkDue G k && (match k.src with | .mem _ => true | .at _ _ => false | .sred _ _ => false | .sbc _ => false)
/-- Results held back by a freeze come after it (08 R210). -/
def gangReturns (g : Nat) (G : Gang) : List Instr :=
  if G.frozen != 0 then []
  else
    (G.txns.filter (fun T => fillReady G T.id)).map (fun T => Instr.l1Fill g T.id)
    ++ (G.ilks.filter (ilkReturned G)).map (fun k => Instr.interlockedResultWrite g k.id)
    ++ (match oldestStore G with | some T => flag (storeDone T) (.storeAck g T.id) | none => [])
def gangAsync (s : State) (g : Nat) (G : Gang) : List Instr :=
  (slotsAB.filter (fetchReady s g)).map (Instr.bundleFetch g)
  ++ G.txns.flatMap (txnServed s g)
  ++ gangReturns g G
  ++ (List.range 16).flatMap (fun e => ((List.range 16).filter (placeReady s g e)).map (Instr.keyedPlacement g e))
  ++ flag (finishReady G) (.gangFinish g)
  ++ flag (captureReady s g (· == .trap)) (.trapEntry g)
  ++ flag (captureReady s g (· == .partner) || partnerAsks s g) (.partnerStop g)
  ++ flag (captureReady s g (fun r => r == .preempt || r == .halt)) (.preemptCapture g)
  ++ flag (captureReady s g (· == .switch)) (.teamSwitch g)
  ++ (match G.team.bind (getTeam s) with
      | some T => (match oldestCopy T g with
          | some c => flag (c.finished && copyWorks s T c) (.copyCounterFall g)
          | none => [])
      | none => [])
  ++ [.patrolScrub g]
def copyAsync (s : State) (t : Nat) (T : Team) (c : Copy) : List Instr :=
  ((openPieces (if c.held.isSome then { c with ahead := [] } else c)).filter
    (fun o => pieceReady s T c o && !pieceWouldStop s t T c o)).map (Instr.copyPiece t c.id)
  ++ flag (qPushReady s T c) (.copyQueuePush t c.id)
  ++ ((List.range 16).filter (takeReady s T c)).map (Instr.cpygEntryTake t c.id)
  ++ flag (completeReady s T c) (.copyCommandComplete t c.id)
def teamAsync (s : State) (t : Nat) (T : Team) : List Instr :=
  flag (startReadyTeam s T) (.teamStart t) ++ flag (startReady s T) (.copyCommandStart t) ++ T.copies.flatMap (copyAsync s t T)
def bankAsync (s : State) (d b : Nat) : List Instr :=
  flag (nextArrival s d b).isSome (.recordAccept (16 * d + b)) ++ flag (overflowReady s d b) (.overflowReturn (16 * d + b))
  ++ ((bankAt s d b).decs.filter (decReady s)).map (fun x => Instr.tagDecrement (16 * d + b) x.tag x.amount)
def dieAsync (s : State) (d : Nat) : List Instr :=
  (List.range 16).flatMap (bankAsync s d) ++ flag (dispatchReady s d) (.dispatchSelect d)
  ++ ((List.range 20).filter (migrateReady s d)).map (Instr.migrationSend d)
/-- Lines with a sector in a slice: slice and line. -/
def heldLines (s : State) : List (Nat × Nat) := (s.sl.map (fun c => (c.1 % 32, c.1 / 32 / 8))).eraseDups
def sharedAsync (s : State) : List Instr :=
  (heldLines s).map (fun l => Instr.lineEviction l.1 l.2)
  ++ (heldLines s).flatMap (fun l => ((List.range 20).filter (fun k => replicaReady s k l.2)).map (fun k => Instr.replicaCreate k l.2))
  ++ s.repl.map (fun r => Instr.replicaDrop r.2 r.1)
def asyncEvents (s : State) : List Instr :=
  s.gangs.flatMap (fun g => gangAsync s g.1 g.2) ++ s.teams.flatMap (fun t => teamAsync s t.1 t.2)
  ++ s.dies.flatMap (fun d => dieAsync s d.1) ++ sharedAsync s
  ++ ((List.range s.left.length).filter (leftReady s)).map (fun n => Instr.homeWritePerform (.left n))
/-! Steps whose cycle the rules fix: they come first in it. -/

/-- An interlocked value whose cycle is known, or a broadcast that is fresh. -/
def ilkNow (G : Gang) (k : Ilk) : Bool :=
  ilkDue G k && (match k.src with
    | .at _ _ => ticking G
    | .sbc _ => landsNow G
    | .mem _ => false
    | .sred _ _ => false)
/-- The last data of an aperture load has come: every access has been performed, and its cycle has (11 R254). -/
def loadDue (G : Gang) (T : Txn) : Bool :=
  landsNow G && T.accs.all (·.done) && (match T.kind, T.due with
    | .apLoad _ _ _, some d => decide (d ≤ G.gc)
    | _, _ => false)
def gangDue (s : State) (g : Nat) (G : Gang) : List Instr :=
  (G.txns.filter (loadDue G)).map (fun T => Instr.apertureLoadReturn g T.id)
  ++ flag (landDue G) (.resultLand g)
  ++ (G.ilks.filter (ilkNow G)).map (fun k => Instr.interlockedResultWrite g k.id)
  ++ (slotsAB.filter (fun p => resolveReady G p && !resolveStuck s G p)).map (Instr.pathResolve g)
  ++ flag (handoverDue G) (.spareHandoverEnd g)
  ++ flag (deferredReady G) (.deferredTrap g)
  ++ flag (partnerDue s g) (.partnerStop g)
  ++ flag (quantumReady s g) (.quantumExpiry g)
  ++ flag (takesTeam s g) (.teamSwitch g)
def teamDue (s : State) (t : Nat) (T : Team) : List Instr :=
  ((List.range 16).filter (waitersDue s t)).map (Instr.barrierWaiterResume t)
  ++ (T.copies.filter (completeDue s T)).map (fun c => Instr.copyCommandComplete t c.id)
def thymeDue (s : State) : List Instr :=
  (s.rounds.filter (fun r => (roundDue s r.ctx r.ch r.vd).isSome)).map (fun r => Instr.thymeRoundResult r.ctx r.ch r.vd)
  ++ (s.sbcs.filter (fun b => (sbcDue s b.ctx b.ch b.vd).isSome)).map (fun b => Instr.sbcDelivery b.ctx b.ch b.vd)
  ++ flag (signalDue s).isSome .preemptSignalDelivery
def sparePairs (s : State) : List Nat := ((s.gangs.filter (fun g => g.2.spareReq)).map (fun g => gangPair g.1)).eraseDups
def dueSteps (s : State) : List Instr :=
  flag (graceOver s) .stopGraceExpiry
  ++ thymeDue s
  ++ s.gangs.flatMap (fun g => gangDue s g.1 g.2)
  ++ ((sparePairs s).filter (fun pr => (spareWinner s pr).isSome)).map Instr.spareGrant
  ++ s.teams.flatMap (fun t => teamDue s t.1 t.2)
  ++ (s.unmaps.filter (fun u => unmapReady s u.ctx)).map (fun u => Instr.unmapComplete u.ctx)
  ++ flag (ageingDue s) .priorityAgeing
  ++ (s.pkts.filter (fun p => escapeReady s p.id)).map (fun p => Instr.escapeWaitExpiry p.id)

/-! Flits (R359). Ports 0–19 are the slices' request queues, higher ones the memory ports. -/

/-- The flits taken between two states, as ports and classes: those whose count has risen. -/
def keysBetween (s t : State) : List (Nat × Nat) :=
  (t.budget.filter (fun k => decide (spGet 0 s.budget k.1 < k.2))).map (fun k => (k.1 / 4, k.1 % 4))
/-- The flits an event takes. -/
def eventKeys (s : State) (i : Instr) : List (Nat × Nat) :=
  match exec i s with
  | .next t => keysBetween s t
  | .fault _ | .refused _ => []

/-! Packets (R358). -/

/-- A gang's access is a request on its way from its G-die to the home, and once performed a response on its way back, until its
transaction is over. -/
def accPkt (s : State) (g : Nat) (T : Txn) (a : Acc × Nat) : Pkt :=
  let q := siteG (gangDie g)
  let h := siteS (homeSlice s a.1.pa)
  if a.1.done then ⟨accPktId g T.id a.2 true, true, h, q, none, 0, false, 0, nowCyc s⟩
  else ⟨accPktId g T.id a.2 false, false, q, h, none, 0, false, 0, nowCyc s⟩
/-- A message on the request network. -/
def reqPkt (s : State) (id src dst cls : Nat) : Pkt := ⟨id, false, src, dst, none, 0, false, cls, nowCyc s⟩
/-- A request that a response follows. -/
def tripPkt (s : State) (id src dst cls : Nat) : Pkt := ⟨id, false, src, dst, some src, 0, false, cls, nowCyc s⟩
/-- The requests to slices among some flits, from a site, under numbers of their own. -/
def keyPkts (s : State) (id : Nat → Nat) (src : Nat) (keys : List (Nat × Nat)) : List Pkt :=
  (keys.filter (fun k => decide (k.1 < 20))).map (fun k => tripPkt s (id (4 * k.1 + k.2)) src (siteS k.1) k.2)
/-- Events that read or write at slices for themselves: the site they ask from, and their number. Fetches, copies, Barista's reads of
arguments, pins and save areas, and the traffic of overflow rings, each with its page table walks. -/
def eventFrom (s : State) (i : Instr) : Option (Nat × Nat) :=
  match i with
  | .bundleFetch g p => some (siteG (gangDie g), pktId 12 (2 * g + (if p = .A then 0 else 1)))
  | .copyPiece t cmd off => (getTeam s t).map (fun T => (siteG T.die, pktId 13 (2 ^ 48 * (2 ^ 32 * t + cmd) + off)))
  | .copyQueuePush t cmd => (getTeam s t).map (fun T => (siteG T.die, pktId 14 (2 ^ 32 * t + cmd)))
  | .teamStart t => (getTeam s t).map (fun T => (siteG T.die, pktId 15 t))
  | .teamSwitch g => some (siteG (gangDie g), pktId 16 g)
  | .recordAccept b => some (siteG (b / 16), pktId 17 b)
  | .overflowReturn b => some (siteG (b / 16), pktId 18 b)
  | .tagDecrement b tag n => some (siteG (b / 16), pktId 19 (2 ^ 48 * (2 ^ 12 * b + tag) + n))
  | .dispatchSelect d => some (siteG d, pktId 20 d)
  | _ => none
/-- A piece of a copy between scratchpads of two G-dies passes over the links between them (01 R11): what it reads on another G-die, and
what it writes there. -/
def spadPkts (s : State) (t cmd off : Nat) : List Pkt :=
  match getTeam s t with
  | none => []
  | some T =>
    match findCopy T cmd with
    | none => []
    | some c =>
      let away (l : List (Nat × Nat × Win)) : List Nat := ((l.map (fun x => gangDie x.1)).eraseDups).filter (· != T.die)
      let id (k : Nat) : Nat := pktId 22 (64 * (2 ^ 48 * (2 ^ 32 * t + cmd) + off) + k)
      (away (srcSpad s T c).toList).map (fun d => tripPkt s (id d) (siteG T.die) (siteG d) c.cls)
      ++ (away (dstSpads s T c off)).map (fun d => reqPkt s (id (32 + d)) (siteG T.die) (siteG d) c.cls)
/-- The packets of an event that takes these flits. -/
def eventReqs (s : State) (i : Instr) (keys : List (Nat × Nat)) : List Pkt :=
  (match eventFrom s i with
   | some x => keyPkts s (fun k => 256 * x.2 + k) x.1 keys
   | none => [])
  ++ (match i with
   | .copyPiece t cmd off => spadPkts s t cmd off
   | _ => [])
/-- A spilled stack entry on its way to its slot, or read back from it. -/
def flowPktId (n : Nat) : Nat := pktId 21 n
def flowPkt (s : State) (f : Flow) : Pkt :=
  (if f.back then tripPkt else reqPkt) s (flowPktId f.id) (siteG (gangDie f.gang)) (siteS (homeSlice s f.pa)) 3
/-- A stopped gang's context goes to its save area, in class 3. -/
def parkPkts (s : State) (g : Nat) (G : Gang) : List Pkt :=
  match G.run with
  | .stopped _ => [reqPkt s (parkPktId g) (siteG (gangDie g)) (siteS (nearSdie g).1) 3]
  | _ => []
/-- The S-dies to which an E-die has a link (01 R12). -/
def edieDies : Nat → List Nat
  | 0 => [0, 1, 2, 3]
  | 1 => [16, 17, 18, 19]
  | 2 => [4, 12]
  | _ => [3, 11, 19]
/-- E-dies stand beside the grid: site 40 + e. -/
def edieSite (e : Nat) : Nat := 40 + e
/-- The sites that the links of an E-die lead to, those that are up or all. -/
def edieExits (s : State) (e : Nat) (up : Bool) : List Nat :=
  ((edieDies e).zipIdx.filter (fun d => !up || !s.mgmt.deadLinks.contains (67 + 16 * e + 8 + d.2))).map (fun d => siteS d.1)
/-- Of some sites the nearest to one. -/
def nearestTo (dst : Nat) : List Nat → Option Nat
  | [] => none
  | q :: r => some (r.foldl (fun a b => if gridDist b dst < gridDist a dst then b else a) q)
/-- A packet at an E-die leaves by the nearest link that is up; escape traffic by the nearest link, and waits if that one is down (22
R430). -/
def leaveEdie (s : State) (p : Pkt) : Pkt :=
  match nearestTo p.dst (edieExits s (p.site - 40) (!p.escape)) with
  | some q => if p.escape && !(edieExits s (p.site - 40) true).contains q then p else { p with site := q, waited := 0 }
  | none => { p with waited := p.waited + 1 }
/-- A record on its way to a bank, from a gang or a control core, in class 3. -/
def arrivalPkts (s : State) (d b : Nat) (a : Arrival) : List Pkt :=
  match arrivalPkt d b a, a.gang, a.core with
  | some n, some x, _ => [reqPkt s n (siteG (gangDie x.1)) (siteG d) 3]
  | some n, none, some x => [reqPkt s n (edieSite (x.1 / 16)) (siteG d) 3]
  | _, _, _ => []
/-- Records and decrements on their way to a bank. -/
def bankPkts (s : State) (d b : Nat) (B : Bank) : List Pkt :=
  B.arr.flatMap (arrivalPkts s d b) ++ B.decs.map (fun x => reqPkt s (decPktId x) (siteG x.src) (siteG d) 3)
def migrationPkts (s : State) (src : Nat) : List Pkt :=
  ((List.range 20).filter (migrateReady s src)).flatMap (fun dst => (migrant s src dst).toList.map (fun x =>
    reqPkt s (migrationPktId x.2.id) (siteG src) (siteG dst) 3))
/-- The link between two neighbouring sites, as linkSite numbers them. -/
def linkNo (q r : Nat) : Nat := let a := min q r; if q / 8 = r / 8 then 7 * (a / 8) + a % 8 else 35 + a
def linkUp (s : State) (q r : Nat) : Bool := !s.mgmt.deadLinks.contains (linkNo q r)
/-- Links an adaptive channel may take: on a minimal route, and around a link that is down (22 R430). -/
def adaptiveSteps (s : State) (q d : Nat) : List Nat :=
  let l := (siteSteps q).filter (linkUp s q)
  let m := l.filter (fun x => gridDist x d + 1 == gridDist q d)
  if m.isEmpty then l else m
/-- The next hop in dimension order: x first, then y. -/
def xyStep (q d : Nat) : Nat :=
  if q % 8 < d % 8 then q + 1 else if d % 8 < q % 8 then q - 1 else if q < d then q + 8 else q - 8
/-- One cycle of a packet: a hop, or blocked, or the response of a request that has arrived sets out; which, and which link, is a free number n. Escape traffic that needs a link which is
down waits (22 R430). -/
def hopPkt (s : State) (n : Nat) (p : Pkt) : Pkt :=
  if p.site = p.dst then
    (match p.back with
     | some q => { p with resp := true, dst := q, back := none, waited := 0, escape := false }
     | none => p)
  else if n % 2 = 1 then { p with waited := p.waited + 1 }
  else if 40 ≤ p.site then leaveEdie s p
  else if p.escape then (if linkUp s p.site (xyStep p.site p.dst) then { p with site := xyStep p.site p.dst } else p)
  else
    let l := adaptiveSteps s p.site p.dst
    { p with site := l.getD (n / 2 % l.length) p.site, waited := 0 }
/-- The responses of a transaction. -/
def respPkts (s : State) (g id : Nat) : List Nat :=
  match findTxn (getGang s g) id with
  | some T => (List.range T.accs.length).map (fun k => accPktId g id k true)
  | none => []
/-- The responses that an event waits for. -/
def answersOf (s : State) (i : Instr) : List Nat :=
  match i with
  | .l1Fill g id | .storeAck g id => respPkts s g id
  | .interlockedResultWrite g k => (match (getGang s g).ilks.find? (fun x => x.id == k) with
    | some x => (match x.src with | .mem id => respPkts s g id | .at _ _ | .sred _ _ | .sbc _ => [])
    | none => [])
  | _ => []
/-- The packets under a number of their own that an event waits for. -/
def namedPkts (s : State) (i : Instr) : List Nat :=
  match i with
  | .homeRead (.txn g id k) | .homeWritePerform (.txn g id k) => [accPktId g id k false]
  | .homeWritePerform (.left n) => (s.left[n]?).toList.map (fun x => leftPktId x.team x.id)
  | .trapEntry g | .partnerStop g | .preemptCapture g | .teamSwitch g => [parkPktId g]
  | .migrationSend src dst => (migrant s src dst).toList.map (fun x => migrationPktId x.2.id)
  | _ => []

/-! What waits for ports (R359). -/

/-- What waits for a port: an event, or the transfer of a spilled stack entry. -/
inductive Work where
  | event (i : Instr)
  | flow (id : Nat)
  deriving DecidableEq, Repr
/-- The flits it takes, and the packets it waits for. -/
structure Candidate where
  work : Work
  keys : List (Nat × Nat)
  pkts : List Nat
def candidateOf (s : State) (i : Instr) : Candidate :=
  let ks := eventKeys s i
  ⟨.event i, ks, namedPkts s i ++ (eventReqs s i ks).map (·.id)⟩
def arrived (s : State) (ids : List Nat) : Bool := ids.all (fun n => !underWay s n)
/-- The packets of an event have come, the responses of its accesses among them. -/
def pktsHere (s : State) (i : Instr) (x : Candidate) : Bool := arrived s x.pkts && answered s (answersOf s i)
/-- Transfers of one gang's stack come one after another (13 R304). -/
def flowFirst (s : State) (f : Flow) : Bool := (s.flows.find? (fun h => h.gang == f.gang)).any (fun h => h.id == f.id)
def flowCand (s : State) (f : Flow) : Candidate := ⟨.flow f.id, keysBetween s (spendFlit f.pa 3 s), [flowPktId f.id]⟩
/-- A port serves a transfer. -/
def runFlow (id : Nat) (s : State) : State :=
  match s.flows.find? (fun f => f.id == id) with
  | some f => { spendFlit f.pa 3 s with flows := s.flows.filter (fun h => h.id != id) }
  | none => s
/-- What is on its own schedule and could be served now. -/
def asyncCands (s : State) : List Candidate :=
  (asyncEvents s).filterMap (fun i => let x := candidateOf s i; if pktsHere s i x then some x else none)
  ++ ((s.flows.filter (flowFirst s)).map (flowCand s)).filter (fun x => arrived s x.pkts)
/-- Steps whose time has come that wait for ports. -/
def dueCands (s : State) : List Candidate :=
  (dueSteps s).filterMap (fun i => let x := candidateOf s i; if pktsHere s i x && !x.keys.isEmpty then some x else none)
/-- When the oldest of some packets was sent. -/
def bornOf (s : State) (ids : List Nat) : Option Nat := ((s.pkts.filter (fun p => ids.contains p.id)).map (·.born)).min?

/-! The ports' choice (R359). -/

/-- Flits of a port in a window of 256 cycles: near DRAM 4 TB/s and far memory 0.8 TB/s, in flits of 64 bytes at 2.5 GHz (01 R11,
R14, R16, R17); what a slice's request queue takes is not given. -/
def portFlits (port : Nat) : Nat := if port < 20 then Config.freePortFlits port else if port < 40 then 6400 else 1280
/-- A class's budget at a port: a quarter of the port's flits, unless system software has set another. -/
def budgetOf (k : Nat × Nat) : Nat :=
  match Config.freeBudget (4 * k.1 + k.2) with
  | some n => n
  | none => portFlits k.1 / 4
def budgetSpent (s : State) (k : Nat × Nat) : Bool := decide (budgetOf k ≤ spGet 0 s.budget (4 * k.1 + k.2))
/-- The other classes with waiting traffic at a port. -/
def othersAt (waiting : List (Nat × Nat)) (k : Nat × Nat) : List (Nat × Nat) := waiting.filter (fun j => j.1 == k.1 && j.2 != k.2)
/-- A class whose budget is spent at a port is served there only where no class within its budget can use the cycle. -/
def inBudget (s : State) (waiting keys : List (Nat × Nat)) : Bool :=
  keys.all (fun k => (othersAt waiting k).all (budgetSpent s) || !budgetSpent s k)
/-- The class within its budget that a port serves next, round-robin among those with waiting traffic. -/
def turnAt (s : State) (waiting : List (Nat × Nat)) (port : Nat) : Option Nat :=
  ([1, 2, 3, 4].map (fun j => (spGet 0 s.turns port + j) % 4)).find? (fun c => waiting.contains (port, c) && !budgetSpent s (port, c))
def inTurn (s : State) (waiting : List (Nat × Nat)) (k : Nat × Nat) : Bool :=
  (othersAt waiting k).isEmpty || (match turnAt s waiting k.1 with | some u => u == k.2 | none => true)
/-- Of its class at its port something has the oldest packet. -/
def oldestAt (s : State) (all : List Candidate) (ids : List Nat) (k : Nat × Nat) : Bool :=
  all.all (fun y => !y.keys.contains k || (match bornOf s ids, bornOf s y.pkts with | some a, some b => decide (a ≤ b) | _, _ => true))
/-- Its flits are within budget, and at every port of them the turn is their class's and its packet the oldest. -/
def fits (s : State) (all : List Candidate) (x : Candidate) : Bool :=
  let waiting := x.keys ++ all.flatMap (·.keys)
  inBudget s waiting x.keys && x.keys.all (fun k => inTurn s waiting k && oldestAt s all x.pkts k)
/-- The ports may serve it beside all that waits. Where nothing that waits has its turn at all its ports, anything within its budget
may be served. -/
def servable (s : State) (all : List Candidate) (x : Candidate) : Bool :=
  x.keys.isEmpty || fits s all x
    || (!all.any (fun y => !y.keys.isEmpty && fits s all y) && inBudget s (x.keys ++ all.flatMap (·.keys)) x.keys)
/-- The ports note the class they served last. -/
def noteTurns (ks : List (Nat × Nat)) (s : State) : State := { s with turns := ks.foldl (fun m k => spSet 0 m k.1 k.2) s.turns }

end Sys2Proof.Machine
end

