-- ==== Sys2Proof/Machine/Bundle.lean ====
section
/-! DEFINITION. The issue of one bundle: whose turn it is, what the path finds at its program counter, the verdict on
the whole bundle, and its slots taking effect together (02 R33–R36, R50, R53, R56, R60, R62, R63; 13 R296, R297, R299,
R306; 21 R411–R414, R425). -/

namespace Sys2Proof.Machine

/-! Whose chance it is (R60; 13 R296, R297). -/

def gangIssues (G : Gang) : Bool := G.run == .run && G.frozen == 0 && !stopping G
/-- A live path that may issue in this gang cycle: not parked at its GEND, not stopped, not in handover. -/
def pathIssues (G : Gang) (p : PathSlot) : Bool :=
  let P := getPath G p
  P.live && !P.parked && !P.trapped && P.resolveAt.isNone && !(P.onspare && G.handoverEnd.isSome)
    && (match G.stepLeft with | some l => l.contains p | none => true)
/-- Both paths share the gang's own sequencer. -/
def interleaved (G : Gang) : Bool := G.a.live && G.b.live && !G.b.onspare
def pathOrder (G : Gang) : List PathSlot := if interleaved G then [G.turn, otherSlot G.turn] else [.A, .B]
def nextOf (s : State) (g : Nat) (G : Gang) : Option PathSlot :=
  if gangIssues G then (pathOrder G).find? (fun p => pathIssues G p && !s.tried.contains (g, p)) else none
/-- The next path that has its chance in this main cycle. -/
def nextPath (s : State) : Option (Nat × PathSlot) :=
  s.gangs.findSome? (fun g => (nextOf s g.1 g.2).map (fun p => (g.1, p)))

/-! What the path finds. -/

inductive Chance where
  | idle                                             -- not eligible yet, or waiting out its delay
  | held (h : Hold)
  | absent (va : Nat)
  | ends (va : Nat)
  | trap (cause : BitVec 8) (va : Nat) (opc : BitVec 8) (slot : Nat) (refused : Option Nat)
  | broken (b : Bundle) (cause opc : BitVec 8) (slot : Nat)  -- a slot with an encoding cause, and the slots before it
  | bundle (b : Bundle) (len : Nat)
  deriving DecidableEq, Repr

/-- The bytes at the program counter as a bundle, or the encoding trap they raise (R62). -/
def decoded (bs : List Byte) : Chance :=
  match decodeBundle bs with
  | .ok (b, len) => .bundle b len
  | .error (some j, opc, e) => .broken (bundleBefore bs j) e.cause opc j
  | .error (none, opc, e) => .trap e.cause 0 opc 0 none
def chance (s : State) (g : Nat) (p : PathSlot) : Chance :=
  let G := getGang s g
  let P := getPath G p
  if G.gc < P.elig || loadOut G p then .idle
  else if pathFaulted s g p then .held .fault
  else if P.pc.getLsbD 0 then .trap 0x04 P.pc.toNat 0 0 none
  else match fetchPath s g p with
    | .miss _ => .held .other
    | .absent va => .absent va
    | .ends va => .ends va
    | .bad va refused => .trap 0x0F va 0 0 refused
    | .bytes bs =>
      if P.refetch then .held .other      -- the unit is fetched again first (14 R337)
      else if !P.waited && decide (G.gc < P.elig + headerDelay bs) then .idle else decoded bs

/-! The verdict on a bundle. -/

/-- The instructions of a bundle with their slot numbers; a bundle without a slot delays and pops (R35). -/
def bundleInstrs (b : Bundle) : List (Nat × Instr) := if b.slots.isEmpty then [(0, .delayOnly b.delay b.pop)] else b.slots
/-- The issue of a bundle at a path's program counter (R48). -/
def curAt (s : State) (g : Nat) (p : PathSlot) (len : Nat) : State :=
  let P := getPath (getGang s g) p
  { s with cur := { gang := g, path := p, pc := P.pc, len := len, slot := 0, mask := P.mask, entering := P.entering, stall := 0, go := false, base := s.cur.base } }
def setCur (s : State) (g : Nat) (p : PathSlot) (b : Bundle) (len : Nat) : State :=
  let s := curAt s g p len
  { s with cur := { s.cur with stall := bankStall s b.l b.w } }
def atSlot (n : Nat) (go : Bool) (s : State) : State := { s with cur := { s.cur with slot := n, go := go } }

def isBranchEnd : Option Instr → Bool
  | some (.gelse _) => true
  | some .gend => true
  | _ => false
/-- An encoding cause that the path's state or a scope field decides: the slot and its opcode (13 R299, 11 R283). -/
def encodingTrap (b : Bundle) (s : State) : Option (Nat × BitVec 8) :=
  if s.cur.entering != .none && !isBranchEnd b.s then some (0, ((b.s.map opcodeOf).getD 0))
  else match b.y with
    | some i => if thymeScopeBad i then some (8, opcodeOf i) else none
    | none => none

/-- Two slots would raise n.store past 63 together (R61). -/
def storesFull (b : Bundle) (s : State) : Bool :=
  (match b.s with | some (.sts ..) => true | _ => false)
    && (match b.w with | some i => (actives s).any (engAperture s i) | none => false) && decide (62 ≤ (curGang s).nstore)

/-- What the verdicts of all slots call for: instructions that settle their own verdict, or the issue. -/
inductive Plan where
  | wait (h : Option Hold) (xs : List (Nat × Instr))
  | settle (xs : List (Nat × Instr))
  | go
  deriving DecidableEq, Repr
def isWait : Verdict → Bool
  | .wait _ => true
  | _ => false
def isFault : Verdict → Bool
  | .fault _ => true
  | _ => false
def isTrap : Verdict → Bool
  | .trap _ => true
  | _ => false
def isStop : Verdict → Bool
  | .fault _ => true
  | .endCtx _ _ => true
  | .trap _ => true
  | _ => false
/-- An encoding cause that a slot's check found (R63). -/
def isEncoding : Verdict → Bool
  | .trap t => t.cause == 0x01 || t.cause == 0x02 || t.cause == 0x06
  | _ => false
def isArrive : Verdict → Bool
  | .arrive _ => true
  | _ => false
def verdicts (b : Bundle) (s : State) : List ((Nat × Instr) × Verdict) :=
  (bundleInstrs b).map (fun x => (x, slotCheck x.2 (atSlot x.1 false s)))
/-- Waits come first; then the earliest slot with an encoding cause, else with another one (R63), all not-present pages together
(19 R396); then the arrival of a BARX, which waits on. -/
def plan (b : Bundle) (s : State) : Plan :=
  let vs := verdicts b s
  let ws := (vs.filter (fun v => isWait v.2)).map (·.1)
  let pop := !b.slots.isEmpty && popWait b.pop s
  if pop || storesFull b s || !ws.isEmpty then .wait (if pop then some .queue else if storesFull b s then some .other else none) ws
  else match ((vs.filter (fun v => isEncoding v.2)) ++ vs).find? (fun v => isStop v.2) with
    | some v => .settle (if isFault v.2 then (vs.filter (fun v => isFault v.2)).map (·.1) else [v.1])
    | none => (match vs.filter (fun v => isArrive v.2) with
        | [] => .go
        | xs => .settle (xs.map (·.1)))

/-! The issue. -/

/-- What follows a step that goes on. -/
def after (o : Outcome) (f : State → Outcome) : Outcome :=
  match o with
  | .next s => f s
  | .fault r => .fault r
  | .refused r => .refused r
/-- The listed slots, one after another. -/
def runSlots (go : Bool) : List (Nat × Instr) → State → Outcome
  | [], s => .next s
  | x :: xs, s => after (exec x.2 (atSlot x.1 go s)) (runSlots go xs)

/-- The path moves on; a transfer or a stall of the bundle sets it anew. -/
def beginIssue (s : State) : State :=
  modCur s (fun G => modPath G s.cur.path (fun P =>
    { P with pc := nextPc s, elig := G.gc + 1, entering := .none, waited := false, hold := .none, eligPhases := none }))
/-- A step command is used up when every path it names has issued (21 R425). -/
def countStep (p : PathSlot) (G : Gang) : Gang :=
  match G.stepLeft with
  | some l =>
    let l := l.filter (· != p)
    if l.isEmpty then { G with stepLeft := none, stopReq := (match G.stopReq with | some r => some r | none => some .halt), stopAt := G.gc + 1 }
    else { G with stepLeft := some l }
  | none => G
/-- The end of the issue cycle: pops, and what the gang notes about its last issue (R50; 13 R296; 11 R268; 21 R416). DESIGN CHOICE
(log entry 106): after a cycle in which both slots issued, slot A has first choice. -/
def finishIssue (p : PathSlot) (b : Bundle) (s : State) : State :=
  let s := if b.slots.isEmpty then s else popQueues b.pop s
  modCur s (fun G =>
    let G := countStep p (countDsets s.cur.path G)
    { G with lastIssue := G.gc + 1, turn := otherSlot s.cur.path })
/-- An instruction that may make two paths of one, or one of two. -/
def forksOrJoins : Instr → Bool
  | .gif .. | .gend => true
  | _ => false
/-- The slots in the order in which they act: Y first, then as R33 lists them, but a GIF or GEND last, for what the other slots begin
belongs to the path that issues the bundle (10 R232). -/
def issueOrder (b : Bundle) : List (Nat × Instr) :=
  let xs := bundleInstrs b
  let ys := xs.filter (fun x => x.1 != 8)
  xs.filter (fun x => x.1 == 8) ++ ys.filter (fun x => !forksOrJoins x.2) ++ ys.filter (fun x => forksOrJoins x.2)
/-- A path's chance begins: 1,024 free values are set aside for it. -/
def openTry (s : State) : State := { s with free := s.free + 1024, cur := { s.cur with base := some s.free } }
/-- The chance of a path is over; the free values set aside for it are not used again. -/
def closeTry (s : State) : State := { s with cur := { s.cur with go := false, base := none } }
def markTried (g : Nat) (ps : List PathSlot) (s : State) : State := { s with tried := ps.map (fun p => (g, p)) ++ s.tried }

/-- A cause found before the slots execute (R62, R63). -/
def pathTrap (g : Nat) (p : PathSlot) (cause : BitVec 8) (va : Nat) (opc : BitVec 8) (slot : Nat) (s : State) : State :=
  latchTrap s g { cause := cause, va := BitVec.ofNat 52 va, pc := (getPath (getGang s g) p).pc, emask := 0, code := 0, opc := opc,
                  slot := BitVec.ofNat 4 slot, deferred := false, path := p }
/-- The chances that a path's issue or trap takes: the gang's own sequencer gives one of its two paths the cycle (13 R296). -/
def takesCycle (s : State) (g : Nat) : List PathSlot := if interleaved (getGang s g) then [.A, .B] else []
/-- An encoding cause of the static encoding at a slot, unless an earlier slot has one (R63). -/
def encodingStop (g : Nat) (p : PathSlot) (b : Bundle) (cause opc : BitVec 8) (slot : Nat) (s : State) : Outcome :=
  match (verdicts b s).find? (fun v => isEncoding v.2 && decide (v.1.1 < slot)) with
  | some v => runSlots false [v.1] s
  | none => .next (pathTrap g p cause 0 opc slot s)
/-- A bundle of which a slot does not decode. -/
def tryBroken (g : Nat) (p : PathSlot) (b : Bundle) (cause opc : BitVec 8) (slot : Nat) (s : State) : Outcome :=
  let s := setCur (earlyWrites s g) g p b 4
  match encodingTrap b s with
  | some x => .next (pathTrap g p 0x01 0 (if slot = 0 then opc else x.2) 0 s)
  | none => encodingStop g p b cause opc slot s
/-- The effects of an issue whose checks all pass. -/
def issueBundle (g : Nat) (p : PathSlot) (b : Bundle) (s : State) : Outcome :=
  after (runSlots true (issueOrder b) (beginIssue s)) (fun t => .next (finishIssue p b (markTried g (takesCycle s g) t)))
/-! The translation of a bundle's accesses, and what waits for ports beside it (15 R358, R359; 11 R254). -/

/-- The packets by which an issue that takes these flits reads page table entries. -/
def issueReqs (s : State) (g : Nat) (p : PathSlot) (keys : List (Nat × Nat)) : List Pkt :=
  keyPkts s (issuePktId g p) (siteG (gangDie g)) keys
/-- The flits that the issue of a path's next bundle would take, all its other conditions met. -/
def issueKeys (s : State) (g : Nat) (p : PathSlot) : List (Nat × Nat) :=
  if gangIssues (getGang s g) && pathIssues (getGang s g) p then
    (match chance s g p with
     | .bundle b len =>
       let u := setCur (earlyWrites s g) g p b len
       if (encodingTrap b u).isSome || plan b u != .go then []
       else (match issueBundle g p b u with
         | .next t => keysBetween u t
         | .fault _ | .refused _ => [])
     | _ => [])
  else []
def issueCand (s : State) (g : Nat) (p : PathSlot) (keys : List (Nat × Nat)) : Candidate :=
  ⟨.event (.delayOnly 0 0), keys, (issueReqs s g p keys).map (·.id)⟩
def issueCands (s : State) : List Candidate :=
  s.gangs.flatMap (fun g => slotsAB.filterMap (fun p =>
    let x := issueCand s g.1 p (issueKeys s g.1 p)
    if !x.keys.isEmpty && arrived s x.pkts then some x else none))
/-- All that waits for ports: steps on their own schedule, steps that are due, and bundles. -/
def waitingCands (s : State) : List Candidate := asyncCands s ++ dueCands s ++ issueCands s
/-- A step whose time has come waits for its packets and its ports like any other. -/
def mayHappen (s : State) (i : Instr) : Bool :=
  let x := candidateOf s i
  pktsHere s i x && (x.keys.isEmpty || servable s (waitingCands s) x)
/-- Steps that are due and need not wait for a packet or a port. -/
def dueEvents (s : State) : List Instr := (dueSteps s).filter (mayHappen s)
/-- The issue of a bundle that leads from s to t waits for its translation: for the packets of the page table entries it reads, and for
their ports (02 R60). -/
def mayIssue (s t : State) : Bool :=
  let ks := keysBetween s t
  ks.isEmpty ||
    (let x := issueCand s s.cur.gang s.cur.path ks
     arrived s x.pkts && servable s (waitingCands s) x)
def gateIssue (s : State) (o : Outcome) : Outcome :=
  after o (fun t => .next (if mayIssue s t then noteTurns (keysBetween s t) t else holdPath .other s))
/-- A bundle's issue: its checks, and its slots if they all pass. -/
def tryBundle (g : Nat) (p : PathSlot) (b : Bundle) (len : Nat) (s : State) : Outcome :=
  let both := takesCycle s g
  let s := setCur (earlyWrites s g) g p b len
  match encodingTrap b s with
  | some x => encodingStop g p b 0x01 x.2 x.1 (markTried g both s)
  | none =>
    match plan b s with
    | .wait h xs => runSlots false xs (match h with | some h => holdPath h s | none => s)
    | .settle xs => runSlots false xs (if (verdicts b s).any (fun v => isTrap v.2) then markTried g both s else s)
    | .go => gateIssue s (issueBundle g p b s)
/-- A path has its chance in this gang cycle; a bundle that a fault held replays once its entries are freed, and walks again
(19 R399; log entry 116). -/
def beginTry (g : Nat) (p : PathSlot) (s : State) : State :=
  let s := openTry (markTried g [p] s)
  if (getPath (getGang s g) p).hold = .fault ∧ !pathFaulted s g p then dropWalks (agGang g) s else s
/-- A path's chance to issue in this gang cycle. -/
def tryPath (g : Nat) (p : PathSlot) (s : State) : Outcome :=
  let s := beginTry g p s
  let noted (h : Hold) : State := holdPath h (curAt s g p 0)
  after (match chance s g p with
    | .idle => .next (noted .none)
    | .held h => .next (noted h)
    | .absent va =>
      .next (match gangTeam s g with
        | some T => recordFault (noted .fault) (gangDie g) ⟨va, T.ctx, locator s T.ctx g 0, 3, 4, if p = .A then 0 else 1, 0, 0, teamKey T⟩
        | none => s)
    | .ends va =>
      .next (match gangTeam s g with
        | some T => endContext s T.ctx 0x09 va (locator s T.ctx g 0)
        | none => s)
    | .trap cause va opc slot refused =>
      .next (pathTrap g p cause va opc slot (logTrap ⟨cause, 0, 0, 0, refused⟩ (markTried g (takesCycle s g) (curAt s g p 0))))
    | .broken b cause opc slot => tryBroken g p b cause opc slot (markTried g (takesCycle s g) s)
    | .bundle b len => tryBundle g p b len s) (fun s => .next (closeTry s))

end Sys2Proof.Machine
end

