-- ==== Sys2Proof/Machine/Clock.lean ====
section
/-! DEFINITION. What happens beside issue: the steps whose time is fixed, the inputs from outside, the steps that run
on their own schedule, the end of a main cycle, and the clock (00 scope; 02 R52, R56; 06 R145; 08 R209, R210; 09 R222;
15 R349–R359; 21 R413, R416; log entries 5, 6). -/

namespace Sys2Proof.Machine

/-! Inputs. -/

def isCore : HomeReq → Bool
  | .core _ _ _ => true
  | .txn _ _ _ | .left _ => false
/-- What the outside world can do: commands and accesses of the control cores and the management controller, pieces
from other modules, errors, power and temperature. -/
def isInput : Instr → Bool
  | .homeRead r => isCore r
  | .homeWritePerform r => isCore r
  | .keySlotWrite .. | .correctableError _ | .uncorrectableError _ | .preemptSignalIssue .. | .thymeVoteError .. => true
  | .resumeCommand .. | .haltCommand .. | .stepCommand .. | .recordSubmitWindow .. | .contextActivate _ => true
  | .contextEnd .. | .unmapCommand .. | .faultRetry .. | .faultAbort .. | .remotePieceArrival _ => true
  | .linkFlitError .. | .deviceRegisterWrite .. | .startCommand _ | .restartCommand _ | .clearLastingMark .. => true
  | .startAttemptRetry _ | .firmwareImageUpdate .. | .powerWarning _ | .overlimitTrip .. | .dieTemperatureWarning .. => true
  | .stopCommand | .immediateOff | .clearStepRecord | .controlCoreStopAck | .mainPowerLoss | .errorLogClear => true
  | _ => false

/-! Steps on their own schedule: when, and which of them first, no rule says. -/

/-- A free number chooses one of the events that their ports serve, or that no more of them happen in this cycle (15 R358, R359). -/
def serve (s : State) : Outcome :=
  let all := waitingCands s
  let es := (asyncCands s).filter (servable s all)
  let s' := { s with free := s.free + 1 }
  if es.isEmpty then .next { s with served := true }
  else match es[freeAt s 0 % (es.length + 1)]? with
    | some x => (match x.work with
      | .event i => exec i (noteTurns x.keys s')
      | .flow n => .next (runFlow n (noteTurns x.keys s')))
    | none => .next { s' with served := true }

/-! The end of a main cycle, after the paths have had their chance. -/

def gangLate (s : State) (g : Nat) (G : Gang) : List Instr :=
  ((List.range 16).filter (fun e => G.tops.any (pushReady s g e))).map (Instr.sageQueuePush g)
  ++ (G.tops.filter (fun o => endReady s g o.eng o.id)).map (fun o => Instr.tInstrComplete g o.eng o.id)
  ++ (G.tops.filter (fun o => beginReady s g o.eng o.id)).map (fun o => Instr.tInstrBegin g o.eng o.id)
  ++ flag (watchdogReady s g) (.watchdogExpiry g)
  ++ flag (thresholdReady s g) (.switchThresholdExpiry g)
def lateEvents (s : State) : List Instr :=
  s.teams.flatMap (fun t => ((List.range 16).filter (fun b => (barOf t.2 b).due)).map (Instr.barrierPhaseComplete t.1))
  ++ s.gangs.flatMap (fun g => gangLate s g.1 g.2)

/-! The clock. -/

/-- A step made within the clock's own. -/
def perform (i : Instr) (s : State) : State :=
  match exec i s with
  | .next t => t
  | .fault _ => s
  | .refused _ => s
/-- A released spare is free from the noted gang cycle on; now is the main cycle. -/
def settleSpare (now : Nat) (G : Gang) : Gang :=
  match G.spareFreeAt with
  | some c => if c ≤ G.gc then { G with spare := false, spareFreeAt := none, spareLost := now } else G
  | none => G
/-- Issue-free cycles, of which those with every live path held on a fault do not count (21 R416). -/
def countIdle (G : Gang) : Nat :=
  if G.run ≠ .run then G.idleCount
  else if G.lastIssue = G.gc + 1 then 0
  else if allFaulted G then G.idleCount
  else G.idleCount + 1
/-- An aperture load whose responses have all come returns 5 gang cycles later; until then its result does not land (11 R254). -/
def settleLoad (s : State) (g : Nat) (G : Gang) (T : Txn) : Gang :=
  if !isApLoad T || T.due.isSome then G
  else if T.accs.all (·.done) && answered s (respPkts s g T.id) then returnLoad G.gc G T
  else { G with flight := G.flight.map (fun f => if f.txn = some T.id then { f with land := max f.land (G.gc + dieDelay + 1) } else f) }
def settleLoads (s : State) (g : Nat) : State :=
  modGang s g (fun G => if G.run == .run || G.run == .finishing then G.txns.foldl (settleLoad s g) G else G)
/-- A gang at the boundary of its cycle: waiting pushes move on, the cycle counts unless the gang is stopped, and a stop or
a freeze begins. -/
def crossBoundary (now : Nat) (G : Gang) : Gang :=
  let G := if tWorks G then delayPushes G else G
  let G := { G with popped := [], wrote := [] }
  let G := if ticking G then settleDsets { G with gc := G.gc + 1, idleCount := countIdle G } else G
  beginFreeze (stopBoundary (settleSpare now G))
/-- A path whose next bundle becomes eligible notes the barrier phases then open (11 R281). -/
def noteEligible (T : Team) (gc : Nat) (P : Path) : Path :=
  if P.live ∧ P.eligPhases = none ∧ P.elig ≤ gc then { P with eligPhases := some (T.bars.map (fun b => (b.1, b.2.phase))) } else P
def notePhases (s : State) (g : Nat) : State :=
  let note (G : Gang) (T : Team) (p : PathSlot) : Path := if loadOut G p then getPath G p else noteEligible T G.gc (getPath G p)
  match gangTeam s g with
  | some T => modGang s g (fun G => { G with a := note G T .A, b := note G T .B })
  | none => s
/-- A request for the spare that falls in a gang cycle which a freeze holds up is made in the main cycle of that gang cycle (13
R299). -/
def deferAsk (now : Nat) (G : Gang) : Gang :=
  if G.frozen ≠ 0 ∧ now ≤ G.spareAskAt + 1 then { G with spareAskAt := G.spareAskAt + 1 } else G
/-- A frozen gang counts down (08 R209); another one crosses its boundary, and x results of T instructions that
complete in the new cycle stand in their registers. -/
def nextGangCycle (s : State) (g : Nat) : State :=
  let s := modGang s g (deferAsk (nowCyc s))
  let G := getGang s g
  if G.frozen = 1 then perform (.freezeEnd g) s
  else if G.frozen ≠ 0 then modGang s g (fun G => { G with frozen := G.frozen - 1 })
  else
    let s := notePhases (giveUpSpare (modGang s g (crossBoundary (nowCyc s))) g) g
    let s := if tWorks { getGang s g with frozen := 0 } then stepRuns s g else s
    if tWorks G then landOpX s g else s
/-- The tick in which a parked team became ready (15 R352, R355). -/
def noteReady (s : State) (t : Nat) (T : Team) : Team :=
  if T.run = .parked then
    { T with readySince := if teamReady s t T then (match T.readySince with | some r => some r | none => some s.tick) else none }
  else T
/-- The packets of the fabric (15 R358; log entry 88). -/
def wantedPkts (s : State) : List Pkt :=
  s.gangs.flatMap (fun g => g.2.txns.flatMap (fun T => T.accs.zipIdx.map (accPkt s g.1 T)) ++ parkPkts s g.1 g.2
    ++ slotsAB.flatMap (fun p => issueReqs s g.1 p (issueKeys s g.1 p)))
  ++ s.flows.map (flowPkt s)
  ++ s.left.map (fun x => reqPkt s (leftPktId x.team x.id) (siteG (gangDie x.gang)) (siteS (homeSlice s x.acc.pa)) 0)
  ++ (asyncEvents s ++ dueSteps s).flatMap (fun i => if (eventFrom s i).isSome then eventReqs s i (eventKeys s i) else [])
  ++ s.dies.flatMap (fun d => d.2.banks.flatMap (fun b => bankPkts s d.1 b.1 b.2) ++ migrationPkts s d.1)
/-- Every packet that is wanted goes on by a cycle; a new one sets out. -/
def agePkts (s : State) : State :=
  { s with
    free := s.free + 1
    pkts := (wantedPkts s).zipIdx.map (fun w => match s.pkts.find? (fun p => p.id == w.1.id) with
      | some p => hopPkt s (freeAt s (1000 + w.2)) p
      | none => w.1) }
def tickOver (s : State) : State := if s.sub = 3 then perform .packageTimeTick s else { s with sub := s.sub + 1 }
def nextCycle (s : State) : State :=
  let s := tickOver (flushPushes s)
  let s := if refillReady s then perform .budgetWindowRefill s else s
  let s := (s.gangs.map (·.1)).foldl nextGangCycle s
  let s := (s.gangs.map (·.1)).foldl settleLoads (agePkts s)
  { s with teams := s.teams.map (fun t => (t.1, noteReady s t.1 t.2)), served := false, tried := [] }

end Sys2Proof.Machine
end

