-- ==== Sys2Proof/Machine/Place.lean ====
section
/-! DEFINITION. How a program stands before its first bundle issues: the module handed off, one active context with its
page tables, one team that runs on gang 0, and the bundle's bytes in memory and in the instruction cache (13 R294; 15
R350; 19 R382, R390; 22 R436; log entry 2). -/

namespace Sys2Proof.Machine

/-- The program counter, and the physical address it translates to. -/
def placePc : Nat := 0x100000
/-- Little-endian bytes stored as they stand. -/
def placeWord (pa : Nat) (v : DWord) (s : State) : State := { s with mem := spSetList 0 s.mem pa (leBytes 8 v.toNat) }
/-- A two-level table at 0x10000: virtual addresses below 2^28 translate to the same physical ones, with every right (R391, R392). -/
def placeTables (s : State) : State :=
  placeWord 0x20000 (3 + 7 * 2 ^ 49) (placeWord 0x10000 (1 + 0x20000) s)
/-- The descriptor of context 0: active, its table, lease exponent 10, migration age 6, switch threshold 64; one die. -/
def placeContext (s : State) : State :=
  let s := { s with dev := s.dev.filter (fun x => decide (0x11400000 / 8 ≤ x.1)) }
  let s := devSet s (ctxBlock 0) 1
  let s := devSet s (ctxBlock 0 + 8) 1
  let s := devSet s (ctxBlock 0 + 32) (10 * 2 ^ 24 + 6 * 2 ^ 32 + 64 * 2 ^ 48)
  let s := devSet s (ctxBlock 0 + 40) (1 * 2 ^ 8)
  let s := devSet s (ctxBlock 0 + 0x100) 1
  devSet s (saveEntry 0 0) (2 ^ 63 + 0x400000)
def placedTeam : Team :=
  { bits := 1, die := 0, bank := 0, recId := 0, ctx := 0, num := 0, nteam := 1, vdie := 0, gangs := [0], slot := 0, spBase := 0,
    spLen := 131072, accBase := 0, accSteps := 8, pdecl := 0, peff := 0, run := .running, since := 0, readySince := none,
    ranAt := 0, stopCyc := 0, bars := [], copies := [], saved := [], savedOk := [], done := [], startFault := false }
/-- Gang 0 at team start (13 R294, 06 R149). -/
def placedGang (H : Gang) : Gang :=
  { Gang.start with
    hw := H.hw.map (fun h => (h.1, { h.2 with regBad := [] })), team := some 0, run := .run, stopAt := 0, stkb := 0x500000
    a := { Path.free with live := true, pc := BitVec.ofNat 52 placePc, mask := 0xFFFF }
    eng := (List.range 16).map (fun e => (e, { Engine.start with cfgA := 256 * 8 })) }
/-- The module runs a bundle's bytes next: what other teams, steps and inputs would do first is not there. -/
def placeBytes (bs : List Byte) (s : State) : State :=
  let s := { s with
    mem := spClear s.mem placePc 64, memBad := [], sl := [], repl := [], replBad := [], readers := [], left := [], priv := [], ntag := [], tlb := [], unmaps := [], pkts := []
    budget := [], flows := [], turns := [], inputs := [], signals := [], sbcs := [], rounds := [], nextTeam := 1, teams := [(0, placedTeam)]
    gangs := [(0, placedGang (getGang s 0))]
    dies := s.dies.map (fun d => (d.1, { d.2 with banks := [], waits := [], owners := [] }))
    mgmt := { s.mgmt with side := 2, step := 10, absentNear := [] }, served := true, tried := [] }
  let s := placeTables (placeContext s)
  { s with
    mem := spSetList 0 s.mem placePc bs
    pairs := [(0, { Pair.clear with icache := [(placePc / 64, BitVec.ofNat 512 (leNat (bs.take 64)))] })] }

end Sys2Proof.Machine
end

