-- ==== Sys2Proof/Machine/Step.lean ====
section
/-! DEFINITION. One step of the module, and a state whose next step runs a given instruction. -/

namespace Sys2Proof.Machine

/-- One step: a step whose time has come; else an input from outside; else a step on its own schedule, until none is
chosen; else the chance of the next path to issue its bundle; else what ends the main cycle; else the clock. -/
def step (s : State) : Host.Outcome State Fault Refusal :=
  match dueEvents s with
  | i :: _ => exec i s
  | [] =>
    match s.inputs with
    | i :: r => if isInput i then exec i { s with inputs := r } else .next { s with inputs := r }
    | [] =>
      if !s.served then serve s
      else match nextPath s with
        | some (g, p) => tryPath g p s
        | none =>
          match lateEvents s with
          | i :: _ => exec i s
          | [] => .next (nextCycle s)

/-- The next step issues the bundle that a table word stands for, alone on gang 0 (log entry 2). -/
def State.withFetchWord (s : State) (nbits w : Nat) : State := placeBytes (tableBytes nbits w) s

end Sys2Proof.Machine
end

