-- ==== Sys2Proof/Safety.lean ====
section
/-! DEFINITION. What counts as a safe run, and the terms in which the claims are stated. -/

namespace Sys2Proof

/-- A run of n steps from s ends in a state: no step faults and none is refused. -/
def SafeRun (n : Nat) (s : Machine.State) : Prop := ∃ t, Host.Core.run core n s = .next t

/-- Memory stands in its one canonical form. -/
def MemOk (s : Machine.State) : Prop := Machine.Memory.wf s.mem = true

/-- Key slot 0 of every S-die holds no key: it is plaintext (19 R401). -/
def PlainSlot (s : Machine.State) : Prop := ∀ d : Nat, Machine.spGet 0 s.keys (64 * d) = 0

/-- What every step keeps: memory in its canonical form, key slot 0 without a key, and the place of the main cycle
within its tick one of four (09 R222). -/
def Inv (s : Machine.State) : Prop := MemOk s ∧ PlainSlot s ∧ s.sub < 4

/-- The opcodes that no instruction of a slot has, range by range (03 R84). -/
def unassignedIn (k : SlotKind) (v1 : Bool) (op : Nat) : Bool :=
  let rs : List (Nat × Nat) :=
    match k, v1 with
    | .s, _ => [(0, 0), (0x14, 0x17), (0x1B, 0x1F), (0x28, 0x2F), (0x39, 0x3F), (0x45, 0x4F), (0x56, 0x5F), (0x64, 0xFF)]
    | .x, _ => [(0, 0), (0x0C, 0x0F), (0x15, 0xFF)]
    | .v, false => [(0, 0), (0x0D, 0x0F), (0x1D, 0x1F), (0x2F, 0xFF)]
    | .v, true => [(0, 0), (0x0D, 0x0F), (0x1D, 0x1F), (0x2F, 0x2F), (0x35, 0xFF)]
    | .t, _ => [(0, 0), (0x09, 0x0F), (0x19, 0x1F), (0x22, 0xFF)]
    | .l, _ => [(0, 0), (0x08, 0xFF)]
    | .w, _ => [(0, 0), (0x06, 0xFF)]
    | .c, _ => [(0, 0), (0x0A, 0xFF)]
    | .y, _ => [(0, 0), (0x10, 0xFF)]
  rs.any (fun r => decide (r.1 ≤ op) && decide (op ≤ r.2))

namespace Machine

/-- What instruction i reads is there: no interlocked value is outstanding for a register it reads or writes with an
exposed latency (02 R58), no queue it names is empty (02 R50), no register it reads has failed its parity (08 R208). -/
def Readable (i : Instr) (s : State) : Prop :=
  (∀ r, r ∈ sSrcs i ++ (exposedS i).toList.map (·.toNat) → ilkBusy (curGang s) r = false) ∧
  (∀ k, k ∈ i.queues → queueWait s k.toNat = false) ∧
  (∀ e, e < 16 → parityBad s i e = false)

/-- An F field resolves to FP32 in every active engine (05 R118). -/
def TabIsF32 (tab : Bool) (s : State) : Prop := tab = true → ∀ e, e ∈ actives s → pickFa .tab (fmttEntry s e) = some .f32

/-- Device memory and what stands for it reads as before: bytes, poison, shared level, private versions, device windows. -/
def SameMemory (s t : State) : Prop :=
  (∀ a, spGet 0 t.mem a = spGet 0 s.mem a) ∧ t.memBad = s.memBad ∧ t.sl = s.sl ∧ t.priv = s.priv ∧ t.dev = s.dev

/-- A gang's registers, engines, scratchpads, accumulators, queues and counters stand as before. -/
def SameRegs (G H : Gang) : Prop :=
  H.s = G.s ∧ H.lc = G.lc ∧ H.abase = G.abase ∧ H.d = G.d ∧ H.eng = G.eng ∧ H.hw = G.hw ∧ H.l1 = G.l1
    ∧ H.q4 = G.q4 ∧ H.q5 = G.q5 ∧ H.q6 = G.q6 ∧ H.q7 = G.q7 ∧ H.stack = G.stack ∧ H.retired = G.retired ∧ H.latch = G.latch
    ∧ H.ntile = G.ntile ∧ H.njoin = G.njoin ∧ H.npred = G.npred ∧ H.ncopy = G.ncopy ∧ H.nstore = G.nstore
    ∧ H.a.lnk = G.a.lnk ∧ H.b.lnk = G.b.lnk

/-- A T instruction may issue: what it reads is there, its counter is below 63, no active engine raises a cause (06 R144,
R145). -/
def TReady (i : Instr) (s : State) : Prop :=
  Readable i s ∧ tCounter (curGang s) (tClass i) < 63 ∧ ∀ e, e ∈ actives s → tFail i s e = none

/-- The word at address a of engine e's scratchpad may be read: it lies inside the team's window, aligned, unpoisoned (05 R141,
R142; 15 R353). -/
def WordReadable (s : State) (e : Nat) (a : Word) : Prop :=
  a.toNat + 4 ≤ (curWin s).len ∧ a.toNat % 4 = 0 ∧ spadBadIn (curHw s e) (curWin s) a.toNat 4 = false

/-- Every word an L or W form names in the active engines may be accessed, and where one is of a scratchpad no read is outstanding
that an acquire of the path waits for (11 R253, R254; 10 R238). -/
def AddressesOk (i : Instr) (s : State) : Prop :=
  (acquirePending s = false ∨ hasSpadWord s i = false) ∧ (∀ e, e ∈ actives s → addrFail s i e = none) ∧
  (∀ e, e ∈ actives s → ∀ x, x ∈ apAddrs s e i → accessVerdict s (apVa s x.2) 4 (if isStoreForm i then 2 else 1) = .ok)

/-- A copy command may enter the queue: its operands and descriptor are good, an entry is free, n.copy is below 63 (11
R269). -/
def CopyReady (i : Instr) (op : CopyOp) (s : State) : Prop :=
  Readable i s ∧ copyCauses i op s = .ok ∧ queueFull s = false ∧ (curGang s).ncopy < 63

/-- The forms whose only results are registers in flight, and transfers of control. -/
def registerForm : Instr → Bool
  | .add .. | .sub .. | .and .. | .or .. | .xor .. | .andn .. | .shl .. | .shr .. | .sar .. | .min .. | .max .. | .cmp ..
  | .sel .. | .popc .. | .clz .. | .mul .. | .mulh .. | .div .. | .rem .. | .addi .. | .li .. | .lih .. => true
  | .br .. | .jmp .. | .jmpr .. | .call .. | .ret | .loop .. | .trap .. | .bkpt => true
  | .gany .. | .gall .. | .gcnt .. | .gmsk .. | .qid .. | .qtop .. | .qdie .. | .csrr .. | .csrw .. => true
  | .xli .. | .xmov .. | .xadd .. | .xsub .. | .xmul .. | .xand .. | .xxor .. | .xshl .. | .xshr .. | .xpopc .. | .xpfx ..
  | .xsel .. | .xldc .. | .xadv .. | .xhash .. | .xcmpa .. => true
  | .vaddf .. | .vsubf .. | .vmulf .. | .vfmaf .. | .vminf .. | .vmaxf .. | .vcmpf .. | .vrcp .. | .vrsq .. | .vex2 ..
  | .vlg2 .. | .vtanh .. | .vaddi .. | .vsubi .. | .vmuli .. | .vmulhi .. | .vand .. | .vor .. | .vxor .. | .vshl ..
  | .vshr .. | .vsar .. | .vmini .. | .vmaxi .. | .vcmpi .. | .vmov .. | .vli .. | .vbcs .. | .vsel .. | .vrot .. => true
  | .plog .. | .epset .. | .vcvt .. | .vqnt .. | .vdqn .. | .vred .. | .vperm .. | .vpld .. | .vpldSwap | .vtrd .. | .vtwr .. => true
  | .gshf .. | .gbcst .. | .gred .. | .gscan .. | .gpsh .. => true
  | _ => false

/-- The forms that store to device memory or a scratchpad. -/
def storeForm : Instr → Bool
  | .sts .. | .stv .. | .stm .. | .stg .. | .stmk .. | .stx .. => true
  | _ => false

/-- Every gang but the issuing one stands as before. -/
def OtherGangsSame (s t : State) : Prop := ∀ g, g ≠ s.cur.gang → getGang t g = getGang s g

end Machine

end Sys2Proof
end

