-- ==== Sys2Proof/Certificates/Slice0/Obligations.lean ====
section
/-! DEFINITION. The statements about the model, for the provers. A result statement has as its conclusion the next state
that the instruction's own effect gives, under conditions on the state and the operands alone. -/

section SliceZero

open Sys2Proof Sys2Proof.Machine

/-! The S slot. -/

/-- The integer results of the S slot and the cycle in which they land (14 R317, R313; 02 R56). -/
def Obligations.ScalarArithmeticResults : Prop :=
  ∀ (s : State) (rd ra rb rc : SReg) (u : Bool) (c : Cond),
    (Readable (.add rd ra rb) s → exec (.add rd ra rb) s = .next (inFlight s 1 (.s rd.toNat (sv s ra + sv s rb)))) ∧
    (Readable (.sub rd ra rb) s → exec (.sub rd ra rb) s = .next (inFlight s 1 (.s rd.toNat (sv s ra - sv s rb)))) ∧
    (Readable (.and rd ra rb) s → exec (.and rd ra rb) s = .next (inFlight s 1 (.s rd.toNat (sv s ra &&& sv s rb)))) ∧
    (Readable (.or rd ra rb) s → exec (.or rd ra rb) s = .next (inFlight s 1 (.s rd.toNat (sv s ra ||| sv s rb)))) ∧
    (Readable (.xor rd ra rb) s → exec (.xor rd ra rb) s = .next (inFlight s 1 (.s rd.toNat (sv s ra ^^^ sv s rb)))) ∧
    (Readable (.andn rd ra rb) s → exec (.andn rd ra rb) s = .next (inFlight s 1 (.s rd.toNat (sv s ra &&& ~~~(sv s rb))))) ∧
    (Readable (.shl rd ra rb) s →
      exec (.shl rd ra rb) s = .next (inFlight s 1 (.s rd.toNat (sv s ra <<< ((sv s rb).toNat % 64))))) ∧
    (Readable (.shr rd ra rb) s →
      exec (.shr rd ra rb) s = .next (inFlight s 1 (.s rd.toNat (sv s ra >>> ((sv s rb).toNat % 64))))) ∧
    (Readable (.sar rd ra rb) s →
      exec (.sar rd ra rb) s = .next (inFlight s 1 (.s rd.toNat ((sv s ra).sshiftRight ((sv s rb).toNat % 64))))) ∧
    (Readable (.min u rd ra rb) s →
      exec (.min u rd ra rb) s = .next (inFlight s 1 (.s rd.toNat
        (if (if u then (sv s ra).ult (sv s rb) else (sv s ra).slt (sv s rb)) then sv s ra else sv s rb)))) ∧
    (Readable (.max u rd ra rb) s →
      exec (.max u rd ra rb) s = .next (inFlight s 1 (.s rd.toNat
        (if (if u then (sv s ra).ult (sv s rb) else (sv s ra).slt (sv s rb)) then sv s rb else sv s ra)))) ∧
    (Readable (.cmp c rd ra rb) s →
      exec (.cmp c rd ra rb) s = .next (inFlight s 1 (.s rd.toNat (if condHolds c (sv s ra) (sv s rb) then 1 else 0)))) ∧
    (Readable (.sel rd ra rb rc) s →
      exec (.sel rd ra rb rc) s = .next (inFlight s 1 (.s rd.toNat (if sv s rc = 0 then sv s rb else sv s ra)))) ∧
    (Readable (.popc rd ra) s → exec (.popc rd ra) s = .next (inFlight s 1 (.s rd.toNat (popc64 (sv s ra))))) ∧
    (Readable (.clz rd ra) s → exec (.clz rd ra) s = .next (inFlight s 1 (.s rd.toNat (clz64 (sv s ra))))) ∧
    (Readable (.mul rd ra rb) s → exec (.mul rd ra rb) s = .next (inFlight s 3 (.s rd.toNat (sv s ra * sv s rb)))) ∧
    (Readable (.mulh u rd ra rb) s →
      exec (.mulh u rd ra rb) s = .next (inFlight s 3 (.s rd.toNat (mulHigh u (sv s ra) (sv s rb)))))

/-- ADDI, LI and LIH: formats, immediates, results, and the worked encoding (14 R318). -/
def Obligations.ImmediateResults : Prop :=
  (∀ (s : State) (rd ra : SReg) (i28 : BitVec 28) (i32 : BitVec 32),
    (Readable (.addi rd ra i28) s →
      exec (.addi rd ra i28) s = .next (inFlight s 1 (.s rd.toNat (sv s ra + i28.signExtend 64)))) ∧
    (Readable (.li rd i32) s → exec (.li rd i32) s = .next (inFlight s 1 (.s rd.toNat (i32.zeroExtend 64)))) ∧
    (Readable (.lih rd i32) s →
      exec (.lih rd i32) s = .next (inFlight s 1 (.s rd.toNat (i32 ++ (sv s rd).extractLsb' 0 32)))) ∧
    encode (.addi rd ra i28) = some (.s, (i28 ++ ra ++ rd ++ (0x18 : BitVec 8)).zeroExtend 64) ∧
    encode (.li rd i32) = some (.s, ((0 : BitVec 2) ++ i32 ++ rd ++ (0x19 : BitVec 8)).zeroExtend 64) ∧
    encode (.lih rd i32) = some (.s, ((0 : BitVec 2) ++ i32 ++ rd ++ (0x1A : BitVec 8)).zeroExtend 64)) ∧
  decodeSlot .s false 0x0000003FD719 = .ok (.li 23 0xFF)

/-- DIV and REM: each occupies the divider of the sequencer that issues it for 18 gang cycles and waits while that
divider is occupied; paths on the gang's own sequencer share its divider, a path on the spare has the spare's; MUL and
MULH never wait for one another (14 R319). -/
def Obligations.DividerIsOneAndBusy : Prop :=
  ∀ (s : State) (rd ra rb : SReg) (u : Bool),
    divFree s = (if (curPath s).onspare then (curGang s).divSpare else (curGang s).div) ∧
    (Readable (.div u rd ra rb) s → divFree s ≤ (curGang s).gc →
      exec (.div u rd ra rb) s = .next (takeDivider (inFlight s 18 (.s rd.toNat (divRem u (sv s ra) (sv s rb)).1)))) ∧
    (Readable (.rem u rd ra rb) s → divFree s ≤ (curGang s).gc →
      exec (.rem u rd ra rb) s = .next (takeDivider (inFlight s 18 (.s rd.toNat (divRem u (sv s ra) (sv s rb)).2)))) ∧
    (Readable (.div u rd ra rb) s → (curGang s).gc < divFree s → slotCheck (.div u rd ra rb) s = .wait .other) ∧
    (Readable (.rem u rd ra rb) s → (curGang s).gc < divFree s → slotCheck (.rem u rd ra rb) s = .wait .other) ∧
    divFree (takeDivider s) = (curGang s).gc + 18 ∧
    (Readable (.mul rd ra rb) s → slotCheck (.mul rd ra rb) s = .ok) ∧
    (Readable (.mulh u rd ra rb) s → slotCheck (.mulh u rd ra rb) s = .ok)

/-- Values of the S slot: quotient and remainder with truncation toward zero, the dividend's sign and the two corners; MUL and
MULH together hold the 128-bit product; POPC counts set bits, CLZ the zeros above the highest (14 R317). -/
def Obligations.ScalarValues : Prop :=
  (∀ (a b : DWord) (u : Bool),
    (b = 0 → divRem u a b = (0xFFFFFFFFFFFFFFFF, a)) ∧
    divRem false 0x8000000000000000 0xFFFFFFFFFFFFFFFF = (0x8000000000000000, 0) ∧
    (b ≠ 0 → (divRem u a b).2 = a - (divRem u a b).1 * b) ∧
    (b ≠ 0 → (divRem true a b).1.toNat = a.toNat / b.toNat) ∧
    (b ≠ 0 → ¬(a = 0x8000000000000000 ∧ b = 0xFFFFFFFFFFFFFFFF) → (divRem false a b).1.toInt = a.toInt.tdiv b.toInt) ∧
    (b ≠ 0 → (0 ≤ a.toInt → 0 ≤ (divRem false a b).2.toInt) ∧ (a.toInt ≤ 0 → (divRem false a b).2.toInt ≤ 0))) ∧
  (∀ a b : DWord,
    (mulHigh true a b).toNat * 2 ^ 64 + (a * b).toNat = a.toNat * b.toNat ∧
    (mulHigh false a b).toInt * 2 ^ 64 + (a * b).toNat = a.toInt * b.toInt ∧
    (popc64 a).toNat = ((List.range 64).filter (fun i => a.getLsbD i)).length ∧
    clz64 0 = 64 ∧
    (a ≠ 0 → (clz64 a).toNat < 64 ∧ 2 ^ (63 - (clz64 a).toNat) ≤ a.toNat ∧ a.toNat < 2 ^ (64 - (clz64 a).toNat)))

/-- Transfers: where the path continues, what CALL and LOOP write (14 R320, R321, R323). That lnk lands one gang cycle after the
CALL is the model's choice (log entry 13, DEDUCED): no rule names the cycle. -/
def Obligations.TransferResults : Prop :=
  ∀ (s : State) (ra rb : SReg) (c : Cond) (off : BitVec 24) (k : BitVec 2),
    (Readable (.br c ra rb off) s → condHolds c (sv s ra) (sv s rb) = true →
      exec (.br c ra rb off) s = .next (goTo (branchTarget s off) 2 s)) ∧
    (Readable (.br c ra rb off) s → condHolds c (sv s ra) (sv s rb) = false → exec (.br c ra rb off) s = .next s) ∧
    (Readable (.jmp off) s → exec (.jmp off) s = .next (goTo (branchTarget s off) 2 s)) ∧
    (Readable (.jmpr ra) s → (sv s ra).toNat < 2 ^ 52 → (sv s ra).toNat % 2 = 0 →
      exec (.jmpr ra) s = .next (goTo ((sv s ra).setWidth 52) 2 s)) ∧
    (Readable (.call off) s →
      exec (.call off) s = .next (goTo (branchTarget s off) 2 (inFlight s 1 (.lnk (s.cur.pc + BitVec.ofNat 52 s.cur.len))))) ∧
    (Readable .ret s → (curPath s).lnk.toNat % 2 = 0 → exec .ret s = .next (goTo (curPath s).lnk 2 s)) ∧
    (Readable (.loop k off) s → spGet 0 (curGang s).lc k.toNat = 0 → exec (.loop k off) s = .next s) ∧
    (Readable (.loop k off) s → spGet 0 (curGang s).lc k.toNat ≠ 0 →
      exec (.loop k off) s = .next (goTo (branchTarget s off) 2
        (inFlight s 1 (.lc k.toNat (spGet 0 (curGang s).lc k.toNat - 1)))))

/-- The next bundle after a transfer: eligible in the next gang cycle when it falls through, in the one after that when
it is taken; a miss holds the path (14 R322). -/
def Obligations.TransferEligibility : Prop :=
  (∀ (s t : State) (ra rb : SReg) (c : Cond) (off : BitVec 24) (k : BitVec 2), (curPath s).live = true →
    (exec (.br c ra rb off) (atSlot 0 true (beginIssue s)) = .next t →
      (curPath t).elig = (curGang s).gc + (if condHolds c (sv s ra) (sv s rb) then 2 else 1)) ∧
    (exec (.loop k off) (atSlot 0 true (beginIssue s)) = .next t →
      (curPath t).elig = (curGang s).gc + (if spGet 0 (curGang s).lc k.toNat = 0 then 1 else 2)) ∧
    (exec (.jmp off) (atSlot 0 true (beginIssue s)) = .next t → (curPath t).elig = (curGang s).gc + 2) ∧
    (exec (.jmpr ra) (atSlot 0 true (beginIssue s)) = .next t → (curPath t).elig = (curGang s).gc + 2) ∧
    (exec (.call off) (atSlot 0 true (beginIssue s)) = .next t → (curPath t).elig = (curGang s).gc + 2) ∧
    (exec .ret (atSlot 0 true (beginIssue s)) = .next t → (curPath t).elig = (curGang s).gc + 2)) ∧
  (∀ (s : State) (g : Nat) (p : PathSlot) (va : Nat), (getPath (getGang s g) p).elig ≤ (getGang s g).gc →
    pathFaulted s g p = false → (getPath (getGang s g) p).pc.getLsbD 0 = false → fetchPath s g p = .miss va →
    chance s g p = .held .other)

/-- A JMPR or RET to an odd address raises 0x04, a JMPR beyond 52 bits 0x03, and nothing else happens (14 R320); TRAP raises
0x0D with its code and BKPT 0x0C: their effect is the trap (14 R324). -/
def Obligations.TransferAndCodeTraps : Prop :=
  (∀ (s : State) (ra : SReg), s.cur.go = false →
    (Readable (.jmpr ra) s → 2 ^ 52 ≤ (sv s ra).toNat →
      exec (.jmpr ra) s = .next (takeTrap (.jmpr ra) ⟨0x03, (sv s ra).setWidth 52, 0, 0, none⟩ s)) ∧
    (Readable (.jmpr ra) s → (sv s ra).toNat < 2 ^ 52 → (sv s ra).toNat % 2 = 1 →
      exec (.jmpr ra) s = .next (takeTrap (.jmpr ra) ⟨0x04, (sv s ra).setWidth 52, 0, 0, none⟩ s)) ∧
    (Readable .ret s → (curPath s).lnk.toNat % 2 = 1 →
      exec .ret s = .next (takeTrap .ret ⟨0x04, (curPath s).lnk, 0, 0, none⟩ s))) ∧
  (∀ (s : State) (code : BitVec 16), s.cur.go = false →
    (Readable (.trap code) s → exec (.trap code) s = .next (takeTrap (.trap code) ⟨0x0D, 0, 0, code, none⟩ s)) ∧
    (Readable .bkpt s → exec .bkpt s = .next (takeTrap .bkpt ⟨0x0C, 0, 0, 0, none⟩ s)))

/-- Taking a trap: the cause record holds the bundle's address, opcode, slot and path; the path stops, the gang stops at
its next gang cycle; a record already there stands, but for path B's where path A traps as well in that gang cycle, which a
deferred trap's never is; no register,
memory or other gang changes (21 R411, R413, R414). -/
def Obligations.TrapIsLatched : Prop :=
  ∀ (s : State) (i : Instr) (x : TrapInfo),
    ((curGang s).cause = none ∨ (∃ c, (curGang s).cause = some c ∧ c.path = .B ∧ c.deferred = false ∧ s.cur.path = .A) →
      (curGang (takeTrap i x s)).cause = some
        { cause := x.cause, va := x.va, pc := s.cur.pc, emask := x.emask, code := x.code, opc := opcodeOf i,
          slot := BitVec.ofNat 4 s.cur.slot, deferred := false, path := s.cur.path }) ∧
    (∀ c, (curGang s).cause = some c → c.path = .A ∨ s.cur.path = .B ∨ c.deferred = true → (curGang (takeTrap i x s)).cause = some c) ∧
    (curPath (takeTrap i x s)).trapped = true ∧
    (curGang (takeTrap i x s)).stopReq = some .trap ∧
    ((curGang s).stopReq ≠ some .trap → (curGang (takeTrap i x s)).stopAt = (curGang s).gc + 1) ∧
    SameRegs (curGang s) (curGang (takeTrap i x s)) ∧ (curGang (takeTrap i x s)).flight = (curGang s).flight ∧
    SameMemory s (takeTrap i x s) ∧ OtherGangsSame s (takeTrap i x s)

/-- EXIT and GOFF take engines out of the path: they leave its mask and are retired, and a mask left empty is resolved in the next
gang cycle, nothing else of the gang changing (13 R305); the votes count the active engines whose condition holds (14 R325, R327,
R328). -/
def Obligations.RetireAndVoteResults : Prop :=
  ∀ (s : State) (rd : SReg) (c : Cond) (a b : XSrc),
    (Readable .exit s → exec .exit s = .next (retireEngines (curPath s).mask
      (modCur s (fun G => { G with exitPc := s.cur.pc, exitPath := s.cur.path })))) ∧
    (Readable (.goff .all) s → exec (.goff .all) s = .next (retireEngines s.cur.mask s)) ∧
    (Readable (.goff (.cond c a b)) s → exec (.goff (.cond c a b)) s = .next (retireEngines (maskOf (votersC s c a b)) s)) ∧
    (∀ es : Mask, let t := retireEngines es s
      curGang t = modPath { curGang s with retired := (curGang s).retired ||| es } s.cur.path (fun P =>
        { P with mask := P.mask &&& ~~~es, resolveAt := if P.mask &&& ~~~es = 0 then some (curGang s).gc else none }) ∧
      OtherGangsSame s t ∧ t.mem = s.mem ∧ t.sl = s.sl ∧ t.priv = s.priv) ∧
    (Readable (.gany c rd a b) s →
      exec (.gany c rd a b) s = .next (inFlight s 1 (.s rd.toNat (if votersC s c a b = [] then 0 else 1)))) ∧
    (Readable (.gall c rd a b) s →
      exec (.gall c rd a b) s = .next (inFlight s 1 (.s rd.toNat
        (if (votersC s c a b).length = (votersE s).length then 1 else 0)))) ∧
    (Readable (.gcnt c rd a b) s →
      exec (.gcnt c rd a b) s = .next (inFlight s 1 (.s rd.toNat (BitVec.ofNat 64 (votersC s c a b).length)))) ∧
    (Readable (.gmsk (.cond c a b) rd) s →
      exec (.gmsk (.cond c a b) rd) s = .next (inFlight s 1 (.s rd.toNat ((maskOf (votersC s c a b)).setWidth 64)))) ∧
    (Readable (.gmsk .path rd) s → exec (.gmsk .path rd) s = .next (inFlight s 1 (.s rd.toNat (s.cur.mask.setWidth 64)))) ∧
    (Readable (.gmsk .act rd) s → exec (.gmsk .act rd) s = .next (inFlight s 1 (.s rd.toNat ((maskOf (votersE s)).setWidth 64)))) ∧
    (Readable (.gmsk .ret rd) s → exec (.gmsk .ret rd) s = .next (inFlight s 1 (.s rd.toNat ((curGang s).retired.setWidth 64))))

/-- The cases of GIF: no false engine, no true engine, a new pair entry, a deferred entry; and its stack overflow trap
(13 R299). The path that goes on keeps the bank stall of its bundle, its eligibility no earlier than it stood (02 R57). -/
def Obligations.GifCases : Prop :=
  ∀ (s : State) (c : Cond) (long : Bool) (a b : XSrc) (off : BitVec 24),
    let i := Instr.gif c long a b off
    let T := gifT c a b s
    let F := gifF c a b s
    let other := getPath (curGang s) (otherSlot s.cur.path)
    let stays (t : State) : State := modCur t (fun G => modPath G (if (getPath G t.cur.path).live then t.cur.path else .A)
      (fun P => { P with elig := max P.elig (curPath s).elig }))
    (Readable i s → F = 0 → exec i s = .next (stays s)) ∧
    (Readable i s → F ≠ 0 → T = 0 →
      exec i s = .next (stays (modCurPath (goTo (branchTarget s off) 2 s) (fun P => { P with entering := .uniform })))) ∧
    (Readable i s → F ≠ 0 → T ≠ 0 → stackDepth (curGang s) < 136 → other.live = false →
      exec i s = .next (stays (pairSplit (branchTarget s off) (T ||| gifZ s) F long s))) ∧
    (Readable i s → F ≠ 0 → T ≠ 0 → stackDepth (curGang s) < 136 → other.live = true →
      exec i s = .next (stays (modCurPath (pushEnt s s.cur.gang
        ⟨branchTarget s off, branchTarget s off, T ||| gifZ s, F, false, false, false, false, false,
         decide (s.cur.path = .B), true⟩) (fun P => { P with mask := T ||| gifZ s })))) ∧
    (Readable i s → s.cur.go = false → F ≠ 0 → T ≠ 0 → 136 ≤ stackDepth (curGang s) →
      exec i s = .next (takeTrap i ⟨0x05, 0, 0, 0, none⟩ s))

/-- GELSE, GEND and GSPLIT complete. GELSE without a governing entry, on entry to a half, at the end of a deferred entry's
first half, and at a pair's; GEND without a governing entry, away from its entry's, at a deferred entry's, at a pair's; GSPLIT
asks for the spare only while both slots are live on the gang's own sequencer (13 R300, R301, R306; 14 R326). The path that goes
on after a GEND keeps the bank stall of its bundle (02 R57). -/
def Obligations.ReconvergeResults : Prop :=
  ∀ (s : State) (off : BitVec 24) (i : Nat) (e : StkEnt),
    let target := branchTarget s off
    let gc := (curGang s).gc
    let stays (t : State) : State := modCur t (fun G => modPath G (if (getPath G t.cur.path).live then t.cur.path else .A)
      (fun P => { P with elig := max P.elig (curPath s).elig }))
    (Readable .gsplit s → exec .gsplit s = .next
      (if (curGang s).a.live && (curGang s).b.live && !(curGang s).a.onspare && !(curGang s).b.onspare
        then requestSpare 0 s else s)) ∧
    (Readable (.gelse off) s → govIdx (curGang s) s.cur.path = none → govSpilled s (curGang s) s.cur.path = false →
      exec (.gelse off) s = .next (if s.cur.entering = .none then goTo target 2 s else s)) ∧
    (Readable .gend s → govIdx (curGang s) s.cur.path = none → govSpilled s (curGang s) s.cur.path = false →
      exec .gend s = .next (stays s)) ∧
    (govIdx (curGang s) s.cur.path = some i → govEnt (curGang s) s.cur.path = some e →
      govSpilled s (curGang s) s.cur.path = false →
      (Readable (.gelse off) s →
        (s.cur.entering = .diverged →
          exec (.gelse off) s = .next (setEnt s s.cur.gang i (fun x => { x with rpc := target }))) ∧
        (s.cur.entering = .uniform → exec (.gelse off) s = .next s) ∧
        (s.cur.entering = .none → e.deferred = true → e.phaseElse = false → e.dpc = s.cur.pc →
          exec (.gelse off) s = .next (modCurPath (setEnt s s.cur.gang i (fun x => { x with rpc := target, phaseElse := true }))
            (fun P => { P with mask := e.fmask &&& ~~~(curGang s).retired, elig := gc + 2,
                               resolveAt := if e.fmask &&& ~~~(curGang s).retired = 0 then some gc else none }))) ∧
        (s.cur.entering = .none → e.deferred = false → e.dpc = s.cur.pc →
          exec (.gelse off) s = .next (goTo target 2 (setEnt s s.cur.gang i (fun x => { x with rpc := target })))) ∧
        (s.cur.entering = .none → e.dpc ≠ s.cur.pc ∨ (e.deferred = true ∧ e.phaseElse = true) →
          exec (.gelse off) s = .next (goTo target 2 s))) ∧
      (Readable .gend s →
        (e.rpc ≠ s.cur.pc → exec .gend s = .next (stays s)) ∧
        (e.rpc = s.cur.pc → e.deferred = true →
          exec .gend s = .next (stays (modCurPath (popIdx s s.cur.gang i)
            (fun P => { P with mask := (e.tmask ||| e.fmask) &&& ~~~(curGang s).retired, elig := gc + 4,
                               resolveAt := if (e.tmask ||| e.fmask) &&& ~~~(curGang s).retired = 0 then some gc else none })))) ∧
        (e.rpc = s.cur.pc → e.deferred = false →
          exec .gend s = .next (stays (recheckTeam (arrivePair s s.cur.gang s.cur.path i (nextPc s) gc) s.cur.gang)))))

/-- QID, QTOP, QDIE and CSRR return what the gang, its team and its partition are: every selector and every control register
with its value (14 R333–R336; 11 R267; 09 R223, R224). -/
def Obligations.IdentityResults : Prop :=
  ∀ (s : State) (T : Team) (rd ra rb : SReg) (k : BitVec 2), gangTeam s s.cur.gang = some T →
    let G := curGang s
    let reads (c : Csr) (v : DWord) : Prop := Readable (.csrr rd c) s → exec (.csrr rd c) s = .next (inFlight s 1 (.s rd.toNat v))
    let names (q : QidSel) (n : Nat) : Prop :=
      Readable (.qid q rd) s → exec (.qid q rd) s = .next (inFlight s 1 (.s rd.toNat (BitVec.ofNat 64 n)))
    names .team T.num ∧ names .nteam T.nteam ∧ names .vdie T.vdie ∧
    (T.gangs.length ≠ 2 → names .gang 0) ∧ (T.gangs.length = 2 → names .gang (s.cur.gang % 2)) ∧
    (∀ v, vdOf s T.ctx (gangDie s.cur.gang) = some v → names .loc (2 ^ 16 * v + 16 * (logicalOf s s.cur.gang % 4096))) ∧
    (Readable (.qtop .dies rd) s →
      exec (.qtop .dies rd) s = .next (inFlight s 1 (.s rd.toNat (BitVec.ofNat 64 (ctxNdie s T.ctx))))) ∧
    (Readable (.qtop .diam rd) s →
      exec (.qtop .diam rd) s = .next (inFlight s 1 (.s rd.toNat (BitVec.ofNat 64 (ctxDiam s T.ctx))))) ∧
    (Readable (.qtop (.gangs ra) rd) s → vdieArgOk s (sv s ra) = true →
      exec (.qtop (.gangs ra) rd) s = .next (inFlight s 1 (.s rd.toNat
        (BitVec.ofNat 64 (enabledGangs s (vdPhys s T.ctx (sv s ra).toNat)))))) ∧
    (Readable (.qtop (.gangs ra) rd) s → s.cur.go = false → vdieArgOk s (sv s ra) = false →
      exec (.qtop (.gangs ra) rd) s = .next (takeTrap (.qtop (.gangs ra) rd) ⟨0x0A, 0, 0, 0, none⟩ s)) ∧
    (Readable (.qdie rd ra rb) s → vdieArgOk s (sv s ra) = true → vdieArgOk s (sv s rb) = true →
      exec (.qdie rd ra rb) s = .next (inFlight s 1 (.s rd.toNat
        (BitVec.ofNat 64 (hops s (vdPhys s T.ctx (sv s ra).toNat) (vdPhys s T.ctx (sv s rb).toNat)))))) ∧
    reads (.lc k) ((spGet 0 G.lc k.toNat).setWidth 64) ∧ reads .lnk ((curPath s).lnk.setWidth 64) ∧
    reads .abase (G.abase.setWidth 64) ∧
    reads .cyc (BitVec.ofNat 64 (4 * s.tick + s.sub) - spGet 0 s.roff (gangRegion s.cur.gang)) ∧
    reads .roff (spGet 0 s.roff (gangRegion s.cur.gang)) ∧
    reads .rgn (BitVec.ofNat 64 (2 * gangDie s.cur.gang + (if gangPhys s.cur.gang / 2 < 240 then 0 else 1))) ∧
    reads .ctx (BitVec.ofNat 64 T.ctx) ∧ reads .stkd (BitVec.ofNat 64 (G.stack.length + G.spilled)) ∧
    (∃ v : DWord, reads .spare v ∧ v.getLsbD 0 = holdsSpare G ∧ v.getLsbD 1 = G.spareReq ∧ v.toNat < 4) ∧
    reads .pdecl (BitVec.ofNat 64 T.pdecl) ∧ reads .peff (BitVec.ofNat 64 T.peff)

/-- CSRW, PRIO, YIELD and FENCEI (14 R331, R332, R335–R337). -/
def Obligations.ControlWriteResults : Prop :=
  ∀ (s : State) (ra : SReg) (k : BitVec 2) (t : Nat) (T : Team),
    (Readable (.csrw (.lc k) ra) s →
      exec (.csrw (.lc k) ra) s = .next (inFlight s 1 (.lc k.toNat ((sv s ra).setWidth 32)))) ∧
    (Readable (.csrw .lnk ra) s → exec (.csrw .lnk ra) s = .next (inFlight s 1 (.lnk ((sv s ra).setWidth 52)))) ∧
    (Readable (.csrw .abase ra) s →
      exec (.csrw .abase ra) s = .next (inFlight s 1 (.abase ((sv s ra).setWidth 52 &&& 0xFFFFFFFFF0000)))) ∧
    (Readable (.prio ra) s → (curGang s).team = some t →
      exec (.prio ra) s = .next (modTeam s t (fun T =>
        { T with pdecl := min (sv s ra).toNat 15, peff := min (sv s ra).toNat 15 }))) ∧
    (Readable .yield s → (curGang s).team = some t → getTeam s t = some T → yieldChoice s t T = none →
      exec .yield s = .next s) ∧
    (∀ v, Readable .yield s → (curGang s).team = some t → getTeam s t = some T → yieldChoice s t T = some v →
      exec .yield s = .next (switchTo s v.1)) ∧
    (Readable .fencei s → ∃ s', exec .fencei s = .next s' ∧
      ((curPath s).live = true → (curPath s').elig = (curGang s).gc + 8 ∧ (curPath s').refetch = true))

/-- ENQ and REC: with what they read there, their release done and their operands as the manual wants them, they complete: a
release at package scope (the team's private versions published, but for those of copy commands all outstanding, and the path's
narrow-release tag cleared), n.store one higher, and the record's reads, or the decrement, on their way (14 R329, R330; 10 R237,
R242–R244). That a REC of tag 0 performs the release alone, and n.store stands, is the model's choice (log entry 38, DEDUCED). -/
def Obligations.EnqueueResults : Prop :=
  ∀ (s : State) (ra rb : SReg) (T : Team), gangTeam s s.cur.gang = some T → relReady (curGang s) s.cur.path = true →
    let released (t : State) : Prop := (curPath t).tag = false ∧ t.priv = (doRelease .package s).priv ∧
      t.sl = (doRelease .package s).sl ∧ (∀ a, spGet 0 t.mem a = spGet 0 (doRelease .package s).mem a)
    (∀ n q, (curGang s).team = some n → q ∈ (doRelease .package s).priv → q ∈ s.priv ∧
      (q.team = n → q.cmds ≠ [] ∧ ∀ i, i ∈ q.cmds → ∃ c, c ∈ T.copies ∧ c.id = i ∧ c.finished = false)) ∧
    (Readable (.enq ra rb) s → (sv s ra).toNat % 64 = 0 → (sv s ra).toNat < 2 ^ 52 → accessVerdict s (sv s ra).toNat 64 1 = .ok →
      enqSelOk s (sv s rb) = true → ∃ t, exec (.enq ra rb) s = .next t ∧ (curGang t).nstore = (curGang s).nstore + 1 ∧
        (curGang t).txns.length = (curGang s).txns.length + 1 ∧ (curGang t).s = (curGang s).s ∧ released t) ∧
    (Readable (.recd ra) s → recRefOk s (sv s ra) = true → dbits (sv s ra) 11 0 ≠ 0 → ∃ t, exec (.recd ra) s = .next t ∧
      (curGang t).nstore = (curGang s).nstore + 1 ∧ (curGang t).txns.length = (curGang s).txns.length + 1 ∧
      (curGang t).s = (curGang s).s ∧ released t) ∧
    (Readable (.recd ra) s → recRefOk s (sv s ra) = true → dbits (sv s ra) 11 0 = 0 → exec (.recd ra) s = .next (doRelease .package s)) ∧
    (slotCheck (.enq ra rb) s = .ok → (sv s ra).toNat % 64 = 0 ∧ (sv s ra).toNat < 2 ^ 52 ∧ enqSelOk s (sv s rb) = true) ∧
    (slotCheck (.recd ra) s = .ok → recRefOk s (sv s ra) = true)

/-- LDS, STS, AMO and CAS complete at issue: the access is on its way, at the address and of the length that the form names, or
the L1 has answered with the line's bytes, in the fourth cycle; a miss of classes 0 and 1 reads the whole line (11 R263–R265; 08
R195). -/
def Obligations.SequencerMemoryResults : Prop :=
  ∀ (s : State) (rd ra rb rc : SReg) (sz : Size) (off : BitVec 26) (dbl : Bool) (op : AmoOp),
    (Readable (.lds sz rd ra off) s → accessVerdict s (seqVa s ra off) (sizeBytes sz) 1 = .ok →
      ∃ t, exec (.lds sz rd ra off) s = .next t ∧ (curGang t).ilks.length = (curGang s).ilks.length + 1 ∧
        (curGang t).nstore = (curGang s).nstore) ∧
    (∀ pa key cls tick es, Readable (.lds sz rd ra off) s → accessVerdict s (seqVa s ra off) (sizeBytes sz) 1 = .ok →
      accessTr s (seqVa s ra off) 1 = (some (pa, key, cls, tick), es) →
      let va := seqVa s ra off
      let n := sizeBytes sz
      (∀ x, cls < 2 → acquirePending s = false → atomicPending s pa = false → l1Find (curGang s) pa = some x →
        exec (.lds sz rd ra off) s = .next (addIlk (cacheWalk s es) rd.toNat
          (.at ((curGang s).gc + 4) (BitVec.ofNat 64 (x.data.toNat / 2 ^ (8 * (pa % 64)) % 2 ^ (8 * n)))))) ∧
      (2 ≤ cls ∨ acquirePending s = true ∨ atomicPending s pa = true ∨ l1Find (curGang s) pa = none →
        ∃ t T k, exec (.lds sz rd ra off) s = .next t ∧ (curGang t).txns = (curGang s).txns ++ [T] ∧ T.kind = .lds rd.toNat n va ∧
          (curGang t).ilks = (curGang s).ilks ++ [k] ∧ k.reg = rd.toNat ∧ k.src = .mem T.id ∧
          (∀ a, a ∈ T.accs → a.op = .read ∧ a.done = false) ∧
          T.accs.map (fun a => (a.va, a.pa, a.len, a.key, a.cls)) =
            (if cls < 2 then [(va / 64 * 64, pa / 64 * 64, 32, key, cls), (va / 64 * 64 + 32, pa / 64 * 64 + 32, 32, key, cls)]
             else [(va, pa, n, key, cls)]))) ∧
    (Readable (.sts sz rd ra off) s → accessVerdict s (seqVa s ra off) (sizeBytes sz) 2 = .ok → (curGang s).nstore < 63 →
      ∃ t, exec (.sts sz rd ra off) s = .next t ∧ (curGang t).nstore = (curGang s).nstore + 1 ∧
        (curGang t).txns.length = (curGang s).txns.length + 1) ∧
    (∀ pa key cls tick es, Readable (.sts sz rd ra off) s → accessVerdict s (seqVa s ra off) (sizeBytes sz) 2 = .ok →
      (curGang s).nstore < 63 → accessTr s (seqVa s ra off) 2 = (some (pa, key, cls, tick), es) →
      let n := sizeBytes sz
      let v := (sv s rd).toNat % 2 ^ (8 * n)
      ∃ t T a, exec (.sts sz rd ra off) s = .next t ∧ (curGang t).nstore = (curGang s).nstore + 1 ∧
        (curGang t).txns.getLast? = some T ∧ T.kind = .sts ∧ T.accs = [a] ∧ a.va = seqVa s ra off ∧ a.pa = pa ∧ a.len = n ∧
        a.key = key ∧ a.cls = cls ∧ a.op = .write (BitVec.ofNat 512 v) ∧ a.done = false ∧
        a.tag = (if (curPath s).tag then (curGang s).team else none) ∧
        (∀ x, l1Find (curGang s) pa = some x → pa % 64 + n ≤ 64 → ∃ y, l1Find (curGang t) pa = some y ∧
          y.data.toNat / 2 ^ (8 * (pa % 64)) % 2 ^ (8 * n) = v)) ∧
    (∀ (i : Instr) va n o pa key cls tick es, accessTr s va 3 = (some (pa, key, cls, tick), es) → ∃ T k a,
      (curGang (rmwIssue i rd va n o s)).txns = (curGang s).txns ++ [T] ∧ T.kind = .rmw rd.toNat n ∧ T.accs = [a] ∧
      (curGang (rmwIssue i rd va n o s)).ilks = (curGang s).ilks ++ [k] ∧ k.reg = rd.toNat ∧ k.src = .mem T.id ∧
      a.va = va ∧ a.pa = pa ∧ a.len = n ∧ a.key = key ∧ a.cls = cls ∧ a.op = o ∧ a.done = false) ∧
    (Readable (.amo op dbl rd ra rb) s → accessVerdict s (sv s ra).toNat (rmwBytes dbl) 3 = .ok →
      exec (.amo op dbl rd ra rb) s = .next (rmwIssue (.amo op dbl rd ra rb) rd (sv s ra).toNat (rmwBytes dbl) (.amo op (sv s rb)) s)) ∧
    (Readable (.cas dbl rd ra rb rc) s → accessVerdict s (sv s ra).toNat (rmwBytes dbl) 3 = .ok →
      exec (.cas dbl rd ra rb rc) s = .next (rmwIssue (.cas dbl rd ra rb rc) rd (sv s ra).toNat (rmwBytes dbl) (.cas (sv s rb) (sv s rc)) s))

/-- An access beyond 52 bits raises 0x03, a misaligned one 0x04, before any translation (11 R263, R264; 19 R390). -/
def Obligations.AddressTraps : Prop :=
  ∀ (s : State) (rd ra rb rc : SReg) (sz : Size) (off : BitVec 26) (dbl : Bool) (op : AmoOp), s.cur.go = false →
    let va := seqVa s ra off
    let wa := (sv s ra).toNat
    (Readable (.lds sz rd ra off) s → 2 ^ 52 ≤ va →
      exec (.lds sz rd ra off) s = .next (takeTrap (.lds sz rd ra off) ⟨0x03, BitVec.ofNat 52 va, 0, 0, none⟩ s)) ∧
    (Readable (.sts sz rd ra off) s → 2 ^ 52 ≤ va → (curGang s).nstore < 63 →
      exec (.sts sz rd ra off) s = .next (takeTrap (.sts sz rd ra off) ⟨0x03, BitVec.ofNat 52 va, 0, 0, none⟩ s)) ∧
    (Readable (.amo op dbl rd ra rb) s → 2 ^ 52 ≤ wa →
      exec (.amo op dbl rd ra rb) s = .next (takeTrap (.amo op dbl rd ra rb) ⟨0x03, BitVec.ofNat 52 wa, 0, 0, none⟩ s)) ∧
    (Readable (.cas dbl rd ra rb rc) s → 2 ^ 52 ≤ wa →
      exec (.cas dbl rd ra rb rc) s = .next (takeTrap (.cas dbl rd ra rb rc) ⟨0x03, BitVec.ofNat 52 wa, 0, 0, none⟩ s)) ∧
    (Readable (.lds sz rd ra off) s → va < 2 ^ 52 → va % sizeBytes sz ≠ 0 →
      exec (.lds sz rd ra off) s = .next (takeTrap (.lds sz rd ra off) ⟨0x04, BitVec.ofNat 52 va, 0, 0, none⟩ s)) ∧
    (Readable (.sts sz rd ra off) s → va < 2 ^ 52 → va % sizeBytes sz ≠ 0 → (curGang s).nstore < 63 →
      exec (.sts sz rd ra off) s = .next (takeTrap (.sts sz rd ra off) ⟨0x04, BitVec.ofNat 52 va, 0, 0, none⟩ s)) ∧
    (Readable (.amo op dbl rd ra rb) s → wa < 2 ^ 52 → wa % rmwBytes dbl ≠ 0 →
      exec (.amo op dbl rd ra rb) s = .next (takeTrap (.amo op dbl rd ra rb) ⟨0x04, BitVec.ofNat 52 wa, 0, 0, none⟩ s)) ∧
    (Readable (.cas dbl rd ra rb rc) s → wa < 2 ^ 52 → wa % rmwBytes dbl ≠ 0 →
      exec (.cas dbl rd ra rb rc) s = .next (takeTrap (.cas dbl rd ra rb rc) ⟨0x04, BitVec.ofNat 52 wa, 0, 0, none⟩ s))

/-! The X slot. -/

/-- Index arithmetic lands in every active engine 2 gang cycles after issue (05 R140). -/
def Obligations.IndexArithmeticResults : Prop :=
  ∀ (s : State) (xd : XDst) (imm : BitVec 32) (a b c : XSrc) (o : XB) (r : SReg) (st : Stride),
    (Readable (.xli xd imm) s → exec (.xli xd imm) s = .next (xWrite xd (fun _ => imm) s)) ∧
    (Readable (.xmov xd (.x a)) s → exec (.xmov xd (.x a)) s = .next (xWrite xd (fun e => xa s e a) s)) ∧
    (Readable (.xmov xd (.s r)) s → exec (.xmov xd (.s r)) s = .next (xWrite xd (fun _ => (sv s r).setWidth 32) s)) ∧
    (Readable (.xadd xd a o) s → exec (.xadd xd a o) s = .next (xWrite xd (fun e => xa s e a + xbVal (curGang s) e true o) s)) ∧
    (Readable (.xsub xd a o) s → exec (.xsub xd a o) s = .next (xWrite xd (fun e => xa s e a - xbVal (curGang s) e true o) s)) ∧
    (Readable (.xmul xd a o) s → exec (.xmul xd a o) s = .next (xWrite xd (fun e => xa s e a * xbVal (curGang s) e true o) s)) ∧
    (Readable (.xand xd a o) s → exec (.xand xd a o) s = .next (xWrite xd (fun e => xa s e a &&& xbVal (curGang s) e false o) s)) ∧
    (Readable (.xxor xd a o) s → exec (.xxor xd a o) s = .next (xWrite xd (fun e => xa s e a ^^^ xbVal (curGang s) e false o) s)) ∧
    (Readable (.xshl xd a o) s →
      exec (.xshl xd a o) s = .next (xWrite xd (fun e => xa s e a <<< ((xbVal (curGang s) e false o).toNat % 32)) s)) ∧
    (Readable (.xshr xd a o) s →
      exec (.xshr xd a o) s = .next (xWrite xd (fun e => xa s e a >>> ((xbVal (curGang s) e false o).toNat % 32)) s)) ∧
    (Readable (.xpopc xd a) s →
      exec (.xpopc xd a) s = .next (xWrite xd (fun e => BitVec.ofNat 32 (popCount (xa s e a).toNat 32)) s)) ∧
    (Readable (.xpfx xd a b) s →
      exec (.xpfx xd a b) s = .next (xWrite xd (fun e =>
        BitVec.ofNat 32 (popCount (xa s e a).toNat (min ((xa s e b).toNat % 64) 32))) s)) ∧
    (Readable (.xsel xd a b c) s →
      exec (.xsel xd a b c) s = .next (xWrite xd (fun e => if xa s e c = 0 then xa s e b else xa s e a) s)) ∧
    (Readable (.xadv st xd a o) s →
      exec (.xadv st xd a o) s = .next (xWrite xd (fun e =>
        xa s e a + BitVec.ofNat 32 (strideBytes st) * xbVal (curGang s) e false o) s))

/-- XLDC, XHASH and XCMPA: words inside the window, aligned and unpoisoned, are read and the form completes; XHASH with N of the
field, or with that of the engine's keyed table; outside the window XLDC raises 0x03 (05 R141, R142). -/
def Obligations.IndexScratchpadResults : Prop :=
  ∀ (s : State) (xd : XDst) (a : XSrc) (lg : BitVec 4) (ra rb : XReg) (ca cb : Bool) (sa sb : Stride),
    let word (e : Nat) (x : Word) : Word := spWord s e x.toNat
    let code (e : Nat) : Nat := mergeCode (coordOf ca (word e (xv s e ra))) (coordOf cb (word e (xv s e rb)))
    let moved (c : Nat) (r : XReg) (st : Stride) : Wr :=
      .x r.toNat (((actives s).filter (fun e => code e == c)).map (fun e => (e, xv s e r + BitVec.ofNat 32 (strideBytes st))))
    let both := inFlight (inFlight s 2 (moved 1 ra sa)) 2 (moved 2 rb sb)
    (Readable (.xldc .w0 xd a) s → (∀ e, e ∈ actives s → WordReadable s e (xa s e a)) →
      exec (.xldc .w0 xd a) s = .next (xWrite xd (fun e => word e (xa s e a)) s)) ∧
    (Readable (.xldc .w1 xd a) s → (∀ e, e ∈ actives s → WordReadable s e (xa s e a + 4)) →
      exec (.xldc .w1 xd a) s = .next (xWrite xd (fun e => word e (xa s e a + 4)) s)) ∧
    (Readable (.xldc .col xd a) s → (∀ e, e ∈ actives s → WordReadable s e (xa s e a)) →
      exec (.xldc .col xd a) s = .next (xWrite xd (fun e => BitVec.ofNat 32 ((word e (xa s e a)).toNat % 2 ^ 16)) s)) ∧
    (Readable (.xldc .row xd a) s → (∀ e, e ∈ actives s → WordReadable s e (xa s e a)) →
      exec (.xldc .row xd a) s = .next (xWrite xd (fun e => BitVec.ofNat 32 ((word e (xa s e a)).toNat / 2 ^ 16)) s)) ∧
    (Readable (.xhash lg xd a) s → lg ≠ 0 →
      exec (.xhash lg xd a) s = .next (xWrite xd (fun e => BitVec.ofNat 32 (hashKey (xa s e a) (2 ^ lg.toNat))) s)) ∧
    (Readable (.xhash 0 xd a) s → (∀ e, e ∈ actives s → cfgN (curWin s).acc (cfgWord (curGang s) e).1 ≠ 0) →
      exec (.xhash 0 xd a) s = .next (xWrite xd (fun e =>
        BitVec.ofNat 32 (hashKey (xa s e a) (cfgN (curWin s).acc (cfgWord (curGang s) e).1))) s)) ∧
    (Readable (.xcmpa ca cb sa sb ra rb .zero) s →
      (∀ e, e ∈ actives s → WordReadable s e (xv s e ra) ∧ WordReadable s e (xv s e rb)) →
      exec (.xcmpa ca cb sa sb ra rb .zero) s = .next both) ∧
    (∀ r, Readable (.xcmpa ca cb sa sb ra rb (.reg r)) s →
      (∀ e, e ∈ actives s → WordReadable s e (xv s e ra) ∧ WordReadable s e (xv s e rb)) →
      exec (.xcmpa ca cb sa sb ra rb (.reg r)) s
        = .next (inFlight both 2 (.x r.toNat ((actives s).map (fun e => (e, BitVec.ofNat 32 (code e))))))) ∧
    (∀ e, e ∈ actives s → Readable (.xldc .w0 xd a) s → s.cur.go = false →
      (curWin s).len < (xa s e a).toNat + 4 → ∃ x, exec (.xldc .w0 xd a) s = .next (takeTrap (.xldc .w0 xd a) x s) ∧ x.cause = 0x03)

/-! The V slots. -/

/-- Floating-point lanes, comparisons and the special functions; no operand value stops one (05 R122–R124, 04 R114). -/
def Obligations.VectorFloatResults : Prop :=
  ∀ (s : State) (d : VDst) (pd : PReg) (a b c : VSrc) (tab sat : Bool) (rnd : Rnd) (p : PReg) (fc : FCond), TabIsF32 tab s →
    (Readable (.vaddf d a b tab rnd sat p) s → exec (.vaddf d a b tab rnd sat p) s
      = .next (vWrite 4 d p (fun e i => fpAdd rnd sat (vl s e a i) (vl s e b i)) s)) ∧
    (Readable (.vsubf d a b tab rnd sat p) s → exec (.vsubf d a b tab rnd sat p) s
      = .next (vWrite 4 d p (fun e i => fpSub rnd sat (vl s e a i) (vl s e b i)) s)) ∧
    (Readable (.vmulf d a b tab rnd sat p) s → exec (.vmulf d a b tab rnd sat p) s
      = .next (vWrite 4 d p (fun e i => fpMul rnd sat (vl s e a i) (vl s e b i)) s)) ∧
    (Readable (.vfmaf d a b c tab rnd sat p) s → exec (.vfmaf d a b c tab rnd sat p) s
      = .next (vWrite 4 d p (fun e i => fpFma rnd sat (vl s e a i) (vl s e b i) (vl s e c i)) s)) ∧
    (Readable (.vminf d a b tab p) s → exec (.vminf d a b tab p) s
      = .next (vWrite 4 d p (fun e i => fpMinMax false (vl s e a i) (vl s e b i)) s)) ∧
    (Readable (.vmaxf d a b tab p) s → exec (.vmaxf d a b tab p) s
      = .next (vWrite 4 d p (fun e i => fpMinMax true (vl s e a i) (vl s e b i)) s)) ∧
    (Readable (.vcmpf fc pd a b tab p) s → exec (.vcmpf fc pd a b tab p) s
      = .next (pWrite 4 pd p (fun e => laneBits (fun i => fcondHolds fc (vl s e a i) (vl s e b i))) s)) ∧
    (Readable (.vrcp d a tab p) s → exec (.vrcp d a tab p) s = .next (vWrite 10 d p (fun e i => fnRcp (vl s e a i)) s)) ∧
    (Readable (.vrsq d a tab p) s → exec (.vrsq d a tab p) s = .next (vWrite 10 d p (fun e i => fnRsq (vl s e a i)) s)) ∧
    (Readable (.vex2 d a tab p) s → exec (.vex2 d a tab p) s = .next (vWrite 10 d p (fun e i => fnEx2 (vl s e a i)) s)) ∧
    (Readable (.vlg2 d a tab p) s → exec (.vlg2 d a tab p) s = .next (vWrite 10 d p (fun e i => fnLg2 (vl s e a i)) s)) ∧
    (Readable (.vtanh d a tab p) s → exec (.vtanh d a tab p) s = .next (vWrite 10 d p (fun e i => fnTanh (vl s e a i)) s))

/-- Corners and exact values of the lanes: VMINF and VMAXF give the smaller and the larger operand, the canonical NaN, and order −0
below +0 (05 R123); integer results
are clamped with sat and wrap without it, VMULHI and the product hold the exact value (05 R125); round32 rounds an exact value
once, in each direction and with its overflow, and VADDF, VSUBF, VMULF and VFMAF give the exact sum or product so rounded, with
IEEE's NaNs and zeros (04 R98, R99; 05 R122); the special functions lie within their bounds of the exact value and give their exact
cases (05 R124). Which value within the bound it is stays free (log entry 8), as does a reciprocal beyond the format (log entry
83). -/
def Obligations.LaneCorners : Prop :=
  let val (v : FVal) : ℝ := match v with
    | .fin s m e => (if s then -1 else 1) * (m : ℝ) * (2 : ℝ) ^ e
    | _ => 0
  let x (w : Word) : ℝ := val (f32v w)
  let isF (w : Word) : Prop := isFin32 w = true
  let big : ℝ := (2 ^ 24 - 1) * 2 ^ 104
  let ulp (y : ℝ) : ℝ := (2 : ℝ) ^ (max (Int.log 2 |y|) (-126) - 23)
  (∀ (l : Bool) (a b : Word),
    ((f32v a).isNan = true → fpMinMax l a b = 0x7FC00000 ∧ fpMinMax l b a = 0x7FC00000) ∧
    fpMinMax false 0x80000000 0 = 0x80000000 ∧ fpMinMax false 0 0x80000000 = 0x80000000 ∧
    fpMinMax true 0x80000000 0 = 0 ∧ fpMinMax true 0 0x80000000 = 0 ∧
    (fpMinMax l a b = a ∨ fpMinMax l a b = b ∨ fpMinMax l a b = 0x7FC00000) ∧
    (isF a → isF b → x a < x b → fpMinMax false a b = a ∧ fpMinMax false b a = a ∧ fpMinMax true a b = b ∧ fpMinMax true b a = b) ∧
    ((f32v a).isNan = false →
      (a ≠ 0x7F800000 → fpMinMax false a 0x7F800000 = a ∧ fpMinMax false 0x7F800000 a = a) ∧
      fpMinMax true a 0x7F800000 = 0x7F800000 ∧ fpMinMax true 0x7F800000 a = 0x7F800000 ∧
      fpMinMax false a 0xFF800000 = 0xFF800000 ∧ fpMinMax false 0xFF800000 a = 0xFF800000 ∧
      (a ≠ 0xFF800000 → fpMinMax true a 0xFF800000 = a ∧ fpMinMax true 0xFF800000 a = a))) ∧
  (∀ n : Int,
    ((intFinish true n).toInt = max (-2147483648) (min 2147483647 n)) ∧
    (intFinish false n).toInt = n.bmod (2 ^ 32) ∧
    (∀ a b : Word, (mulHigh32 true a b).toNat * 2 ^ 32 + (a * b).toNat = a.toNat * b.toNat ∧
      (mulHigh32 false a b).toInt * 2 ^ 32 + (a * b).toNat = a.toInt * b.toInt)) ∧
  (∀ (rnd : Rnd) (n : Bool) (m : Nat) (e : Int),
    let v := val (.fin n m e)
    let r := round32 rnd (.fin n m e)
    r.getLsbD 31 = n ∧ (f32v r).isNan = false ∧
    ((f32v r).isInf = true ↔ match rnd with
      | .rne => big + 2 ^ 103 ≤ |v|
      | .rtz => False
      | .rdn => v < -big
      | .rup => big < v) ∧
    (isF r → match rnd with
      | .rne => ∀ w, isF w → |v - x r| ≤ |v - x w| ∧ (|v - x r| = |v - x w| → x w ≠ x r → r.getLsbD 0 = false)
      | .rtz => |x r| ≤ |v| ∧ ∀ w, isF w → |x w| ≤ |v| → |x w| ≤ |x r|
      | .rdn => x r ≤ v ∧ ∀ w, isF w → x w ≤ v → x w ≤ x r
      | .rup => v ≤ x r ∧ ∀ w, isF w → v ≤ x w → x r ≤ x w)) ∧
  (∀ (rnd : Rnd) (a b c : Word), isF a → isF b → isF c →
    let rounds (f : Bool → Word) (y : ℝ) : Prop :=
      (∃ n m e, val (.fin n m e) = y ∧ f false = round32 rnd (.fin n m e)) ∧
      f true = (if (f32v (f false)).isInf then (if (f false).getLsbD 31 then 0xFF7FFFFF else 0x7F7FFFFF) else f false)
    rounds (fun sat => fpAdd rnd sat a b) (x a + x b) ∧ rounds (fun sat => fpSub rnd sat a b) (x a - x b) ∧
    rounds (fun sat => fpMul rnd sat a b) (x a * x b) ∧ rounds (fun sat => fpFma rnd sat a b c) (x a * x b + x c) ∧
    (x a + x b = 0 → a.getLsbD 31 ≠ b.getLsbD 31 → fpAdd rnd false a b = if rnd = .rdn then 0x80000000 else 0)) ∧
  (∀ (rnd : Rnd) (sat : Bool) (a b c : Word),
    ((f32v a).isNan = true ∨ (f32v b).isNan = true → fpAdd rnd sat a b = 0x7FC00000 ∧ fpSub rnd sat a b = 0x7FC00000 ∧
      fpMul rnd sat a b = 0x7FC00000 ∧ fpFma rnd sat a b c = 0x7FC00000) ∧
    ((f32v c).isNan = true → fpFma rnd sat a b c = 0x7FC00000) ∧
    ((f32v a).isInf = true → (f32v b).isInf = true →
      (a ≠ b → fpAdd rnd sat a b = 0x7FC00000) ∧ (a = b → fpSub rnd sat a b = 0x7FC00000)) ∧
    ((f32v a).isInf = true → (f32v b).isZero = true → fpMul rnd sat a b = 0x7FC00000 ∧ fpFma rnd sat a b c = 0x7FC00000)) ∧
  (∀ a : Word,
    ((f32v a).isNan = true → fnRcp a = 0x7FC00000 ∧ fnRsq a = 0x7FC00000 ∧ fnEx2 a = 0x7FC00000 ∧ fnLg2 a = 0x7FC00000 ∧
      fnTanh a = 0x7FC00000) ∧
    fnRcp 0 = 0x7F800000 ∧ fnRcp 0x80000000 = 0xFF800000 ∧ fnRcp 0x7F800000 = 0 ∧ fnRcp 0xFF800000 = 0x80000000 ∧
    fnRsq 0 = 0x7F800000 ∧ fnRsq 0x80000000 = 0xFF800000 ∧ fnRsq 0x7F800000 = 0 ∧
    fnEx2 0xFF800000 = 0 ∧ fnEx2 0x7F800000 = 0x7F800000 ∧
    fnLg2 0 = 0xFF800000 ∧ fnLg2 0x80000000 = 0xFF800000 ∧ fnLg2 0x7F800000 = 0x7F800000 ∧
    fnTanh 0 = 0 ∧ fnTanh 0x80000000 = 0x80000000 ∧ fnTanh 0x7F800000 = 0x3F800000 ∧ fnTanh 0xFF800000 = 0xBF800000 ∧
    ((f32v a).isNan = false → fnTanh (a ^^^ 0x80000000) = fnTanh a ^^^ 0x80000000) ∧
    (isF a → x a < 0 → fnRsq a = 0x7FC00000 ∧ fnLg2 a = 0x7FC00000) ∧
    (isF a → x a ≠ 0 → isF (fnRcp a) → |x (fnRcp a) - 1 / x a| ≤ ulp (1 / x a)) ∧
    (∀ k : Int, isF a → |x a| = (2 : ℝ) ^ k → -127 ≤ k → k ≤ 127 → isF (fnRcp a) ∧ x (fnRcp a) = 1 / x a) ∧
    (isF a → 0 < x a → isF (fnRsq a) ∧ |x (fnRsq a) - 1 / √(x a)| ≤ 2 * ulp (1 / √(x a))) ∧
    (∀ k : Int, isF a → x a = (2 : ℝ) ^ (2 * k) → x (fnRsq a) = (2 : ℝ) ^ (-k)) ∧
    (isF a → 128 ≤ x a → fnEx2 a = 0x7F800000) ∧ (isF a → x a ≤ -150 → fnEx2 a = 0) ∧
    (isF a → isF (fnEx2 a) → |x (fnEx2 a) - (2 : ℝ) ^ x a| ≤ 2 * ulp ((2 : ℝ) ^ x a)) ∧
    (∀ k : Int, isF a → x a = k → -149 ≤ k → k ≤ 127 → x (fnEx2 a) = (2 : ℝ) ^ k) ∧
    (isF a → 0 < x a → isF (fnLg2 a) ∧
      (1 / 2 ≤ x a ∧ x a ≤ 2 → |x (fnLg2 a) - Real.logb 2 (x a)| ≤ 2 ^ (-22 : Int)) ∧
      (x a < 1 / 2 ∨ 2 < x a → |x (fnLg2 a) - Real.logb 2 (x a)| ≤ 2 * ulp (Real.logb 2 (x a)))) ∧
    (∀ k : Int, isF a → x a = (2 : ℝ) ^ k → x (fnLg2 a) = k) ∧
    (isF a → isF (fnTanh a) ∧ |x (fnTanh a)| ≤ 1 ∧ |x (fnTanh a) - Real.tanh (x a)| ≤ 2 * ulp (Real.tanh (x a))))

/-- Integer lanes (05 R125). -/
def Obligations.VectorIntegerResults : Prop :=
  ∀ (s : State) (d : VDst) (pd : PReg) (a b : VSrc) (sat u : Bool) (p pc : PReg) (ic : ICond) (imm : BitVec 32) (r : SReg)
    (n : BitVec 4),
    (Readable (.vaddi d a b sat p) s → exec (.vaddi d a b sat p) s
      = .next (vWrite 2 d p (fun e i => intFinish sat ((vl s e a i).toInt + (vl s e b i).toInt)) s)) ∧
    (Readable (.vsubi d a b sat p) s → exec (.vsubi d a b sat p) s
      = .next (vWrite 2 d p (fun e i => intFinish sat ((vl s e a i).toInt - (vl s e b i).toInt)) s)) ∧
    (Readable (.vmuli d a b sat p) s → exec (.vmuli d a b sat p) s
      = .next (vWrite 2 d p (fun e i => intFinish sat ((vl s e a i).toInt * (vl s e b i).toInt)) s)) ∧
    (Readable (.vmulhi u d a b p) s → exec (.vmulhi u d a b p) s
      = .next (vWrite 2 d p (fun e i => mulHigh32 u (vl s e a i) (vl s e b i)) s)) ∧
    (Readable (.vand d a b p) s → exec (.vand d a b p) s = .next (vWrite 2 d p (fun e i => vl s e a i &&& vl s e b i) s)) ∧
    (Readable (.vor d a b p) s → exec (.vor d a b p) s = .next (vWrite 2 d p (fun e i => vl s e a i ||| vl s e b i) s)) ∧
    (Readable (.vxor d a b p) s → exec (.vxor d a b p) s = .next (vWrite 2 d p (fun e i => vl s e a i ^^^ vl s e b i) s)) ∧
    (Readable (.vshl d a b p) s → exec (.vshl d a b p) s
      = .next (vWrite 2 d p (fun e i => vl s e a i <<< ((vl s e b i).toNat % 32)) s)) ∧
    (Readable (.vshr d a b p) s → exec (.vshr d a b p) s
      = .next (vWrite 2 d p (fun e i => vl s e a i >>> ((vl s e b i).toNat % 32)) s)) ∧
    (Readable (.vsar d a b p) s → exec (.vsar d a b p) s
      = .next (vWrite 2 d p (fun e i => (vl s e a i).sshiftRight ((vl s e b i).toNat % 32)) s)) ∧
    (Readable (.vmini u d a b p) s → exec (.vmini u d a b p) s
      = .next (vWrite 2 d p (fun e i => minMax32 u false (vl s e a i) (vl s e b i)) s)) ∧
    (Readable (.vmaxi u d a b p) s → exec (.vmaxi u d a b p) s
      = .next (vWrite 2 d p (fun e i => minMax32 u true (vl s e a i) (vl s e b i)) s)) ∧
    (Readable (.vcmpi ic pd a b p) s → exec (.vcmpi ic pd a b p) s
      = .next (pWrite 2 pd p (fun e => laneBits (fun i => icondHolds ic (vl s e a i) (vl s e b i))) s)) ∧
    (Readable (.vmov d a p) s → exec (.vmov d a p) s = .next (vWrite 2 d p (fun e i => vl s e a i) s)) ∧
    (Readable (.vli d imm) s → exec (.vli d imm) s = .next (vWrite 2 d 0 (fun _ _ => imm) s)) ∧
    (Readable (.vbcs d r p) s → exec (.vbcs d r p) s = .next (vWrite 2 d p (fun _ _ => (sv s r).setWidth 32) s)) ∧
    (Readable (.vsel d a b pc p) s → exec (.vsel d a b pc p) s
      = .next (vWrite 2 d p (fun e i => if (pm s e pc).getLsbD i then vl s e a i else vl s e b i) s)) ∧
    (Readable (.vrot d a n p) s → exec (.vrot d a n p) s
      = .next (vWrite 2 d p (fun e i => vl s e a ((i + n.toNat) % 16)) s))

/-- Predicates, engine predication, conversions and reductions (05 R126–R129, R132, R133; 04 R115). What a conversion gives in each
format: the value that its direction names among the format's, with its overflows, infinities and NaNs (04 R98–R102). One point is the
model's choice: a value that VRED combines with the identity of a lane that is off is finished as any result of the step (log entry 82, DEDUCED). -/
def Obligations.VectorPredicateAndConvertResults : Prop :=
  (∀ (s : State) (d : VDst) (pd pa pb p : PReg) (a b : VSrc) (op : PlogOp) (fd fs : Fmt) (rnd : Rnd) (sat : Bool) (ro : RedOp),
    (Readable (.plog pd (.bin op pa pb) p) s → exec (.plog pd (.bin op pa pb) p) s
      = .next (pWrite 2 pd p (fun e => plogHolds op (pm s e pa) (pm s e pb)) s)) ∧
    (Readable (.plog pd (.not pa) p) s → exec (.plog pd (.not pa) p) s = .next (pWrite 2 pd p (fun e => ~~~(pm s e pa)) s)) ∧
    (Readable (.plog pd (.mov pa) p) s → exec (.plog pd (.mov pa) p) s = .next (pWrite 2 pd p (fun e => pm s e pa) s)) ∧
    (Readable (.plog pd (.fromv a) p) s → exec (.plog pd (.fromv a) p) s
      = .next (pWrite 2 pd p (fun e => laneBits (fun i => vl s e a i != 0)) s)) ∧
    (Readable (.epset .all) s → exec (.epset .all) s = .next (inFlight s 2 (.ep ((pathEngines s).map (fun e => (e, (getEng (curGang s) e).rows != 0)))))) ∧
    (Readable (.epset (.set a)) s → exec (.epset (.set a)) s
      = .next (inFlight s 2 (.ep ((pathEngines s).map (fun e => (e, (getEng (curGang s) e).rows != 0 && vl s e a 0 != 0)))))) ∧
    (Readable (.epset (.and a)) s → exec (.epset (.and a)) s
      = .next (inFlight s 2 (.ep ((pathEngines s).map (fun e =>
        (e, (getEng (curGang s) e).rows != 0 && ((getEng (curGang s) e).ep && vl s e a 0 != 0))))))) ∧
    (Readable (.vcvt fd fs d a rnd sat p) s → fmtCheck s fd Fmt.cvtDstOk = .ok → exec (.vcvt fd fs d a rnd sat p) s
      = .next (vWrite 3 d p (fun e i =>
          let x := (vl s e a i).toNat
          BitVec.ofNat 32 (if fs = selFmt s e fd ∧ (fmtVal fs x).isNan = false then x % 2 ^ fs.width
            else convert (selFmt s e fd) rnd sat (fmtVal fs x))) s)) ∧
    (Readable (.vqnt fd d a b rnd sat p) s → fmtCheck s fd Fmt.qntOk = .ok → exec (.vqnt fd d a b rnd sat p) s
      = .next (vWrite 3 d p (fun e i =>
          BitVec.ofNat 32 (convert (selFmt s e fd) rnd sat ((f32v (vl s e a i)).mul (f32v (vl s e b i))))) s)) ∧
    (Readable (.vdqn fs d a b rnd sat p) s → fmtCheck s fs Fmt.cvtDstOk = .ok → exec (.vdqn fs d a b rnd sat p) s
      = .next (vWrite 3 d p (fun e i =>
          BitVec.ofNat 32 (convert .f32 rnd sat ((fmtVal (selFmt s e fs) (vl s e a i).toNat).mul (f32v (vl s e b i))))) s)) ∧
    (Readable (.vred ro d a rnd sat p) s → exec (.vred ro d a rnd sat p) s
      = .next (vWrite 4 d p (fun e _ => redTree ro rnd sat
          ((List.range 16).map (fun i => if (pm s e p).getLsbD i then some (vl s e a i) else none))) s))) ∧
  (let val (v : FVal) : ℝ := match v with
     | .fin s m e => (if s then -1 else 1) * (m : ℝ) * (2 : ℝ) ^ e
     | _ => 0
   let y (f : Fmt) (r : Nat) : ℝ := val (fmtVal f r)
   let finite (f : Fmt) (r : Nat) : Prop := (fmtVal f r).isNan = false ∧ (fmtVal f r).isInf = false
   (∀ (f : Fmt) (width : Nat) (big half : ℝ) (top inf nan : Nat) (rnd : Rnd) (sat : Bool) (n : Bool) (m : Nat) (e : Int),
     (f, width, big, half, top, inf, nan) ∈ ([
       (.f32, 32, (2 ^ 24 - 1) * 2 ^ 104, 2 ^ 103, 0x7F7FFFFF, 0x7F800000, 0x7FC00000),
       (.bf16, 16, (2 ^ 8 - 1) * 2 ^ 120, 2 ^ 119, 0x7F7F, 0x7F80, 0x7FC0), (.f16, 16, 65504, 16, 0x7BFF, 0x7C00, 0x7E00),
       (.e5m2, 8, 57344, 4096, 0x7B, 0x7C, 0x7E), (.e4m3, 8, 448, 16, 0x7E, 0x7F, 0x7F)] : List (Fmt × Nat × ℝ × ℝ × Nat × Nat × Nat)) →
     let v := val (.fin n m e)
     let r := convert f rnd sat (.fin n m e)
     let sign (neg : Bool) : Nat := if neg then 2 ^ (width - 1) else 0
     let overflows : Prop := match rnd with
       | .rne => big + half < |v| ∨ (f ≠ .e4m3 ∧ |v| = big + half)
       | .rtz => False
       | .rdn => v < -big
       | .rup => big < v
     (overflows → r = if sat then top + sign n else if f = .e4m3 then nan else inf + sign n) ∧
     (¬ overflows → r < 2 ^ width ∧ finite f r ∧ r.testBit (width - 1) = n ∧ match rnd with
       | .rne => ∀ w, w < 2 ^ width → finite f w →
           |v - y f r| ≤ |v - y f w| ∧ (|v - y f r| = |v - y f w| → y f w ≠ y f r → r % 2 = 0)
       | .rtz => |y f r| ≤ |v| ∧ ∀ w, w < 2 ^ width → finite f w → |y f w| ≤ |v| → |y f w| ≤ |y f r|
       | .rdn => y f r ≤ v ∧ ∀ w, w < 2 ^ width → finite f w → y f w ≤ v → y f w ≤ y f r
       | .rup => v ≤ y f r ∧ ∀ w, w < 2 ^ width → finite f w → v ≤ y f w → y f r ≤ y f w) ∧
     convert f rnd sat .nan = nan ∧
     convert f rnd sat (.inf n) = if sat then top + sign n else if f = .e4m3 then nan else inf + sign n) ∧
   (∀ (f : Fmt) (w : Nat) (rnd : Rnd) (sat : Bool) (n : Bool) (m : Nat) (e : Int), (f, w) ∈ [(Fmt.i8, 8), (Fmt.i32, 32)] →
     let v := val (.fin n m e)
     let lo : Int := -2 ^ (w - 1)
     let hi : Int := 2 ^ (w - 1) - 1
     let signed (x : FVal) : Int := (BitVec.ofNat w (convert f rnd sat x)).toInt
     (∃ k : Int, signed (.fin n m e) = (if sat then max lo (min hi k) else k.bmod (2 ^ w)) ∧ match rnd with
       | .rne => |v - k| ≤ 1 / 2 ∧ (|v - k| = 1 / 2 → Even k)
       | .rtz => |(k : ℝ)| ≤ |v| ∧ |v - k| < 1
       | .rdn => k = ⌊v⌋
       | .rup => k = ⌈v⌉) ∧
     signed .nan = 0 ∧ signed (.inf false) = hi ∧ signed (.inf true) = lo) ∧
   (∀ (rnd : Rnd) (sat : Bool) (n : Bool) (m : Nat) (e : Int),
     let v := val (.fin n m e)
     let r := convert .h4 rnd sat (.fin n m e)
     let h := y .h4
     r < 16 ∧ (match rnd with
       | .rne => (∀ w, w < 16 → |v - h r| ≤ |v - h w| ∧ (|v - h r| = |v - h w| → w ≠ r → v ≠ 0 → ∃ j : Nat, |h r| = 2 * j + 1 / 2)) ∧
           (v = 0 → h r = if n then -1 / 2 else 1 / 2)
       | .rtz => (h r < 0 ↔ n = true) ∧ (|v| < 1 / 2 → |h r| = 1 / 2) ∧
           (1 / 2 ≤ |v| → |h r| ≤ |v| ∧ ∀ w, w < 16 → |h w| ≤ |v| → |h w| ≤ |h r|)
       | .rdn => (v < -15 / 2 → h r = -15 / 2) ∧ (-15 / 2 ≤ v → h r ≤ v ∧ ∀ w, w < 16 → h w ≤ v → h w ≤ h r)
       | .rup => (15 / 2 < v → h r = 15 / 2) ∧ (v ≤ 15 / 2 → v ≤ h r ∧ ∀ w, w < 16 → v ≤ h w → h r ≤ h w)) ∧
     convert .h4 rnd sat .nan = 0 ∧ h (convert .h4 rnd sat (.inf false)) = 15 / 2 ∧ h (convert .h4 rnd sat (.inf true)) = -15 / 2) ∧
   (∀ (rnd : Rnd) (sat : Bool) (n : Bool) (m : Nat) (e : Int),
     let v := |val (.fin n m e)|
     (∀ q : Int, (2 : ℝ) ^ q ≤ v → v < (2 : ℝ) ^ (q + 1) →
       let up : Prop := match rnd with
         | .rne => 3 / 2 * (2 : ℝ) ^ q ≤ v
         | .rup => v ≠ (2 : ℝ) ^ q
         | _ => False
       (up → convert .e8m0 rnd sat (.fin n m e) = (max 0 (min 254 (q + 128))).toNat) ∧
       (¬ up → convert .e8m0 rnd sat (.fin n m e) = (max 0 (min 254 (q + 127))).toNat)) ∧
     (v = 0 → convert .e8m0 rnd sat (.fin n m e) = 0) ∧ convert .e8m0 rnd sat (.inf n) = 255 ∧ convert .e8m0 rnd sat .nan = 255))

/-- Lane movement through the pattern table and tile access (05 R130, R131, R134, R135). -/
def Obligations.VectorTileResults : Prop :=
  ∀ (s : State) (d : VDst) (a b : VSrc) (x : XSrc) (n : BitVec 5) (p : PReg) (f : Fmt) (t : Tile) (dir : Dir) (idx : BitVec 4)
    (g : BitVec 3),
    (Readable (.vperm d a b n p) s → exec (.vperm d a b n p) s
      = .next (vWrite 3 d p (fun e i =>
          let y := patByte (getEng (curGang s) e) (getEng (curGang s) e).patBank (16 * n.toNat + i)
          if 128 ≤ y then 0 else if y % 32 < 16 then vl s e a (y % 32) else vl s e b (y % 32 - 16)) s)) ∧
    (Readable (.vpld x) s → (∀ e, e ∈ actives s → patPending s e = false ∧ spReadFail s e (xa s e x).toNat 512 16 = none) →
      exec (.vpld x) s = .next (inFlight s 8 (.patLoad ((actives s).map (fun e =>
        (e, BitVec.allOnes 4096, BitVec.ofNat 4096 (leNat (spadBytes (curHw s e) (curWin s) (xa s e x).toNat 512)))))))) ∧
    (Readable .vpldSwap s → (∀ e, e ∈ actives s → patPending s e = false) →
      exec .vpldSwap s = .next (inFlight s 2 (.patSwap (actives s)))) ∧
    (Readable (.vtrd f d t dir idx g p) s → tileCheck s f t dir idx.toNat g true = .ok → exec (.vtrd f d t dir idx g p) s
      = .next (vWrite 3 d p (fun e i => tileElem (curGang s) (curWin s) e t dir idx.toNat (tileW s e f) g.toNat i) s)) ∧
    (Readable (.vtwr f t a dir idx g p) s → tileCheck s f t dir idx.toNat g false = .ok → exec (.vtwr f t a dir idx g p) s
      = .next (inFlight s 3 (.group t dir idx.toNat
          ((actives s).map (fun e => (e, tileW s e f, g.toNat, pm s e p, vVal (curGang s) e a))))))

/-- The cross-engine forms: with the gang's network free they complete, from the values read at issue; GPSH sends to a lane of an
active engine the value of the highest-numbered engine that names it, and leaves a lane that no engine names (05 R136–R138; 04 R115).
What a value becomes beside an identity in GRED and GSCAN is the model's choice (log entry 82, DEDUCED). -/
def Obligations.CrossEngineResults : Prop :=
  ∀ (s : State) (d : VDst) (r : BitVec 5) (a b : VSrc) (fill : Fill) (n : BitVec 4) (op : RedOp) (rnd : Rnd) (sat ex : Bool) (p : PReg),
    (curGang s).netAt ≠ (curGang s).gc + 1 →
    (Readable (.gshf d a b fill p) s → exec (.gshf d a b fill p) s
      = .next (vWrite 8 d p (fun e i => if isActive s ((vl s e b i).toNat % 16) then vl s ((vl s e b i).toNat % 16) a i
          else fillVal s fill) (useNet s))) ∧
    (Readable (.gbcst d a n fill p) s → exec (.gbcst d a n fill p) s
      = .next (vWrite 8 d p (fun _ i => if isActive s n.toNat then vl s n.toNat a i else fillVal s fill) (useNet s))) ∧
    (Readable (.gred op d a rnd sat p) s → exec (.gred op d a rnd sat p) s
      = .next (vWrite 12 d p (fun _ i => redTree op rnd sat ((List.range 16).map (fun e => redIn s a p e i))) (useNet s))) ∧
    (Readable (.gscan op ex d a rnd sat p) s → exec (.gscan op ex d a rnd sat p) s
      = .next (vWrite 14 d p (fun e i => scanTo op rnd sat
          ((List.range (if ex then e else e + 1)).map (fun n => redIn s a p n i))) (useNet s))) ∧
    (Readable (.gpsh .zero a b p) s → exec (.gpsh .zero a b p) s = .next (useNet s)) ∧
    (let sends (d i e : Nat) : Prop := e ∈ actives s ∧ (vl s e b i).toNat % 16 = d ∧ (pm s e p).getLsbD i = true
     Readable (.gpsh (.reg r) a b p) s → ∃ es, exec (.gpsh (.reg r) a b p) s = .next (inFlight (useNet s) 8 (.v r.toNat es)) ∧
      es.map (·.1) = actives s ∧
      ∀ d m x, (d, m, x) ∈ es → ∀ i, i < 16 → (m.getLsbD i = true ↔ ∃ e, sends d i e) ∧
        ∀ e, sends d i e → (∀ n, sends d i n → n ≤ e) → lane x i = vl s e a i)

/-! The T slot. -/

/-- Every T instruction issues when its checks pass: its class's counter rises by 1, and one operation stands in the queue of
each active engine (06 R143–R145, R149–R173). -/
def Obligations.TensorIssue : Prop :=
  ∀ (s : State) (fa fb f : Fmt) (c : CReg) (a b m : MReg) (x xa xb xo xd xe : XReg) (g : Fin 17) (rb : BitVec 2) (t td ta : Tile)
    (dir : Dir) (rot e : BitVec 4) (lay : Layout) (sel : ArdSel) (wsel : AwrSel),
    (TReady (.mma fa fb c a b rb) s → exec (.mma fa fb c a b rb) s = .next (tIssue (.mma fa fb c a b rb) s)) ∧
    (TReady (.mmag fa fb c a x g rb) s → exec (.mmag fa fb c a x g rb) s = .next (tIssue (.mmag fa fb c a x g rb) s)) ∧
    (TReady (.tzero t) s → exec (.tzero t) s = .next (tIssue (.tzero t) s)) ∧
    (TReady (.ttrn f td ta dir rot) s → exec (.ttrn f td ta dir rot) s = .next (tIssue (.ttrn f td ta dir rot) s)) ∧
    (TReady (.tdec fa fb m a) s → exec (.tdec fa fb m a) s = .next (tIssue (.tdec fa fb m a) s)) ∧
    (TReady (.cbld x) s → exec (.cbld x) s = .next (tIssue (.cbld x) s)) ∧
    (TReady (.fmtw x e) s → exec (.fmtw x e) s = .next (tIssue (.fmtw x e) s)) ∧
    (TReady (.shset x) s → ∃ t, exec (.shset x) s = .next t ∧ (curGang t).ntile = (curGang s).ntile + 1 ∧
      (curGang t).flight = (curGang s).flight ++
        [⟨(curGang s).gc + 2, s.cur.path, .shape ((actives s).map (fun e => (e, xv s e x))), none, (curGang s).gc⟩]) ∧
    (TReady (.acfg xa xb) s → exec (.acfg xa xb) s = .next (tIssue (.acfg xa xb) s)) ∧
    (TReady .aclr s → exec .aclr s = .next (tIssue .aclr s)) ∧
    (TReady (.join fa fb xd xa xb xo) s → exec (.join fa fb xd xa xb xo) s = .next (tIssue (.join fa fb xd xa xb xo) s)) ∧
    (TReady (.jins f xd xa) s → exec (.jins f xd xa) s = .next (tIssue (.jins f xd xa) s)) ∧
    (TReady (.adrn lay f xd xa xb) s → exec (.adrn lay f xd xa xb) s = .next (tIssue (.adrn lay f xd xa xb) s)) ∧
    (TReady (.afold c xa) s → exec (.afold c xa) s = .next (tIssue (.afold c xa) s)) ∧
    (TReady (.aspl xd) s → exec (.aspl xd) s = .next (tIssue (.aspl xd) s)) ∧
    (TReady (.ard sel xd) s → exec (.ard sel xd) s = .next (tIssue (.ard sel xd) s)) ∧
    (TReady (.awr wsel) s → exec (.awr wsel) s = .next (tIssue (.awr wsel) s)) ∧
    (TReady (.pred f xd xa) s → exec (.pred f xd xa) s = .next (tIssue (.pred f xd xa) s)) ∧
    (TReady (.pchk f xd xa xe) s → exec (.pchk f xd xa xe) s = .next (tIssue (.pchk f xd xa xe) s)) ∧
    (∀ i : Instr, tCounter (curGang (tIssue i s)) (tClass i) = tCounter (curGang s) (tClass i) + 1 ∧
      (curGang (tIssue i s)).tops = (curGang s).tops ++
        (if actives s = [] then [idleTOp i s 1] else (actives s).map (mkTOp i s)) ∧
      SameMemory s (tIssue i s) ∧ OtherGangsSame s (tIssue i s))

/-- What a T operation writes: TZERO zeros, TTRN the elements its direction names, TDEC the decoded bytes of its indices, a NaN as
the canonical one; MMA writes the elements of the rows and columns in the shape and no other, each the old word with its products,
and leaves them as they are where k is 0; MMAG gives an element the products of each group that covers its row, in ascending order
(06 R151, R153–R157). The keyed table: where a key goes, what JOIN forms of a group and JINS of a tuple, the entry ASPL takes, what
ADRN drains and where, what AFOLD adds, what ARD returns and AWR changes (06 R163–R169). PRED's scores, mask, indices and count,
PCHK's bounds, residual, indices and counts (06 R171, R172). -/
def Obligations.TileResults : Prop :=
  (∀ v : TView,
    (∀ m, v.o.ins = .tzero (.m m) → tileResult v = ((List.range 16).map (fun r => .mrow m.toNat r 0), false)) ∧
    (∀ f td ta dir rot, v.o.ins = .ttrn f (.m td) (.m ta) dir rot →
      tileResult v = ((List.range 16).map (fun r => .mrow td.toNat r (packRow v.o.fa.width (fun j =>
        match dir with
        | .row => rowElem (tvRow v ta.toNat r) v.o.fa.width (16 * (j / 16) + j % 16)
        | .col => rowElem (tvRow v ta.toNat (j % 16)) v.o.fa.width (16 * (j / 16) + r)
        | .diag => rowElem (tvRow v ta.toNat (j % 16)) v.o.fa.width (16 * (j / 16) + (j % 16 + r + rot.toNat) % 16)))), false)) ∧
    (∀ fa fb md ma, v.o.ins = .tdec fa fb md ma →
      tileResult v = ((List.range 16).map (fun r => .mrow md.toNat r (packRow 8 (fun j =>
        canonE4m3 (lq2Byte (tvEng v).cb (rowElem (tvRow v ma.toNat r) 16 (j / 8)) (j % 8))))), false)) ∧
    (∀ c a b rb fa fb, v.o.ins = .mma fa fb c a b rb →
      (∀ w, w ∈ (tileResult v).1 → ∃ i j x, i < 16 ∧ j < v.o.cols ∧ j < 16 ∧ 16 * rb.toNat + i < v.o.rows ∧
        w = .acc (accIndex v.W c.toNat i j) x ∧ (v.o.k = 0 → x = tvAcc v c.toNat i j)) ∧
      (∀ i j k, i < 16 → j < 16 → 16 * rb.toNat + i < v.o.rows → j < v.o.cols → accBadAt v c.toNat i j = false →
        tabScales v.o.ins = false → macK v.o.fa v.o.fb = some k → 0 < min k v.o.k →
        .acc (accIndex v.W c.toNat i j) (macElement (tvAcc v c.toNat i j) ((List.range (min k v.o.k)).map (fun t =>
          (opElem (tvEng v).cb v.o.fa (tvRow v a.toNat i) t).mul (opElem (tvEng v).cb v.o.fb (tvRow v b.toNat j) t))))
          ∈ (tileResult v).1)) ∧
    (∀ c a x g rb fa fb, v.o.ins = .mmag fa fb c a x g rb →
      (∀ w, w ∈ (tileResult v).1 → ∃ i j y, i < 16 ∧ j < v.o.cols ∧ j < 16 ∧ w = .acc (accIndex v.W c.toNat i j) y ∧
        ∃ t, t ∈ v.o.tbl ∧ i ∈ grpRows v.o.rows rb.toNat t) ∧
      (∀ i j k, i < 16 → j < 16 → j < v.o.cols → accBadAt v c.toNat i j = false → tabScales v.o.ins = false →
        macK v.o.fa v.o.fb = some k → 0 < min k v.o.k →
        let on := v.o.tbl.filter (fun t => (grpRows v.o.rows rb.toNat t).contains i)
        on ≠ [] → (∀ t, t ∈ on → tvBad v (grpAddr t + 64 * j) 64 = false) →
        .acc (accIndex v.W c.toNat i j) (on.foldl (fun y t => macElement y ((List.range (min k v.o.k)).map (fun n =>
          (opElem (tvEng v).cb v.o.fa (tvRow v a.toNat i) n).mul
            (opElem (tvEng v).cb v.o.fb (BitVec.ofNat 512 (tvNat v (grpAddr t + 64 * j) 64)) n)))) (tvAcc v c.toNat i j))
          ∈ (tileResult v).1))) ∧
  (∀ (E : Engine) (H : EngineHw) (W : Win) (key : Word) (x : FVal),
    let N := ktN E W
    let at' (n : Nat) : Nat := (hashKey key N + n) % N
    let slot (n : Nat) : Option KSlot := slotAt H W (at' n)
    let rounded (y : FVal) : Word := flushKeepSign (round32 .rne y)
    (∀ l, l ≤ min (ktP E) N → (∀ m, m < l → slot m ≠ none ∧ ∀ w, slot m ≠ some (.occ key w)) →
      (∀ w, l < min (ktP E) N → slot l = some (.occ key w) → probe E H W key = .hit (at' l) w) ∧
      (l = min (ktP E) N ∨ slot l = none →
        (∀ n, n < l → slot n = some .vacated → (∀ m, m < n → slot m ≠ some .vacated) → probe E H W key = .at (at' n)) ∧
        ((∀ n, n < l → slot n ≠ some .vacated) → probe E H W key = if l < min (ktP E) N then .at (at' l) else .ring))) ∧
    (∀ n w, probe E H W key = .hit n w → placeEntry W key x E H
      = (.placed, E, putSlot W n (.occ key (rounded (FVal.add .rne (f32v w) x))) H)) ∧
    (∀ n, probe E H W key = .at n → placeEntry W key x E H = (.placed, E, putSlot W n (.occ key (rounded x)) H)) ∧
    (probe E H W key = .ring → E.spillCount < ringLen E → ∃ K, placeEntry W key x E H
      = (.spilled, { E with ringTail := (E.ringTail + 1) % ringLen E, spillCount := E.spillCount + 1 }, K) ∧ K.slots = H.slots ∧
        (H.spadBad = [] → spadWord K W (ringBase E + 8 * E.ringTail) = key ∧
          spadWord K W (ringBase E + 8 * E.ringTail + 4) = rounded x)) ∧
    (probe E H W key = .ring → ringLen E ≤ E.spillCount → placeEntry W key x E H = (.refused, E, H)) ∧
    (∀ (gc : Nat) (j : JoinRun), j.next < j.total →
      let r := asplTake W gc j E H
      r.2.2 = H ∧ r.2.1 = { E with ringHead := (E.ringHead + 1) % ringLen E, spillCount := E.spillCount - 1 } ∧
        r.1.pend = j.pend ++ [⟨spadWord H W (ringBase E + 8 * E.ringHead), j.next,
          f32v (spadWord H W (ringBase E + 8 * E.ringHead + 4)), gc + 1⟩] ∧ r.1.next = j.next + 1)) ∧
  (∀ (v : TView) (gc : Nat) (j : JoinRun),
    let E := tvEng v
    let word (a : Nat) : Word := (tupleAt v a).1
    let value (f : Fmt) (a : Nat) : FVal := fmtVal f ((tupleAt v a).2.toNat % 2 ^ f.width)
    let key (row col : Nat) : Word :=
      BitVec.ofNat 32 ((row + 65536 - E.row0.toNat) % 65536 * 65536 + (col + 65536 - E.col0.toNat) % 65536)
    let ua := j.a + 8 * (j.next / j.gb)
    let wb := j.b + 8 * (j.next % j.gb)
    (j.ga ≠ 0 → j.next < j.ga * j.gb → tupleBad v ua = false → tupleBad v wb = false →
      mayForm E v.W gc (singly E j) (key (nbits (word ua).toNat 31 16) (nbits (word wb).toNat 15 0)) = true →
      ∃ q, formJoin v gc j = .go true q ∧ q.next = j.next + 1 ∧ q.a = j.a ∧ q.b = j.b ∧
        q.pend = j.pend ++ [⟨key (nbits (word ua).toNat 31 16) (nbits (word wb).toNat 15 0), j.next,
          (value v.o.fa ua).mul (value v.o.fb wb), gc + 1⟩]) ∧
    (j.ga = 0 → tupleBad v j.a = false → tupleBad v j.b = false →
      let ka := nbits (word j.a).toNat 15 0
      let kb := nbits (word j.b).toNat 31 16
      (ka = 0xFFFF ∨ kb = 0xFFFF → ∃ q, formJoin v gc j = .go false q ∧ q.finished = true ∧ q.code = 0 ∧ q.a = j.a ∧ q.b = j.b) ∧
      (ka ≠ 0xFFFF → kb ≠ 0xFFFF → ka < kb → ∃ q, formJoin v gc j = .go false q ∧ q.a = j.a + 8 ∧ q.b = j.b ∧ q.pend = j.pend) ∧
      (ka ≠ 0xFFFF → kb ≠ 0xFFFF → kb < ka → ∃ q, formJoin v gc j = .go false q ∧ q.a = j.a ∧ q.b = j.b + 8 ∧ q.pend = j.pend) ∧
      (ka ≠ 0xFFFF → ka = kb → tuplesBad v (extent v false ka 16385 j.a) j.a = false →
        tuplesBad v (extent v true kb 16385 j.b) j.b = false → ∃ q, formJoin v gc j = .go false q ∧ q.a = j.a ∧ q.b = j.b ∧ q.next = j.next ∧
        (∀ n, n < q.ga → nbits (word (j.a + 8 * n)).toNat 15 0 = ka) ∧ (∀ n, n < q.gb → nbits (word (j.b + 8 * n)).toNat 31 16 = kb) ∧
        (v.W.len ≤ 131072 → nbits (word (j.a + 8 * q.ga)).toNat 15 0 ≠ ka ∧ nbits (word (j.b + 8 * q.gb)).toNat 31 16 ≠ kb))) ∧
    (tupleBad v j.a = false →
      (nbits (word j.a).toNat 31 16 = 0xFFFF → j.pend = [] → ∃ q, formJins v gc j = .go false q ∧ q.finished = true ∧ q.code = 0 ∧
        q.a = j.a) ∧
      (nbits (word j.a).toNat 31 16 ≠ 0xFFFF →
        mayForm E v.W gc (singly E j) (key (nbits (word j.a).toNat 31 16) (nbits (word j.a).toNat 15 0)) = true →
        ∃ q, formJins v gc j = .go true q ∧ q.a = j.a + 8 ∧
          q.pend = j.pend ++ [⟨key (nbits (word j.a).toNat 31 16) (nbits (word j.a).toNat 15 0), j.a, value v.o.fa j.a, gc + 1⟩]))) ∧
  (∀ (G : Gang) (o : TOp) (j : JoinRun) (gc : Nat) (p : Pend) (W : Win) (E : Engine) (H : EngineHw) (f fb : Fmt) (xd xa xb xo : XReg),
    (o.ins = .join f fb xd xa xb xo →
      (let r := refuse o gc p j W E H
       r.1.finished = true ∧ r.1.code = 1 ∧ r.1.refused = some p.num ∧ r.1.a = j.a ∧ r.1.b = j.b ∧
        r.2 = ({ E with spillFull := true }, H)) ∧
      runResult G o j = [.x xa.toNat (BitVec.ofNat 32 j.a), .x xb.toNat (BitVec.ofNat 32 j.b),
        .x xo.toNat (BitVec.ofNat 32 (j.refused.getD 0)), .x xd.toNat (BitVec.ofNat 32 j.code)]) ∧
    (o.ins = .jins f xd xa →
      (let r := refuse o gc p j W E H
       r.1.finished = true ∧ r.1.code = 1 ∧ r.1.a = p.num ∧ r.2 = ({ E with spillFull := true }, H)) ∧
      runResult G o j = [.x xa.toNat (BitVec.ofNat 32 j.a), .x xd.toNat (BitVec.ofNat 32 j.code)]) ∧
    (o.ins = .aspl xd → runResult G o j = [.x xd.toNat (BitVec.ofNat 32 (getEng G o.eng).spillCount)])) ∧
  (∀ v : TView,
    let E := tvEng v
    let H := tvHw v
    let o := v.o
    let nr := nbits o.xb.toNat 31 16
    let nc := nbits o.xb.toNat 15 0
    let place := probe E H v.W o.xa
    (∀ lay f xd xa xb, o.ins = .adrn lay f xd xa xb → tableBad E H v.W = false →
      ∃ (es : List (Nat × Word × Word)) (bs : List Byte),
      joinResult v = ([.spad o.xa.toNat bs, .vacate (es.map (·.1)), .x xd.toNat (BitVec.ofNat 32 es.length)], false) ∧
      es.Perm ((occupied H v.W).filter (fun y => lay == .tup || (decide (keyRow y.2.1 < nr) && decide (keyCol y.2.1 < nc)))) ∧
      es.Pairwise (fun y z => y.2.1.toNat ≤ z.2.1.toNat) ∧
      (lay = .tup → bs = es.flatMap (fun y =>
        leBytes 4 ((keyRow y.2.1 + E.row0.toNat) % 65536 * 65536 + (keyCol y.2.1 + E.col0.toNat) % 65536)
          ++ leBytes 4 (convert o.fa .rne false (f32v y.2.2))) ++ leBytes 4 0xFFFFFFFF ++ leBytes 4 0) ∧
      (lay ≠ .tup → (o.fa = .f32 ∨ o.fa = .bf16 ∨ o.fa = .f16) → (lay = .blk → nr % 16 = 0 ∧ nc % 16 = 0) →
        ∀ r c, r < nr → c < nc →
          let k := match lay with
            | .cm => c * nr + r
            | .blk => 256 * (r / 16 * (nc / 16) + c / 16) + 16 * (r % 16) + c % 16
            | _ => r * nc + c
          let got := leNat ((bs.drop (elemBytes o.fa * k)).take (elemBytes o.fa))
          (∀ y, y ∈ es → keyRow y.2.1 = r → keyCol y.2.1 = c → (∀ z, z ∈ es → z.2.1 = y.2.1 → z.2.2 = y.2.2) →
            got = convert o.fa .rne false (f32v y.2.2)) ∧
          ((∀ y, y ∈ es → ¬(keyRow y.2.1 = r ∧ keyCol y.2.1 = c)) → got = 0))) ∧
    (∀ c xa, o.ins = .afold c xa → ∀ n k w, (n, k, w) ∈ occupied H v.W →
      nbits o.xa.toNat 31 16 ≤ keyRow k → keyRow k < nbits o.xa.toNat 31 16 + 16 →
      nbits o.xa.toNat 15 0 ≤ keyCol k → keyCol k < nbits o.xa.toNat 15 0 + 16 →
      let r := keyRow k - nbits o.xa.toNat 31 16
      let q := keyCol k - nbits o.xa.toNat 15 0
      slotBad E H v.W n = false → accBadAt v c.toNat r q = false →
      .acc (accIndex v.W c.toNat r q) (flushKeepSign (round32 .rne (FVal.add .rne (f32v (tvAcc v c.toNat r q)) (f32v w))))
        ∈ (joinResult v).1 ∧ ∃ ns, .vacate ns ∈ (joinResult v).1 ∧ n ∈ ns) ∧
    (∀ sel xd, o.ins = .ard sel xd → ardBad E H v.W sel o.xa = false → ∃ x : Word, joinResult v = ([.x xd.toNat x], false) ∧
      match sel with
      | .key _ => (∀ n w, place = .hit n w → x = w) ∧ ((∀ n w, place ≠ .hit n w) → x = 0xFFFFFFFF)
      | .st => x.extractLsb' 16 16 = BitVec.ofNat 16 E.spillCount ∧ x.extractLsb' 1 15 = 0 ∧ x.getLsbD 0 = E.spillFull
      | .occ => x = BitVec.ofNat 32 (occupied H v.W).length
      | .cfg => x = E.cfgA
      | .spl => x = E.cfgB
      | .org => x.extractLsb' 16 16 = E.row0 ∧ x.extractLsb' 0 16 = E.col0
      | .sres => x = E.sres
      | .sover => x = if E.sover then 1 else 0) ∧
    (∀ sel, o.ins = .awr sel → match sel with
      | .key _ _ => probeBad E H v.W o.xa = false →
        (∀ n w, place = .hit n w → joinResult v = ([.slot n o.xa o.xb], false)) ∧
        (∀ n, place = .at n → joinResult v = ([.slot n o.xa o.xb], false)) ∧
        (place = .ring → joinResult v = ([if E.spillCount < ringLen E then .spill o.xa o.xb else .spillFull true], false))
      | .st _ => joinResult v = ([.spillFull (o.xa.getLsbD 0)], false)
      | .org _ => joinResult v = ([.origin o.xa], false)
      | .sres _ => joinResult v = ([.sres o.xa], false)
      | .sover _ => joinResult v = ([.sover (o.xa.getLsbD 0)], false))) ∧
  (∀ (v : TView) (gc : Nat),
    let d := descOf v.o.tbl
    let r := sageResult v gc
    let x (t : Nat) : FVal := fmtVal v.o.fa (tvNat v (sgX d + t * elemBytes v.o.fa) (elemBytes v.o.fa))
    let y (c : Nat) : Word := dotMac ((List.range (sgD d)).map (fun t => (x t).mul
      ((fmtVal .h4 (tvNib v (sgQ d + c * sgD d / 2) t)).mul (e8Val (tvByte v (sgQs d + c * (sgD d / 32) + t / 32))))))
    let score (i : Nat) : Word := dotMac ((List.range (sgRk d)).map (fun c => (f32v (y c)).mul
      ((fmtVal .h4 (tvNib v (sgR d + i * sgRk d / 2) c)).mul (e8Val (tvByte v (sgRs d + i * (sgRk d / 32) + c / 32))))))
    let sb (b : Nat) : Word := sumUp ((List.range 64).map (fun t => (x (64 * b + t)).abs))
    let term (i b : Nat) : FVal := envTerm (f32v (sb b)) (fmtVal .e4m3 (tvByte v (sgQ d + i * (sgD d / 64) + b)).toNat)
    let bound (i : Nat) : Word := round32 .rup ((f32v (actBound v.o (boundSum ((List.range (sgD d / 64)).map (term i))))).mul
      (f32v (BitVec.ofNat 32 (tvNat v (sgR d + 4 * i) 4))).abs)
    (∀ f xd xa, v.o.ins = .pred f xd xa → (∀ c, c < sgRk d → colBad v d c = false) → (∀ i, i < sgNe d → scoreBad v d i = false) →
      let hits := (List.range (sgNe d)).filter (fun i => (f32v (tau v.o)).le (f32v (score i)))
      ∃ mask, r.wrs = [.predMask (sgNe d) mask, .x xd.toNat (BitVec.ofNat 32 hits.length)] ∧
        (∀ i, i < 4096 → (mask.getLsbD i = true ↔ i ∈ hits)) ∧
        r.rows.map (·.2) = hits.map (fun i => BitVec.ofNat 32 (sgBase d + i))) ∧
    (∀ f xd xa xe, v.o.ins = .pchk f xd xa xe → (∀ b, b < sgD d / 64 → blockBad v d b = false) → (∀ i, i < sgNe d → boundBad v d i = false) →
      let skipped := (List.range (sgNe d)).filter (fun i => !(tvEng v).predMask.getLsbD i)
      let again (i : Nat) : Bool :=
        (f32v (bound i)).isNan || (f32v (theta v.o)).lt (.fin false 0 0) || (f32v (theta v.o)).lt (f32v (bound i))
      let res := skipped.foldl (fun z i =>
        if again i ∨ z = 0x7F800000 then z else round32 .rup (FVal.add .rup (f32v z) (f32v (bound i)))) (0 : Word)
      let isOver := (f32v (budgetE v.o)).isNan || (f32v (budgetE v.o)).lt (f32v res)
      r.wrs = [.sres res, .sover isOver, .x xd.toNat res,
        .x xe.toNat (BitVec.ofNat 32 ((if isOver then 2 ^ 31 else 0) + (skipped.filter again).length))] ∧
      r.rows.map (·.2) = (skipped.filter again).map (fun i => BitVec.ofNat 32 (sgBase d + i))))

/-! The L and W slots. -/

/-- Loads: from the scratchpad the words are read at issue and land 6 cycles later, the bank stall added; aperture words come
with a transaction of one access for each lane, at abase + (a − 0x80000000), whose words ReturnEvents brings to the register (11 R253–R262; 02 R57; 08 R188). -/
def Obligations.VectorLoads : Prop :=
  ∀ (s : State) (d : VDst) (r : BitVec 5) (a b xs : XSrc) (vb : VSrc) (byp q3 : Bool) (p : PReg) (t : Tile) (dir : Dir) (idx n row : BitVec 4)
    (m : MReg) (rb : BitVec 2) (src dst : Fmt),
    let stall := s.cur.stall
    (Readable (.ldv d a byp p) s → AddressesOk (.ldv d a byp p) s →
      exec (.ldv d a byp p) s = .next (vLoad (.ldv d a byp p) d byp s)) ∧
    (Readable (.ldg d a vb byp p) s → AddressesOk (.ldg d a vb byp p) s →
      exec (.ldg d a vb byp p) s = .next (vLoad (.ldg d a vb byp p) d byp s)) ∧
    (Readable (.ldx d a b byp p) s → AddressesOk (.ldx d a b byp p) s →
      exec (.ldx d a b byp p) s = .next (vLoad (.ldx d a b byp p) d byp s)) ∧
    (∀ i : Instr, (∀ e, e ∈ actives s → engAperture s i e = false) →
      (curGang (vLoad i (.reg r) byp s)).flight = (curGang s).flight ++ [⟨(curGang s).gc + 6 + stall, s.cur.path,
        .v r.toNat ((actives s).map (fun e => (e, BitVec.ofNat 16 ((laneAddrs s e i).foldl (fun m x => m + 2 ^ x.1) 0),
          lanes512 (fun k => match (laneAddrs s e i).find? (fun x => x.1 == k) with | some x => spWord s e x.2.toNat | none => 0)))),
        none, (curGang s).gc⟩]) ∧
    (∀ i : Instr, (∃ e, e ∈ actives s ∧ engAperture s i e = true) →
      (∀ e, e ∈ actives s → ∀ x, x ∈ apAddrs s e i → accessVerdict s (apVa s x.2) 4 1 = .ok) →
      let u := vLoad i d byp s
      ∃ T, (curGang u).txns = (curGang s).txns ++ [T] ∧ T.kind = .apLoad d (curGang s).gc stall ∧
        T.due = none ∧ (curGang u).nstore = (curGang s).nstore ∧
        (∀ a, a ∈ T.accs → a.op = .read ∧ a.done = false) ∧
        T.accs.map (fun a => (a.eng, a.lane, a.va, a.len, a.byp)) = (actives s).flatMap (fun e =>
          ((laneAddrs s e i).filter (fun x => reachesAperture i && x.2.getLsbD 31)).map (fun x =>
            (e, x.1, (curGang s).abase.toNat + (x.2.toNat - 0x80000000), 4, byp))) ∧
        (∀ r, d = .reg r → ∃ f es, (curGang u).flight = (curGang s).flight ++ [f] ∧ f.txn = some T.id ∧ f.w = .v r.toNat es ∧
          f.land = (curGang s).gc + 6 + stall ∧ es.map (·.1) = actives s ∧
          ∀ x, x ∈ es → x.2.1 = BitVec.ofNat 16 ((spAddrs s x.1 i).foldl (fun m y => m + 2 ^ y.1) 0) ∧
            x.2.2 = lanes512 (fun k => match (spAddrs s x.1 i).find? (fun y => y.1 == k) with
              | some y => spWord s x.1 y.2.toNat
              | none => 0))) ∧
    (Readable (.ldm t a dir idx byp p) s → AddressesOk (.ldm t a dir idx byp p) s →
      (∀ e, e ∈ actives s → lineTileFail s (fun e => laneOn s e p) t dir idx.toNat false e = none) →
      exec (.ldm t a dir idx byp p) s = .next (holdStage stall (inFlight s (6 + stall) (.line t dir idx.toNat ((actives s).map (fun e =>
        (e, pRegE (getEng (curGang s) e) p.toNat, lanes512 (fun i => spWord s e (xa s e a + w4 i).toNat)))))))) ∧
    (Readable (.ldmk m a b rb byp) s → AddressesOk (.ldmk m a b rb byp) s →
      exec (.ldmk m a b rb byp) s = .next (holdStage stall (inFlight s (6 + stall) (.rows m.toNat ((actives s).map (fun e =>
        (e, (List.range 16).map (fun r => (r, if (mkRows s e rb).contains r then
          BitVec.ofNat 512 (leNat (spadBytes (curHw s e) (curWin s) (xa s e a + BitVec.ofNat 32 r * xa s e b).toNat 64)) else 0))))))))) ∧
    (Readable (.ldb q3 a n byp) s → AddressesOk (.ldb q3 a n byp) s → ldbRoom s (if q3 then 3 else 2) (n.toNat + 1) = true →
      exec (.ldb q3 a n byp) s = .next (holdStage stall (inFlight s (6 + stall) (.qpush (if q3 then 3 else 2) ((actives s).map (fun e =>
        (e, (List.range (n.toNat + 1)).map (fun i => spWord s e (xa s e a + w4 i).toNat)))))))) ∧
    (Readable (.ldw src dst m a xs row byp) s → AddressesOk (.ldw src dst m a xs row byp) s →
      fmtCheck s src (fun f => Fmt.ldwSrcOk f && f != .tab) = .ok → (∀ e, e ∈ actives s → ldwFail s src dst row.toNat e = none) →
      exec (.ldw src dst m a xs row byp) s = .next (holdStage stall (inFlight s (6 + stall) (.rows m.toNat ((actives s).map (fun e =>
        (e, [(row.toNat, ldwRow s e src dst a xs row.toNat)])))))))

/-- Stores: scratchpad words land after 2 cycles, of lanes that name one word the last; aperture words, each a write of 4 bytes at
abase + (a − 0x80000000), raise n.store by one (11 R253–R255, R258–R260). -/
def Obligations.VectorStores : Prop :=
  ∀ (s : State) (v vc : VSrc) (a c : XSrc) (byp : Bool) (p : PReg) (t : Tile) (dir : Dir) (idx : BitVec 4) (m : MReg) (rb : BitVec 2),
    (Readable (.stv v a byp p) s → AddressesOk (.stv v a byp p) s → (curGang s).nstore < 63 →
      exec (.stv v a byp p) s = .next (vStore (.stv v a byp p) byp (fun e i => vw s e v i) s)) ∧
    (Readable (.stg v a vc byp p) s → AddressesOk (.stg v a vc byp p) s → (curGang s).nstore < 63 →
      exec (.stg v a vc byp p) s = .next (vStore (.stg v a vc byp p) byp (fun e i => vw s e v i) s)) ∧
    (Readable (.stx v a c byp p) s → AddressesOk (.stx v a c byp p) s → (curGang s).nstore < 63 →
      exec (.stx v a c byp p) s = .next (vStore (.stx v a c byp p) byp (fun e i => vw s e v i) s)) ∧
    (Readable (.stm t a dir idx byp p) s → AddressesOk (.stm t a dir idx byp p) s →
      (∀ e, e ∈ actives s → lineTileFail s (fun e => laneOn s e p) t dir idx.toNat true e = none) →
      exec (.stm t a dir idx byp p) s
        = .next (vStore (.stm t a dir idx byp p) byp (fun e i => tileElem (curGang s) (curWin s) e t dir idx.toNat 32 0 i) s)) ∧
    (Readable (.stmk m a c rb byp) s → AddressesOk (.stmk m a c rb byp) s →
      exec (.stmk m a c rb byp) s = .next (vStore (.stmk m a c rb byp) byp
        (fun e k => (mRow (getEng (curGang s) e) m.toNat (k / 16)).extractLsb' (32 * (k % 16)) 32) s)) ∧
    (∀ (i : Instr) (val : Nat → Nat → Word), (∀ e, e ∈ actives s → engAperture s i e = false) →
      vStore i byp val s = holdStage s.cur.stall (inFlight s 2 (.spad ((actives s).map (fun e =>
        (e, lastOf ((laneAddrs s e i).map (fun x => (x.2.toNat, val e x.1))))))))) ∧
    (∀ ws : List (Nat × Word), ((lastOf ws).map (·.1)).Nodup ∧
      ∀ x w, (x, w) ∈ lastOf ws ↔ ∃ l r, ws = l ++ (x, w) :: r ∧ ∀ y, y ∈ r → y.1 ≠ x) ∧
    (∀ (i : Instr) (val : Nat → Nat → Word), (∃ e, e ∈ actives s ∧ engAperture s i e = true) →
      (∀ e, e ∈ actives s → ∀ x, x ∈ apAddrs s e i → accessVerdict s (apVa s x.2) 4 2 = .ok) →
      let words (as : List (Nat × Word)) (e : Nat) : List (Nat × Word) := lastOf (as.map (fun x => (x.2.toNat, val e x.1)))
      let u := vStore i byp val s
      ∃ T, (curGang u).txns = (curGang s).txns ++ [T] ∧ T.kind = .apStore ∧ (curGang u).nstore = (curGang s).nstore + 1 ∧
        (curGang u).flight = (curGang s).flight ++ [⟨(curGang s).gc + 2, s.cur.path,
          .spad ((actives s).map (fun e => (e, words (spAddrs s e i) e))), none, (curGang s).gc⟩] ∧
        (∀ a, a ∈ T.accs → a.done = false) ∧
        T.accs.map (fun a => (a.eng, a.va, a.len, a.byp, a.op)) = (actives s).flatMap (fun e =>
          (words ((laneAddrs s e i).filter (fun x => reachesAperture i && x.2.getLsbD 31)) e).map (fun x =>
            (e, (curGang s).abase.toNat + (x.1 - 0x80000000), 4, byp, .write (x.2.setWidth 512)))))

/-! The C slot. -/

/-- DSET's word takes effect for the third bundle that its path issues after it, and the two bundles between read the old word;
the copy commands enter the team's queue and raise n.copy (11 R268–R278). -/
def Obligations.CopyIssue : Prop :=
  ∀ (s : State) (d : DReg) (n : BitVec 3) (sa sb nb : SReg) (cls : BitVec 2) (bar : Option (BitVec 4)) (mask : Mask),
    (∀ (w : Word) (k t left : Nat) (b : Bundle), (curGang s).dsets = [⟨s.cur.path, k, n.toNat, w, t, left⟩] →
      (0 < left → descReg s k = spGet 0 (curGang s).d k) ∧
      (left = 0 → (descReg s k).extractLsb' (32 * n.toNat) 32 = w ∧
        ∀ i, i < 8 → i ≠ n.toNat → (descReg s k).extractLsb' (32 * i) 32 = (spGet 0 (curGang s).d k).extractLsb' (32 * i) 32) ∧
      (t < (curGang s).gc → (curGang (finishIssue s.cur.path b s)).dsets = [⟨s.cur.path, k, n.toNat, w, t, left - 1⟩] ∧
        (curGang (finishIssue s.cur.path b s)).d = (curGang s).d)) ∧
    (Readable (.dset d n sa) s → exec (.dset d n sa) s = .next (modCur s (fun G => { G with
      dsets := G.dsets ++ [⟨s.cur.path, d.toNat, n.toNat, (sv s sa).setWidth 32, G.gc, 2⟩] }))) ∧
    (CopyReady (.cpy d sa sb cls bar) .cpy s →
      exec (.cpy d sa sb cls bar) s = .next (enterCopy .cpy d (locWord s sa) (locWord s sb) 0 0 0 cls bar s)) ∧
    (CopyReady (.cpyg d sa mask cls bar) .cpyg s →
      exec (.cpyg d sa mask cls bar) s = .next (enterCopy .cpyg d 0 0 0 (mask &&& s.cur.mask) (sv s sa).toNat cls bar s)) ∧
    (CopyReady (.cpsh d sa sb none cls bar) .cpsh s →
      exec (.cpsh d sa sb none cls bar) s = .next (enterCopy .cpsh d (locWord s sa) (locWord s sb) 0 0 0 cls bar s)) ∧
    (CopyReady (.cpsh d sa sb (some nb) cls bar) .cpsh s →
      exec (.cpsh d sa sb (some nb) cls bar) s
        = .next (addIlk (enterCopy .cpsh d (locWord s sa) (locWord s sb) 0 0 0 cls bar s) nb.toNat (.at ((curGang s).gc + 1) 0))) ∧
    (Readable (.cpsh d sa sb (some nb) cls bar) s → copyCauses (.cpsh d sa sb (some nb) cls bar) .cpsh s = .ok → queueFull s = true →
      exec (.cpsh d sa sb (some nb) cls bar) s = .next (addIlk s nb.toNat (.at ((curGang s).gc + 1) 1))) ∧
    (CopyReady (.cmc d sa sb mask cls bar) .cmc s →
      exec (.cmc d sa sb mask cls bar) s = .next (enterCopy .cmc d (locWord s sa) (locWord s sb) 0 mask 0 cls bar s)) ∧
    (CopyReady (.cprf d cls bar) .cprf s → exec (.cprf d cls bar) s = .next (enterCopy .cprf d 0 0 0 0 0 cls bar s)) ∧
    (CopyReady (.cfls d cls bar) .cfls s → exec (.cfls d cls bar) s = .next (enterCopy .cfls d 0 0 0 0 0 cls bar s)) ∧
    (CopyReady (.cinv d cls bar) .cinv s → exec (.cinv d cls bar) s = .next (enterCopy .cinv d 0 0 0 0 0 cls bar s)) ∧
    (CopyReady (.cfil d sa sb cls bar) .cfil s →
      exec (.cfil d sa sb cls bar) s = .next (enterCopy .cfil d 0 (locWord s sb) (sv s sa) 0 0 cls bar s)) ∧
    (∀ op la lb pat k, (curGang s).team.isSome → (curGang (enterCopy op d la lb pat mask k cls bar s)).ncopy = (curGang s).ncopy + 1)

/-! The Y slot. -/

/-- WAIT and WAITR go on once the counters have fallen far enough, TIME returns the time of its issue, a bundle without a slot
pops its queues (11 R279, R280, R287; 02 R35). -/
def Obligations.WaitAndTime : Prop :=
  ∀ (s : State) (ts tj tc tt : BitVec 6) (c : Ctr) (ra rd : SReg) (delay : BitVec 6) (pop : BitVec 8),
    (Readable (.wait ts tj tc tt) s → (ts = 63 ∨ (curGang s).nstore ≤ ts.toNat) → (tj = 63 ∨ (curGang s).njoin ≤ tj.toNat) →
      (tc = 63 ∨ (curGang s).ncopy ≤ tc.toNat) → (tt = 63 ∨ (curGang s).ntile ≤ tt.toNat) → exec (.wait ts tj tc tt) s = .next s) ∧
    (ts ≠ 63 → ts.toNat < (curGang s).nstore → slotCheck (.wait ts tj tc tt) s ≠ .ok) ∧
    (Readable (.waitr c ra) s → ctrValue (curGang s) c ≤ min (sv s ra).toNat 63 → exec (.waitr c ra) s = .next s) ∧
    (Readable (.time false rd) s → exec (.time false rd) s
      = .next (addIlk s rd.toNat (.at ((curGang s).gc + 1) (BitVec.ofNat 64 s.tick)))) ∧
    (Readable (.time true rd) s → exec (.time true rd) s
      = .next (addIlk s rd.toNat (.at ((curGang s).gc + 1) (BitVec.ofNat 64 (4 * s.tick + s.sub))))) ∧
    ((∀ k, k < 8 → pop.getLsbD k = true → queueWait s k = false) → exec (.delayOnly delay pop) s = .next (popQueues pop s))

/-- Named barriers at issue (11 R281, R282). That BARA and BARX record the phase at any target, 0 included, is the model's choice
(log entry 27, DEDUCED), and so is where a BARW that never waited acquires (log entry 107, DESIGN CHOICE). -/
def Obligations.BarrierIssue : Prop :=
  ∀ (s : State) (b : BitVec 4) (ra : SReg) (t : Nat) (T : Team), (curGang s).team = some t → getTeam s t = some T →
    let x := teamBar s t b.toNat
    (Readable (.bari b ra) s → x.due = false → exec (.bari b ra) s = .next (modTeam s t (fun T => setBar T b.toNat
      { barOf T b.toNat with target := ((sv s ra).setWidth 8).toNat, count := 0, due := false }))) ∧
    (relReady (curGang s) s.cur.path = true → exec (.bara b) s = .next (recordPhase b.toNat false s)) ∧
    (x.target = 0 → (curPath s).barOpen = none → exec (.barw b) s = .next (clearBar (doAcquire s))) ∧
    (∀ q r, x.target ≠ 0 → (curPath s).barOpen = some q → (curPath s).barResume = some r → r ≤ nowCyc s →
      exec (.barw b) s = .next (clearBar s)) ∧
    (∀ ph, x.target ≠ 0 → (curPath s).barOpen = none → spFind (curPath s).barPhase b.toNat = some ph → ph ≠ x.phase →
      phaseOver x ph = none → exec (.barw b) s = .next (clearBar (doAcquire s))) ∧
    (x.target ≠ 0 → (curPath s).barOpen = none → spFind (curPath s).barPhase b.toNat = some x.phase →
      slotCheck (.barw b) s = .wait .barrier) ∧
    (s.cur.go = false → (curPath s).barx = false → relReady (curGang s) s.cur.path = true → x.target ≠ 0 →
      exec (.barx b) s = .next (barxArrive b.toNat s)) ∧
    ((curPath s).barx = false → relReady (curGang s) s.cur.path = true → x.target = 0 →
      exec (.barx b) s = .next (clearBar (recordPhase b.toNat false s))) ∧
    (∀ r, (curPath s).barx = true → (curPath s).barResume = some r → r ≤ nowCyc s → exec (.barx b) s = .next (clearBar s))

/-- A barrier counts one arrival at a time, is due when the count reaches the target, ignores arrivals while its target is 0;
completing the phase raises the phase number by 1 and the count returns to 0 (11 R281, R282). -/
def Obligations.BarrierPhases : Prop :=
  ∀ (s : State) (t b : Nat) (T : Team), getTeam s t = some T →
    let x := teamBar s t b
    (x.target = 0 → x.due = false → barArrive s t b = s) ∧
    (x.target ≠ 0 → x.due = false →
      teamBar (barArrive s t b) t b = { x with count := x.count + 1, due := decide (x.count + 1 = x.target) }) ∧
    (∀ c, c ≠ b → teamBar (barArrive s t b) t c = teamBar s t c) ∧
    ((teamBar (completePhase s t b) t b).phase = x.phase + 1 ∧ (teamBar (completePhase s t b) t b).count = 0 ∧
      (teamBar (completePhase s t b) t b).due = false ∧ (teamBar (completePhase s t b) t b).target = x.target) ∧
    (∀ g p, g ∈ T.gangs → (getGang s g).team = some t → (getPath (getGang s g) p).barOpen = some (b, x.phase) →
      (getPath (getGang (completePhase s t b) g) p).barResume = some (nowCyc s + 4))

/-- FENCE at a scope is REL and then ACQ at that scope (11 R285; 10 R239). -/
def Obligations.FenceIsReleaseThenAcquire : Prop :=
  ∀ (s : State) (sc : Scope), relReady (curGang s) s.cur.path = true →
    ∃ t, exec (.rel sc) s = .next t ∧ exec (.acq sc) t = exec (.fence sc) s

/-- REL, ACQ, FENCE and ACQR complete once the release's step 1 holds, or at once (10 R237–R239, R245; 11 R285, R286). -/
def Obligations.ReleaseAcquireResults : Prop :=
  ∀ (s : State) (sc : Scope) (rd ra : SReg),
    (relReady (curGang s) s.cur.path = true → exec (.rel sc) s = .next (doRelease sc s)) ∧
    (relReady (curGang s) s.cur.path = false → slotCheck (.rel sc) s = .wait .other ∧ slotCheck (.fence sc) s = .wait .other) ∧
    (exec (.acq sc) s = .next (doAcquire s)) ∧
    (relReady (curGang s) s.cur.path = true → exec (.fence sc) s = .next (doAcquire (doRelease sc s))) ∧
    ((curGang (doAcquire s)).l1 = []) ∧
    (Readable (.acqr rd ra) s → accessVerdict s (sv s ra).toNat 4 1 = .ok →
      ∃ t, exec (.acqr rd ra) s = .next t ∧ (curGang t).ilks.length = (curGang s).ilks.length + 1 ∧
        (curGang t).txns.length = (curGang s).txns.length + 1 ∧ (curGang t).l1 = [] ∧ (curGang t).nstore = (curGang s).nstore)

/-- The Thyme instructions complete on a channel of the team's grid: a broadcast is sent with its place in the order of its tick, the
source's team, lower gang and path A first, and an SRED waits for the round that holds its arrival, the open one or the next (09
R215–R220; 11 R283, R284). Each of them at engine, gang or
team scope raises 0x01, and each on a channel that its grid does not hold, or at another scope than the channel's, 0x0A (11 R283;
09 R216). -/
def Obligations.ThymeIssue : Prop :=
  (∀ (s : State) (sc : Scope) (ch : BitVec 6) (ra rd : SReg) (op : SredOp) (T : Team), gangTeam s s.cur.gang = some T →
    thymeCheck sc ch.toNat s = .ok →
    (relReady (curGang s) s.cur.path = true → arrivedOpen s ch.toNat (Scope.isPkg sc) = false →
      exec (.syna sc ch) s = .next (thymeArrive sc ch.toNat none s)) ∧
    (synwPending s ch.toNat (Scope.isPkg sc) = false → exec (.synw sc ch) s = .next s) ∧
    (Readable (.sbc sc ch ra) s →
      let due := s.tick + (if sc = .package then 14 + 3 * ctxDiam s T.ctx else 14)
      let source := 4 * T.num + (if T.gangs.length = 2 then 2 * (s.cur.gang % 2) else 0) + (if s.cur.path = .B then 1 else 0)
      exec (.sbc sc ch ra) s = .next { s with sbcs := s.sbcs ++
        [⟨T.ctx, ch.toNat, if sc = .package then 0 else T.vdie, sv s ra, 2 ^ 20 * due + source, due⟩] }) ∧
    (Readable (.sbcRd sc ch rd) s → exec (.sbcRd sc ch rd) s = .next (addIlk s rd.toNat (.sbc ch.toNat))) ∧
    (Readable (.sred op sc ch rd ra) s → relReady (curGang s) s.cur.path = true → arrivedOpen s ch.toNat (Scope.isPkg sc) = false →
      let u := thymeArrive sc ch.toNat (some (op, (sv s ra).setWidth 32)) s
      exec (.sred op sc ch rd ra) s = .next (addIlk u rd.toNat (.sred ch.toNat (arrivalNum u ch.toNat (Scope.isPkg sc))))) ∧
    (∀ val, let v := forceLoads s.cur.gang s.cur.path (doRelease sc s)
      let vd := roundVd T (Scope.isPkg sc)
      let num := arrivalNum (thymeArrive sc ch.toNat val s) ch.toNat (Scope.isPkg sc)
      let mine (a : Arrive) : Prop := curTeamNo s = some a.team ∧ a.gang = s.cur.gang ∧ a.path = some s.cur.path
      gangTeam v s.cur.gang = some T → v.cur = s.cur → curTeamNo v = curTeamNo s →
      (openRound v T.ctx ch.toNat vd = none → num = dbits (devGet v (roundNumAddr T.ctx ch.toNat vd)) 12 0) ∧
      (∀ r, openRound v T.ctx ch.toNat vd = some r →
        (∀ q, q ∈ v.rounds → q.due ≠ none → ∀ a, a ∈ q.arrs → ¬ mine a) → num = r.num))) ∧
  (∀ (s : State) (ch : BitVec 6) (ra rd : SReg) (op : SredOp) (sc : Scope) (T : Team), s.cur.go = false →
    let traps (i : Instr) (cause : BitVec 8) : Prop := exec i s = .next (takeTrap i ⟨cause, 0, 0, 0, none⟩ s)
    (sc = .engine ∨ sc = .gang ∨ sc = .team →
      traps (.syna sc ch) 0x01 ∧ traps (.synw sc ch) 0x01 ∧ traps (.sbc sc ch ra) 0x01 ∧ traps (.sbcRd sc ch rd) 0x01 ∧
        traps (.sred op sc ch rd ra) 0x01) ∧
    (sc = .die ∨ sc = .package → gangTeam s s.cur.gang = some T →
      (chGiven s T.ctx ch.toNat = false ∨ chGrid s T.ctx ch.toNat ≠ gridNo T.recId ∨ chPkg s T.ctx ch.toNat ≠ Scope.isPkg sc) →
      (relReady (curGang s) s.cur.path = true → arrivedOpen s ch.toNat (Scope.isPkg sc) = false → traps (.syna sc ch) 0x0A) ∧
      (synwPending s ch.toNat (Scope.isPkg sc) = false → traps (.synw sc ch) 0x0A) ∧
      (Readable (.sbc sc ch ra) s → traps (.sbc sc ch ra) 0x0A) ∧
      (Readable (.sbcRd sc ch rd) s → traps (.sbcRd sc ch rd) 0x0A) ∧
      (Readable (.sred op sc ch rd ra) s → relReady (curGang s) s.cur.path = true →
        arrivedOpen s ch.toNat (Scope.isPkg sc) = false → traps (.sred op sc ch rd ra) 0x0A)))

/-- The value of a round: it does not depend on the order of its arrivals; a round whose SREDs name more than one operator
delivers 0, one without SRED nothing; an arrival without a value leaves it as it is (09 R219). -/
def Obligations.RoundValueHasNoOrder : Prop :=
  (∀ (r q : Round), q.arrs.Perm r.arrs → roundValue q = roundValue r) ∧
  (∀ (r : Round) (a b : Arrive) (v w : SredOp × Word), a ∈ r.arrs → b ∈ r.arrs → a.val = some v → b.val = some w → v.1 ≠ w.1 →
    roundValue r = some 0) ∧
  (∀ r : Round, (∀ a, a ∈ r.arrs → a.val = none) → roundValue r = none) ∧
  (∀ (r q : Round) (a : Arrive), a.val = none → q.arrs = r.arrs ++ [a] → roundValue q = roundValue r)

/-! Steps of a gang beside its bundles. -/

/-- Results land, an aperture load's words in the lanes that named them; interlocked values are written (of several in one gang cycle into one register the last issued one stands),
fills, store acknowledgements, aperture loads and bundle fetches return; a fill places no line while a store to it is on its way
(02 R56, R58, R59; 08 R195; 11 R254, R255, R264, R284; 10 R233). That the patrol scrub changes nothing is the model's choice (log
entry 35, DESIGN CHOICE). -/
def Obligations.ReturnEvents : Prop :=
  ∀ (s : State) (g id : Nat) (p : PathSlot),
    let G := getGang s g
    let lastWord := fun (G : Gang) (k : Ilk) => ∀ w, w ∈ G.wrote → w.1 = k.reg → w.2 ≤ k.order
    (landDue G = true → exec (.resultLand g) s = .next (modGang s g (landAll (gangWin s g)))) ∧
    (∀ k c v, findIlk G id = some k → k.src = .at c v → c ≤ G.gc → lastWord G k →
      exec (.interlockedResultWrite g id) s = .next (modGang s g (fun G =>
        dropIlk id (setS k.reg v { G with wrote := (k.reg, k.order) :: G.wrote })))) ∧
    (∀ k c v, findIlk G id = some k → k.src = .at c v → c ≤ G.gc → ¬ lastWord G k →
      exec (.interlockedResultWrite g id) s = .next (modGang s g (dropIlk id))) ∧
    (∀ k ch, findIlk G id = some k → k.src = .sbc ch → G.fresh.getLsbD ch = true → lastWord G k →
      exec (.interlockedResultWrite g id) s = .next (modGang s g (fun G =>
        dropIlk id (setS k.reg (spGet 0 G.latch ch)
          { G with fresh := G.fresh &&& ~~~(BitVec.twoPow 64 ch), wrote := (k.reg, k.order) :: G.wrote })))) ∧
    (∀ k t T a r n, findIlk G id = some k → k.src = .mem t → findTxn G t = some T → T.kind = .rmw r n → T.accs = [a] → a.done = true →
      a.bad = false → lastWord G k →
      exec (.interlockedResultWrite g id) s = .next (modGang (modGang s g (fun G => dropIlk id (dropTxn t G))) g
        (fun G => setS k.reg (BitVec.ofNat 64 (a.got.toNat % 2 ^ (8 * a.len))) { G with wrote := (k.reg, k.order) :: G.wrote }))) ∧
    (∀ T r n va lo hi, findTxn G id = some T → T.kind = .lds r n va → T.accs = [lo, hi] → lo.done = true → hi.done = true →
      lo.bad = false → hi.bad = false → lo.cls < 2 → hi.cls < 2 → ∃ t, exec (.l1Fill g id) s = .next t ∧
        let data := lo.got.toNat % 2 ^ 256 + hi.got.toNat % 2 ^ 256 * 2 ^ 256
        let answer := answerIlk id (BitVec.ofNat 64 (data / 2 ^ (8 * (va % 64)) % 2 ^ (8 * n)))
        (stsPending G (lo.pa / 64) = false →
          ∃ w, getGang t g = dropTxn id (answer (l1Put (lo.pa / 64) w (BitVec.ofNat 512 data) G))) ∧
        (stsPending G (lo.pa / 64) = true → getGang t g = dropTxn id (answer G))) ∧
    (∀ T, oldestStore G = some T → T.id = id → storeDone T = true →
      exec (.storeAck g id) s = .next (modGang s g (fun G => { dropTxn id G with nstore := G.nstore - 1 }))) ∧
    (∀ T d q st c, findTxn G id = some T → T.kind = .apLoad d q st → T.due = some c → c ≤ G.gc →
      ∃ t, exec (.apertureLoadReturn g id) s = .next t ∧ findTxn (getGang t g) id = none) ∧
    (∀ T d q st c, findTxn G id = some T → T.kind = .apLoad d q st → T.due = some c → c ≤ G.gc → T.accs.all (·.done) = true →
      T.accs.any (·.bad) = false → exec (.apertureLoadReturn g id) s = .next (modGang s g (fun G =>
        { dropTxn id G with flight := G.flight.map (fillFlight T) }))) ∧
    (∀ (T : Txn) (f : Flight) r es, f.txn = some T.id → f.w = .v r es → (T.accs.map (fun a => (a.eng, a.lane))).Nodup →
      (∀ a, a ∈ T.accs → a.lane < 16) → ∃ h : Nat × Half × BitVec 512 → Nat × Half × BitVec 512,
        fillFlight T f = { f with txn := none, w := .v r (es.map h) } ∧ ∀ x, x ∈ es → (h x).1 = x.1 ∧ ∀ i, i < 16 →
          (∀ a, a ∈ T.accs → a.eng = x.1 → a.lane = i → (h x).2.1.getLsbD i = true ∧ lane (h x).2.2 i = a.got.setWidth 32) ∧
          ((∀ a, a ∈ T.accs → a.eng = x.1 → a.lane ≠ i) →
            (h x).2.1.getLsbD i = x.2.1.getLsbD i ∧ lane (h x).2.2 i = lane x.2.2 i)) ∧
    (∀ T va pa key cls x y es, fetchReady s g p = true → gangTeam s g = some T → fetchTarget s g p = some va →
      unitTr s g T.ctx va = (.ok pa key cls x y, es) → populated s pa = true →
      (readUnit (noteReader (gangDie g) pa cls (cacheWalk s es)) (gangDie g) (pa / 64 * 64) key cls).2.1 = false →
      ∃ t, exec (.bundleFetch g p) s = .next t ∧ spFind (getPair t (gangPair g)).icache (pa / 64)
        = some (readUnit (noteReader (gangDie g) pa cls (cacheWalk s es)) (gangDie g) (pa / 64 * 64) key cls).1) ∧
    (exec (.patrolScrub g) s = .next s)

/-- A result lands where it names, in that register alone, and leaves the results in flight; of two that land together the one issued
later stands, in a vector register lane by lane; a store's words land beside what they replace, which a copy that no release orders
after them may read (10 R233, R243; 16 R363); and what each kind of result writes: values under its lanes, tile lines and groups,
rows, queues, ep, shape, pattern banks, lc, lnk, abase, scratchpad words (02 R48, R56, R59; 05 R119, R127, R132, R134; 06 R160; 11
R258, R259; 13 R293). That an EPSET which lands where sh.rows has become 0 leaves ep 0, and
which words are kept so, are the model's choices (log entries 81, DEDUCED, and 111, DEDUCED). -/
def Obligations.ResultLandsValue : Prop :=
  (∀ (s : State) (g r t0 : Nat) (p : PathSlot) (v : DWord), (getGang s g).frozen = 0 → (getGang s g).run = .run →
    (getGang s g).flight = [⟨(getGang s g).gc, p, .s r v, none, t0⟩] →
    ∃ t, exec (.resultLand g) s = .next t ∧ sReg (getGang t g) r = v ∧ (∀ q, q ≠ r → sReg (getGang t g) q = sReg (getGang s g) q) ∧
      (getGang t g).flight = [] ∧ (getGang t g).eng = (getGang s g).eng ∧ (getGang t g).lc = (getGang s g).lc ∧ SameMemory s t ∧
      (∀ h, h ≠ g → getGang t h = getGang s h)) ∧
  (∀ (s : State) (g : Nat) (f : Flight), landsNow (getGang s g) = true → (getGang s g).flight = [f] → f.land ≤ (getGang s g).gc →
    ∃ t, exec (.resultLand g) s = .next t ∧ SameMemory s t ∧ (∀ h, h ≠ g → getGang t h = getGang s h) ∧
      getGang t g = landOne (gangWin s g) { getGang s g with flight := [] } f) ∧
  (∀ (s : State) (g : Nat) (f h : Flight), landsNow (getGang s g) = true → (getGang s g).flight = [f, h] →
    f.land ≤ (getGang s g).gc → h.land ≤ (getGang s g).gc →
    ∃ t, exec (.resultLand g) s = .next t ∧ getGang t g
      = landOne (gangWin s g) (landOne (gangWin s g) { getGang s g with flight := [] } f) h) ∧
  (∀ (W : Win) (G : Gang) (f : Flight), ∃ ws, landOne W G f = applyWr W f.path f.w { G with oldWords := ws } ∧
    ((∀ es, f.w ≠ .spad es) → ws = G.oldWords) ∧
    (∀ es e l a w, f.w = .spad es → (if f.path = .A then G.relGc.1 else G.relGc.2) ≤ f.t0 → (e, l) ∈ es → (a, w) ∈ l →
      ∃ x, x ∈ ws ∧ x.eng = e ∧ x.addr = a ∧ x.old = spadWord (getHw G e) W a ∧ x.new = w ∧ f.path ∈ x.owners ∧ f.path ∈ x.seen)) ∧
  (∀ (s : State) (lat : Nat) (w : Wr), (curGang (inFlight s lat w)).flight
    = (curGang s).flight ++ [⟨(curGang s).gc + lat, s.cur.path, w, none, (curGang s).gc⟩]) ∧
  ∀ (W : Win) (p q : PathSlot) (G : Gang) (r e idx : Nat) (t : Tile) (dir : Dir),
    let after := fun (w : Wr) => applyWr W p w G
    let engOf := fun (w : Wr) => getEng (after w) e
    let E := getEng G e
    (∀ v, sReg (after (.s r v)) r = v ∧ ∀ k, k ≠ r → sReg (after (.s r v)) k = sReg G k) ∧
    (∀ v, spGet 0 (after (.lc r v)).lc r = v ∧ ∀ k, k ≠ r → spGet 0 (after (.lc r v)).lc k = spGet 0 G.lc k) ∧
    (∀ v, (getPath (after (.lnk v)) p).lnk = v ∧ getPath (after (.lnk v)) (otherSlot p) = getPath G (otherSlot p)) ∧
    (∀ v, (after (.abase v)).abase = v) ∧
    (∀ es v, (es.map (·.1)).Nodup → (e, v) ∈ es → xRegE (engOf (.x r es)) r = v ∧
      ∀ k, k ≠ r → xRegE (engOf (.x r es)) k = xRegE E k) ∧
    (∀ es m v, (es.map (·.1)).Nodup → (e, m, v) ∈ es →
      (∀ i, i < 16 → lane (vRegE (engOf (.v r es)) r) i = if m.getLsbD i then lane v i else lane (vRegE E r) i) ∧
      ∀ k, k ≠ r → vRegE (engOf (.v r es)) k = vRegE E k) ∧
    (∀ m₁ v₁ m₂ v₂ i, i < 16 →
      lane (vRegE (getEng (applyWr W q (.v r [(e, m₂, v₂)]) (after (.v r [(e, m₁, v₁)]))) e) r) i
        = if m₂.getLsbD i then lane v₂ i else if m₁.getLsbD i then lane v₁ i else lane (vRegE E r) i) ∧
    (∀ es m v, (es.map (·.1)).Nodup → (e, m, v) ∈ es → r ≠ 0 →
      (∀ i, i < 16 → (pRegE (engOf (.p r es)) r).getLsbD i = if m.getLsbD i then v.getLsbD i else (pRegE E r).getLsbD i) ∧
      ∀ k, k ≠ r → pRegE (engOf (.p r es)) k = pRegE E k) ∧
    (∀ es, pRegE (engOf (.p 0 es)) 0 = 0xFFFF) ∧
    (∀ es rs k v, (es.map (·.1)).Nodup → (e, rs) ∈ es → (rs.map (·.1)).Nodup → (k, v) ∈ rs → mRow (engOf (.rows r es)) r k = v) ∧
    (∀ es m v i, (es.map (·.1)).Nodup → (e, m, v) ∈ es → idx < 16 → i < 16 → (getHw G e).accBad = [] →
      tileElem (after (.line t dir idx es)) W e t dir idx 32 0 i = if m.getLsbD i then lane v i else tileElem G W e t dir idx 32 0 i) ∧
    (∀ es k w h m v i, (es.map (·.1)).Nodup → (e, w, h, m, v) ∈ es → idx < 16 → i < 16 → 0 < w → 16 * w * (h + 1) ≤ 512 →
      tileElem (after (.group (.m k) dir idx es)) W e (.m k) dir idx w h i
        = if m.getLsbD i then BitVec.ofNat 32 ((lane v i).toNat % 2 ^ w) else tileElem G W e (.m k) dir idx w h i) ∧
    (∀ es b, (es.map (·.1)).Nodup → (e, b) ∈ es → (engOf (.ep es)).ep = (b && E.rows != 0)) ∧
    (∀ es v, (es.map (·.1)).Nodup → (e, v) ∈ es → (engOf (.shape es)).rows = min (nbits v.toNat 6 0) 64 ∧
      (engOf (.shape es)).cols = nbits v.toNat 15 8 ∧ (engOf (.shape es)).k = nbits v.toNat 23 16 ∧
      (engOf (.shape es)).ep = (E.ep && min (nbits v.toNat 6 0) 64 != 0)) ∧
    (∀ es m v, (es.map (·.1)).Nodup → (e, m, v) ∈ es →
      let b := if E.patBank then 0 else 1
      spGet 0 (engOf (.patLoad es)).pat b = (v &&& m) ||| (spGet 0 E.pat b &&& ~~~m) ∧
      spGet 0 (engOf (.patLoad es)).pat (1 - b) = spGet 0 E.pat (1 - b) ∧ (engOf (.patLoad es)).patBank = E.patBank) ∧
    (∀ es, es.Nodup → e ∈ es → (engOf (.patSwap es)).patBank = !E.patBank ∧ (engOf (.patSwap es)).pat = E.pat) ∧
    (∀ es l k, (es.map (·.1)).Nodup → (e, l) ∈ es → k < 4 → qOf (engOf (.qpush k es)) k = qOf E k ++ l ∧
      ∀ j, j < 4 → j ≠ k → qOf (engOf (.qpush k es)) j = qOf E j) ∧
    (∀ es ws a w i, (es.map (·.1)).Nodup → (e, ws) ∈ es → ws.Pairwise (fun x y => x.1 + 4 ≤ y.1 ∨ y.1 + 4 ≤ x.1) →
      (getHw G e).spadBad = [] →
      ((a, w) ∈ ws → i < 4 → spadByte (getHw (after (.spad es)) e) W (a + i) = BitVec.ofNat 8 (w.toNat / 2 ^ (8 * i))) ∧
      ((∀ x, x ∈ ws → a < x.1 ∨ x.1 + 4 ≤ a) → spadByte (getHw (after (.spad es)) e) W a = spadByte (getHw G e) W a))

/-- T instructions begin, place and complete (06 R145–R147, R164–R176). What a completing operation has computed, the lists that
TileResults gives, stands in its engine: x registers, tile rows, accumulator words, scratchpad bytes, the keyed table and its ring,
the Sage unit's state; a register, row, word or byte that it names no write for stands as before; and its class's counter falls once
it has left every engine. The x results land in the completion cycle with the results of bundles (06 R145, R147). -/
def Obligations.TensorEvents : Prop :=
  ∀ (s : State) (g e id bank : Nat),
    let G := getGang s g
    (∀ o, findOp G e id = some o → beginReady s g e id = true → tClass o.ins = .tile →
      ∃ t, exec (.tInstrBegin g e id) s = .next t ∧ ∃ q, findOp (getGang t g) e id = some q ∧ q.begun = true ∧
        q.done = some (G.gc + tileCycles o) ∧ q.ins = o.ins) ∧
    (beginReady s g e id = true → exec (.tInstrBegin g e id) s = .next (beginOp s g e id)) ∧
    (∀ o, findOp G e id = some o → beginReady s g e id = true → tClass o.ins = .pred →
      let r := sageResult (viewOf s g o (Config.freeNat s.free)) G.gc
      ∃ t, exec (.tInstrBegin g e id) s = .next t ∧
        findOp (getGang t g) e id = some { o with begun := true, done := some r.done, out := some r.wrs, pushes := r.rows, sage := r.run }) ∧
    (endReady s g e id = true → ∃ t, exec (.tInstrComplete g e id) s = .next t ∧ findOp (getGang t g) e id = none) ∧
    (∀ v : TView, v.o.out = none →
      (v.o.join = none → tileRegBad v = false → opResult v = if tClass v.o.ins = .tile then tileResult v else joinResult v) ∧
      (∀ j, v.o.join = some j → opResult v = (runResult v.G v.o j, false))) ∧
    (∀ o ws, findOp G e id = some o → endReady s g e id = true → o.hits = [] →
      o.out = some ws ∨ (o.out = none ∧ opResult (viewOf s g o (Config.freeNat s.free)) = (ws, false)) →
      ∃ t, exec (.tInstrComplete g e id) s = .next t ∧ SameMemory s t ∧ (∀ h, h ≠ g → getGang t h = getGang s h) ∧
        (getGang t g).s = G.s ∧ findOp (getGang t g) e id = none ∧
        tCounter (getGang t g) (tClass o.ins) = tCounter G (tClass o.ins) -
          (if G.tops.any (fun q => q.id == id && q.eng != e) then 0 else 1) ∧
        let E := getEng G e
        let H := getHw G e
        let E' := getEng (getGang t g) e
        let H' := getHw (getGang t g) e
        let W := gangWin s g
        (∀ r, (∀ v, .x r v ∈ ws → (∀ v', .x r v' ∈ ws → v' = v) → xRegE E' r = v) ∧
          ((∀ v, .x r v ∉ ws) → xRegE E' r = xRegE E r)) ∧
        (∀ m r, (∀ v, .mrow m r v ∈ ws → (∀ m' r' v', .mrow m' r' v' ∈ ws → 16 * m' + r' = 16 * m + r → v' = v) → mRow E' m r = v) ∧
          ((∀ m' r' v', .mrow m' r' v' ∈ ws → 16 * m' + r' ≠ 16 * m + r) → mRow E' m r = mRow E m r)) ∧
        (H.accBad = [] → ∀ k, (∀ v, .acc k v ∈ ws → (∀ v', .acc k v' ∈ ws → v' = v) → spGet 0 H'.acc k = v) ∧
          ((∀ v, .acc k v ∉ ws) → spGet 0 H'.acc k = spGet 0 H.acc k)) ∧
        (H.spadBad = [] → (∀ k v, .spill k v ∉ ws) → ∀ a,
          (∀ b bs, .spad b bs ∈ ws → (∀ c cs, .spad c cs ∈ ws → c = b ∧ cs = bs) →
            spadByte H' W a = if b ≤ a ∧ a < b + bs.length then bs.getD (a - b) 0 else spadByte H W a) ∧
          ((∀ b bs, .spad b bs ∉ ws) → spadByte H' W a = spadByte H W a)) ∧
        (∀ n k v, ws = [.slot n k v] → slotAt H' W n = some (.occ k v) ∧ ∀ n', n' ≠ n → slotAt H' W n' = slotAt H W n') ∧
        (∀ ns, .vacate ns ∈ ws → (∀ n, n ∈ ns → n < 8192) → (H.slots.map (·.1)).Pairwise (· < ·) →
          (∀ w, w ∈ ws → w = .vacate ns ∨ (∃ k v, w = .acc k v) ∨ (∃ a bs, w = .spad a bs) ∨ ∃ r v, w = .x r v) →
          let left : Prop := ∃ m k v, m < 8192 ∧ m ∉ ns ∧ slotAt H W m = some (.occ k v)
          ∀ n, n < 8192 → (¬ left → slotAt H' W n = none) ∧ (left → n ∈ ns → slotAt H' W n = some .vacated) ∧
            (left → n ∉ ns → slotAt H' W n = slotAt H W n)) ∧
        (∀ k v, ws = [.spill k v] → E'.ringTail = (E.ringTail + 1) % ringLen E ∧ E'.spillCount = E.spillCount + 1 ∧
          (H.spadBad = [] → spadWord H' W (ringBase E + 8 * E.ringTail) = k ∧ spadWord H' W (ringBase E + 8 * E.ringTail + 4) = v)) ∧
        (ws = [.clearKeyed] ∨ (∃ xa xb, ws = [.config xa xb]) → (∀ n, n < 8192 → slotAt H' W n = none) ∧ E'.ringHead = 0 ∧
          E'.ringTail = 0 ∧ E'.spillCount = 0 ∧ E'.spillFull = false) ∧
        (∀ xa xb, ws = [.config xa xb] → E'.cfgA = xa ∧ E'.cfgB = xb) ∧
        (∀ b, ws = [.spillFull b] → E'.spillFull = b) ∧
        (∀ v, ws = [.origin v] → E'.row0 = v.extractLsb' 16 16 ∧ E'.col0 = v.extractLsb' 0 16) ∧
        (∀ bs i, ws = [.cb bs] → i < bs.length → spGet 0 E'.cb i = bs.getD i 0) ∧
        (∀ k v, ws = [.fmtt k v] → spGet 0 E'.fmtt k = v ∧ ∀ j, j ≠ k → spGet 0 E'.fmtt j = spGet 0 E.fmtt j) ∧
        (∀ v, .sres v ∈ ws → (∀ v', .sres v' ∈ ws → v' = v) → E'.sres = v) ∧
        (∀ b, .sover b ∈ ws → (∀ b', .sover b' ∈ ws → b' = b) → E'.sover = b) ∧
        (∀ n v, .predMask n v ∈ ws → (∀ n' v', .predMask n' v' ∈ ws → n' = n ∧ v' = v) → n ≤ 4096 →
          ∀ i, i < 4096 → E'.predMask.getLsbD i = ((decide (n ≤ i) && E.predMask.getLsbD i) || v.getLsbD i))) ∧
    (∀ o ws, G.tops.filter (fun q => q.begun && pushesFit G q && q.done == some G.gc) = [o] → findOp G o.eng o.id = some o →
      o.out = some ws ∨ (o.out = none ∧ opResult (viewOf s g o (Config.freeNat s.free)) = (ws, false)) →
      let u := landOpX s g
      findOp (getGang u g) o.eng o.id = some { o with out := some (ws.filter (fun w => !isXWr w)) } ∧
      (∀ r v, .x r v ∈ ws → ⟨G.gc, o.path, .x r [(o.eng, v)], none, o.t0⟩ ∈ (getGang u g).flight) ∧
      ∀ f, f ∈ G.flight → f ∈ (getGang u g).flight) ∧
    (∀ o, G.tops.find? (pushReady s g e) = some o → ∀ c w r, o.pushes = (c, w) :: r → sageQueue o < 4 →
      ∃ t, exec (.sageQueuePush g e) s = .next t ∧
        qOf (getEng (getGang t g) e) (sageQueue o) = qOf (getEng G e) (sageQueue o) ++ [w]) ∧
    (∀ o j p, placeReady s g e bank = true → placingOp G e = some o → o.join = some j →
      let u := { s with free := s.free + 1 }
      let v := viewOf u g o (Config.freeNat s.free)
      bankPend v j bank = some p → probeBad (tvEng v) (tvHw v) v.W p.key = false →
      (placeEntry v.W p.key p.v (tvEng v) (tvHw v)).1 = .placed →
      exec (.keyedPlacement g e bank) s = .next (advanceRun
        (setOp (modGang u g (fun G => modHw (setEng G e (placeEntry v.W p.key p.v (tvEng v) (tvHw v)).2.1) e
            (fun _ => (placeEntry v.W p.key p.v (tvEng v) (tvHw v)).2.2))) g e o.id
          (fun o => { o with join := some { j with pend := j.pend.erase p, banks := bank :: j.banks, last := max j.last v.G.gc } }))
        g e o.id (Config.freeNat s.free) 0))

/-- Copy commands start, move their pieces, push words, take queue entries, complete and lower n.copy (11 R269–R276). What a piece
reads, from a scratchpad whose stores have all been ordered, from memory, or of a CFIL's pattern, and at which addresses; and that
those bytes stand at the destination's: in each scratchpad, and there no other byte, in the team's private version of the sector, or
at an uncached home (11 R271, R276, R278; 10 R242). -/
def Obligations.CopyEvents : Prop :=
  ∀ (s : State) (t cmd off e g : Nat) (T : Team) (c : Copy), getTeam s t = some T →
    (startReady s T = true → queueHead T = some c → mateOf T c = none →
      exec (.copyCommandStart t) s = .next (startOne s t c.id)) ∧
    (∀ bs tr u u', findCopy T cmd = some c → pieceReady s T c off = true → pieceWouldStop s t T c off = false → c.held = none →
      windowMissing s T c = false → movePiece s t T c off (pieceLen c off) = (some (bs, tr, u), u') →
      exec (.copyPiece t cmd off) s = .next (modCopy (writeSide u t T c off (pieceLen c off) tr bs) t cmd (pieceDone off))) ∧
    (let n := pieceLen c off
     let row := off / dcLen c.desc
     let entry : Option Word := (spGet [] c.rows ((maskList c.mask).getD (row / c.n) 0))[row % c.n]?
     let from' : Int := if c.op = .cpyg then (entry.map (fun w => (w.toNat : Int))).getD 0 else (row : Int)
     let to' : Int := ((if c.op = .cpyg then row % c.n else row : Nat) : Int)
     let src : Int := (aAddr (dcSrc c.desc) : Int) + from' * dcSstr c.desc + ((off % dcLen c.desc : Nat) : Int)
     let dst : Int := (aAddr (dcDst c.desc) : Int) + to' * dcDstr c.desc + ((off % dcLen c.desc : Nat) : Int)
     let p := pieceSides s t T c off
     let v := spendPiece c.cls p.2.1 (spendPiece c.cls p.1 (cacheWalk s p.2.2))
     (∀ bs tr u u', movePiece s t T c off n = (some (bs, tr, u), u') →
       tr = (if dstMem c then (pieceTr s t T.ctx dst 2).1 else .none) ∧
       (c.op = .cfil → bs = (List.range n).map (fun k =>
         BitVec.ofNat 8 (c.pat.toNat / 2 ^ (8 * ((off % dcLen c.desc + k) % 8))))) ∧
       (∀ h e' W, c.op ≠ .cfil → srcMem c = false → srcSpad s T c = some (h, e', W) → (getGang s h).oldWords = [] →
         bs = spadBytes (getHw (getGang s h) e') W src.toNat n) ∧
       (∀ pa key cls, c.op ≠ .cfil → c.op ≠ .cprf → srcMem c = true → (pieceTr s t T.ctx src 1).1 = .here pa key cls →
         bs = leBytes n (homeReadAt v (some t) pa n key cls (aHint (dcSrc c.desc))).1)) ∧
     (∀ (u : State) (bs : List Byte), c.op ≠ .cprf → c.op ≠ .cfls → c.op ≠ .cinv → bs.length = n →
       (let w := writeSide u t T c off n .none bs
        ((dstSpads u T c off).map (fun x => (x.1, x.2.1))).Nodup → ∀ h e' W, (h, e', W) ∈ dstSpads u T c off →
          (getHw (getGang u h) e').spadBad = [] → ∀ a, spadByte (getHw (getGang w h) e') W a =
            if dst.toNat ≤ a ∧ a < dst.toNat + n then bs.getD (a - dst.toNat) 0 else spadByte (getHw (getGang u h) e') W a) ∧
       (∀ pa key cls, pa % 32 + n ≤ 32 →
         let w := writeSide u t T c off n (.here pa key cls) bs
         let sec := pa / 32
         let home := homeSlice u pa
         (∀ q, q ∈ u.priv → q.sector = sec → q.slice = home → q.team = t) →
         (cls ≠ 3 →
           (∀ q, privOf u sec home t = some q → q.poison = false ∨ n = 32 → ∃ x, privOf w sec home t = some x ∧ c.id ∈ x.cmds ∧
             x.data = mergeBytes q.data (pa % 32) n (leNat bs)) ∧
           (privOf u sec home t = none → n = 32 → ∃ x, privOf w sec home t = some x ∧ c.id ∈ x.cmds ∧
             x.data = BitVec.ofNat 256 (leNat bs)) ∧
           (privOf u sec home t = none → (slRead u home sec key cls (aHint (dcDst c.desc))).2.1 = false → n ≠ 32 →
             ∃ x, privOf w sec home t = some x ∧ c.id ∈ x.cmds ∧
               x.data = mergeBytes (slRead u home sec key cls (aHint (dcDst c.desc))).1 (pa % 32) n (leNat bs))) ∧
         (cls = 3 → sec ∉ u.memBad ∨ n = 32 → (homeReadAt w (some t) pa n key 3 false).1 = leNat bs)) ∧
       (∀ m x o, writeSide u t T c off n (.away m x o) bs = sendFrame m x o n (.piece .write) bs u))) ∧
    (findCopy T cmd = some c → completeReady s T c = true → mateOf T c = none → c.stop = false → c.bar = none →
      exec (.copyCommandComplete t cmd) s = .next (modCopy s t cmd (fun c => { c with finished := true }))) ∧
    (∀ b, findCopy T cmd = some c → completeReady s T c = true → mateOf T c = none → c.stop = false → c.bar = some b →
      exec (.copyCommandComplete t cmd) s = .next (barArrive (modCopy s t cmd (fun c => { c with finished := true })) t b)) ∧
    ((getGang s g).team = some t → oldestCopy T g = some c → c.finished = true → copyWorks s T c = true →
      ∃ u, exec (.copyCounterFall g) s = .next u ∧ (getGang u g).ncopy = (getGang s g).ncopy - 1 ∧
        (∀ U, getTeam u t = some U → U.copies = T.copies.filter (fun d => d.id != c.id))) ∧
    (∀ bs u, findCopy T cmd = some c → qPushReady s T c = true → queueRoom s T c = true → windowMissing s T c = false → c.held = none →
      wordPieces t T c 4 c.nextOff 4 s [] = (some bs, u) →
      exec (.copyQueuePush t cmd) s = .next (modCopy u t cmd (fun c =>
        { c with nextOff := c.nextOff + 4, qbuf := c.qbuf ++ [BitVec.ofNat 32 (leNat bs)] }))) ∧
    (∀ w r, findCopy T cmd = some c → takeReady s T c e = true → (getEng (getGang s c.gang) e).q0 = w :: r →
      ∃ u, exec (.cpygEntryTake t cmd e) s = .next u ∧ (getEng (getGang u c.gang) e).q0 = r)

/-! Device memory. -/

/-- A merged write changes the bytes it names and no other (08 R198). -/
def Obligations.MergedBytes : Prop :=
  ∀ (old : BitVec 256) (off len v i : Nat), off + len ≤ 32 → i < 32 →
    (mergeBytes old off len v).toNat / 2 ^ (8 * i) % 256 =
      (if off ≤ i ∧ i < off + len then v / 2 ^ (8 * (i - off)) % 256 else old.toNat / 2 ^ (8 * i) % 256)

/-- A write at a home is read back there: the bytes written, over what the sector held; not so where the sector was poisoned
and the write leaves some byte of it (08 R198, R204, R211). The keyed bypass to memory is left to the cipher. -/
def Obligations.HomeWriteReadsBack : Prop :=
  ∀ (s : State) (slice sec off len v key cls : Nat) (byp b : Bool), slice < 32 → off + len ≤ 32 → (byp = false ∨ key = 0) →
    ((slRead s slice sec key cls byp).2.1 = false ∨ len = 32) →
    (slRead (slWrite s slice sec off len v key cls byp) slice sec key cls b).1
        = mergeBytes (slRead s slice sec key cls byp).1 off len v ∧
    (slRead (slWrite s slice sec off len v key cls byp) slice sec key cls b).2.1 = false

/-- A write at a home whose line is held under the key of the write changes no other sector, but for a line of its set that gives
its way to the written one: where the set has a way left, or the line has one, nothing else changes; else the sectors that leave
are of one other line of the set (08 R198, R205). Which lines form a set is the model's choice (log entry 86, DESIGN CHOICE). -/
def Obligations.HomeWriteFrame : Prop :=
  ∀ (s : State) (slice sec off len v key cls : Nat) (byp : Bool), slice < 32 →
    (∀ q x, q ∈ lineSectors (sec / 8) → slGet s q slice = some x → x.key = key) →
    let t := slWrite s slice sec off len v key cls byp
    let others := (setLines s slice (sec / 8)).filter (· != sec / 8)
    ((linePresent s (sec / 8) slice = true ∨ others.length < slWays s slice (homeBank (256 * (sec / 8)))) →
      (∀ q, q ≠ sec → memSector t q = memSector s q ∧ (q ∈ t.memBad ↔ q ∈ s.memBad)) ∧
      (∀ q k, k < 32 → (q ≠ sec ∨ k ≠ slice) → slGet t q k = slGet s q k)) ∧
    (∀ q, q ≠ sec → q / 8 ∉ others → memSector t q = memSector s q ∧ (q ∈ t.memBad ↔ q ∈ s.memBad)) ∧
    (others ≠ [] → ∃ l, l ∈ others ∧ (∀ q, q ≠ sec → q / 8 ≠ l → memSector t q = memSector s q ∧ (q ∈ t.memBad ↔ q ∈ s.memBad)) ∧
      ∀ q k, k < 32 → (q ≠ sec ∨ k ≠ slice) → slGet t q k = slGet s q k ∨ (k = slice ∧ q / 8 = l ∧ slGet t q k = none)) ∧
    (∀ q k, k < 32 → (q ≠ sec ∨ k ≠ slice) → slGet t q k = slGet s q k ∨ (k = slice ∧ q / 8 ∈ others ∧ slGet t q k = none)) ∧
    t.priv = s.priv ∧ t.dev = s.dev ∧ t.gangs = s.gangs ∧ t.teams = s.teams ∧ t.keys = s.keys

/-- Homes serve reads and writes, and in one step an AMO, which leaves its operator's result and takes the old value, and a CAS,
which writes where the old value is the one it names (10 R241; 11 R264, R265); the shared level makes and drops replicas and lines, key slots are written (08 R198, R201–R205;
19 R401). Three points are the model's choice: an AMO or CAS reads its old value as with the bypass hint, so that a CAS which does
not write allocates no line, and writes with hint 0 (log entry 98, DESIGN CHOICE); one that a finished gang left is performed later
(log entry 15, DEDUCED); and a control core's access has class 0 (log entry 99, DESIGN CHOICE). -/
def Obligations.MemoryEvents : Prop :=
  ∀ (s : State) (g id k slice line n : Nat) (pa : BitVec 48) (key slot : BitVec 6) (data : List Byte) (dw : BitVec 2) (v : DWord),
    let G := getGang s g
    (∀ T a, findTxn G id = some T → T.accs[k]? = some a → accReady s g T k = true → a.op = .read → storeClass T.kind = false →
      ∃ t, exec (.homeRead (.txn g id k)) s = .next t ∧ ∃ U b, findTxn (getGang t g) id = some U ∧ U.accs[k]? = some b ∧ b.done = true ∧
        (withAcc T k a = [k] → b.got = BitVec.ofNat 512 (homeReadAt (noteReader (gangDie g) a.pa a.cls (spendFlit a.pa 0 s))
          G.team a.pa a.len a.key a.cls a.byp).1) ∧
        (∀ n c, n ∈ withAcc T k a → U.accs[n]? = some c → c.done = true)) ∧
    (∀ T a w, findTxn G id = some T → T.accs[k]? = some a → accReady s g T k = true → a.op = .write w → T.kind = .sts →
      ∃ t, exec (.homeWritePerform (.txn g id k)) s = .next t ∧ ∃ u,
          u = homeWriteAt (spendFlit a.pa 0 s) a.tag a.pa a.len w.toNat a.key a.cls a.byp ∧
          (∀ q, spGet 0 t.mem q = spGet 0 u.mem q) ∧ t.sl = u.sl ∧ t.priv = u.priv) ∧
    (∀ T a, findTxn G id = some T → (∃ r m, T.kind = .rmw r m) → T.accs = [a] → accReady s g T 0 = true →
      let u := publishSector (spendFlit a.pa 0 s) (a.pa / 32) (homeSlice s a.pa)
      let r := homeReadAt u none a.pa a.len a.key a.cls true
      let leaves (w : State) : Prop := ∃ t b, exec (.homeWritePerform (.txn g id 0)) s = .next t ∧
        findTxn (getGang t g) id = some { T with accs := [b] } ∧ b.done = true ∧ b.bad = false ∧ b.len = a.len ∧
        b.got = BitVec.ofNat 512 r.1 ∧ (∀ x, x ∈ (getGang t g).l1 → x.line ≠ a.pa / 64) ∧
        (∀ q, spGet 0 t.mem q = spGet 0 w.mem q) ∧ t.sl = w.sl ∧ t.priv = w.priv
      r.2.1 = false →
      (∀ op b, a.op = .amo op b → a.len = 4 ∨ a.len = 8 →
        let o := BitVec.ofNat (8 * a.len) r.1
        let y := BitVec.ofNat (8 * a.len) b.toNat
        let z := match op with
          | .add => o + y
          | .and => o &&& y
          | .or => o ||| y
          | .xor => o ^^^ y
          | .smin => if o.sle y then o else y
          | .smax => if y.sle o then o else y
          | .umin => if o.ule y then o else y
          | .umax => if y.ule o then o else y
          | .swap => y
        leaves (homeWriteAt r.2.2 a.tag a.pa a.len z.toNat a.key a.cls false)) ∧
      (∀ b c, a.op = .cas b c →
        (r.1 = c.toNat % 2 ^ (8 * a.len) →
          leaves (homeWriteAt r.2.2 a.tag a.pa a.len (b.toNat % 2 ^ (8 * a.len)) a.key a.cls false)) ∧
        (r.1 ≠ c.toNat % 2 ^ (8 * a.len) → leaves r.2.2))) ∧
    (leftReady s n = true → exec (.homeWritePerform (.left n)) s = .next (performLeft s n)) ∧
    (anyCore s = true → data.length ∈ [1, 2, 4, 8] → pa.toNat % data.length = 0 → isWindow pa.toNat = false → populated s pa.toNat = true →
      exec (.homeWritePerform (.core pa key data)) s
        = .next (homeWriteAt s none pa.toNat data.length (leNat data) key.toNat 0 false) ∧
      exec (.homeRead (.core pa key data)) s = .next (homeReadAt s none pa.toNat data.length key.toNat 0 false).2.2) ∧
    (replicaReady s slice line = true → exec (.replicaCreate slice line) s
      = .next { s with repl := s.repl ++ [(line, slice)], replBad := s.replBad.filter (fun r => !(r.1 / 8 == line && r.2 == slice)) }) ∧
    (exec (.replicaDrop slice line) s = .next { s with repl := s.repl.filter (fun r => r != (line, slice)) }) ∧
    (linePresent s line slice = true → slice < 32 → ∃ t, exec (.lineEviction slice line) s = .next t ∧ linePresent t line slice = false) ∧
    (exec (.keySlotWrite n 0 dw v) s = .next s) ∧
    (slot ≠ 0 → slice < 20 → ∃ t, exec (.keySlotWrite slice slot dw v) s = .next t ∧
      (keyVal t slice slot.toNat).toNat / 2 ^ (64 * dw.toNat) % 2 ^ 64 = v.toNat ∧
      (∀ d j, 64 * d + j ≠ 64 * slice + slot.toNat → keyVal t d j = keyVal s d j))

/-! Errors. -/

/-- Errors are logged, counted and acted on (08 R208–R211; 22 R427–R434). Two points are the model's choice: a site that the
module has not leaves the state as it is (log entry 6, DESIGN CHOICE), and a link that 16 replays take down stops the main side, one
that is starting too, as command 2 does, with an interrupt and the grace time (log entry 48, DEDUCED). -/
def Obligations.ErrorEvents : Prop :=
  ∀ (s : State) (g e n node link fails : Nat),
    let logged (t : State) : Prop := devGet t logBase = devGet s logBase + 1
    (g < 19200 → e < 16 → n < 2 ^ 14 →
      (∃ t, exec (.correctableError (.spad g e n)) s = .next t ∧ logged t ∧ (getGang t g).freezes = (getGang s g).freezes + 1) ∧
      (∃ t, exec (.uncorrectableError (.spad g e n)) s = .next t ∧ logged t ∧
        n ∈ (getHw (getGang t g) e).spadBad ∧ (unitErr t (gangUnit g)).lasting = true)) ∧
    (g < 19200 → e < 16 → n < 2 ^ 12 →
      (∃ t, exec (.uncorrectableError (.acc g e n)) s = .next t ∧ logged t ∧ n ∈ (getHw (getGang t g) e).accBad) ∧
      (3 ≤ windowCount s (gangUnit g) → ∃ t, exec (.correctableError (.acc g e n)) s = .next t ∧ logged t ∧
        (unitErr t (gangUnit g)).lasting = true)) ∧
    (∀ r, g < 19200 → ∃ t, exec (.uncorrectableError (.reg g r)) s = .next t ∧ logged t ∧
      r ∈ (getHw (getGang t g) (regHome r)).regBad) ∧
    (siteThere s (.near e n) = true → ∃ t, exec (.uncorrectableError (.near e n)) s = .next t ∧ logged t ∧ n ∈ t.memBad) ∧
    (siteThere s (.far e node n) = true → ∃ t, exec (.uncorrectableError (.far e node n)) s = .next t ∧ logged t ∧ n ∈ t.memBad) ∧
    (siteThere s (.near e n) = false → exec (.uncorrectableError (.near e n)) s = .next s) ∧
    (n < 64 → n % 16 < 8 → ∃ t, exec (.correctableError (.port n)) s = .next t ∧ logged t) ∧
    (node < 20 ∨ (32 ≤ node ∧ node < 52) → ∃ t, exec (.thymeVoteError node true) s = .next t ∧ logged t) ∧
    (node < 20 ∨ (32 ≤ node ∧ node < 52) →
      ∃ t, exec (.thymeVoteError node false) s = .next t ∧ (unitErr t (nodeUnit node)).lasting = true) ∧
    (linkThere link = true → s.mgmt.side ≠ 0 → s.mgmt.side ≠ 4 →
      (fails < 16 → ∃ t, exec (.linkFlitError link fails) s = .next t ∧ logged t) ∧
      (16 ≤ fails → ∃ t, exec (.linkFlitError link fails) s = .next t ∧ link ∈ t.mgmt.deadLinks ∧
        (s.mgmt.side = 2 ∨ (s.mgmt.side = 1 ∧ s.mgmt.retry = false) →
          t.mgmt.side = 3 ∧ t.mgmt.grace = s.tick + graceTicks s))) ∧
    (∃ t, exec .errorLogClear s = .next t ∧ devGet t logBase = 0 ∧ ∀ a, a < logBase → devBase ≤ a → devGet t a = devGet s a)

/-! Gangs. -/

/-- Freezes end, deferred traps are taken, gangs are captured, finish, resume, halt and step, the spare is granted and handed
over, the watchdog expires (08 R209; 13 R305–R310; 14 R325; 21 R411–R417, R425). What a save area holds after it is written, field by
field, and 0 elsewhere; the cause record, reason, registers and path records that a trap leaves in it; and the registers, engines and
path records that a resume takes from it (21 R418–R422, R424). That a step command on a gang that is not halted acts as a resume is
the model's choice (log entry 60, DEDUCED). -/
def Obligations.GangEvents : Prop :=
  ∀ (s : State) (g pair die gang : Nat) (p : PathSlot) (c : Cause),
    let G := getGang s g
    let h := gangAt die gang
    (∀ pa why k tw, pa % 2 ^ 16 = 0 →
      let fields := (gangFields s g why k tw).filter (fun f => f.2.2 != 0)
      fields.Pairwise (fun x y => x.1 + x.2.1 ≤ y.1 ∨ y.1 + y.2.1 ≤ x.1) →
      (∀ f, f ∈ fields → f.2.2 < 2 ^ (8 * f.2.1) ∧ f.1 + f.2.1 ≤ 0x60000) →
      (∀ f, f ∈ fields → areaNat (writeArea s g pa why k tw) (pa + f.1) f.2.1 = f.2.2) ∧
      ∀ i, i < 0x60000 → (∀ f, f ∈ fields → i < f.1 ∨ f.1 + f.2.1 ≤ i) → areaByte (writeArea s g pa why k tw) (pa + i) = 0) ∧
    (∀ t T, captureReady s g (· == .trap) = true → G.team = some t → getTeam s t = some T → G.txns = [] → s.priv = [] →
      savePa s g T.slot % 2 ^ 16 = 0 → (∀ x, x ∈ G.s → x.1 < 64) → (∀ x, x ∈ G.lc → x.1 < 4) → (G.s.map (·.1)).Nodup →
      let pa := savePa s g T.slot
      ∃ u, exec (.trapEntry g) s = .next u ∧ areaNat u pa 32 = causeRec s G.cause ∧ areaNat u (pa + 0x28) 8 % 8 = 2 ∧
        (∀ x, x ∈ G.s → areaNat u (pa + 0x100 + 8 * x.1) 8 = x.2.toNat) ∧
        (∀ q, let P := getPath G q
          let v := areaNat u (pa + pathOff q) 32
          nbits v 255 204 = P.pc.toNat ∧ nbits v 203 152 = P.lnk.toNat ∧ nbits v 151 136 = P.mask.toNat ∧
          nbits v 119 118 = enteringNo P.entering ∧ v.testBit 117 = P.live ∧ v.testBit 116 = P.onspare ∧ v.testBit 115 = (G.turn == q))) ∧
    (∀ v, v = causeRec s (some c) →
      nbits v 1 0 = 1 ∧ nbits v 63 2 = 0 ∧ nbits v 95 64 = (ptime s).toNat % 2 ^ 32 ∧ nbits v 103 96 = c.cause.toNat ∧
      v.testBit 106 = (c.path == .B) ∧ v.testBit 107 = c.deferred ∧ nbits v 111 108 = c.slot.toNat ∧ nbits v 119 112 = c.opc.toNat ∧
      nbits v 135 120 = c.code.toNat ∧ nbits v 151 136 = c.emask.toNat ∧ nbits v 203 152 = c.pc.toNat ∧ nbits v 255 204 = c.va.toNat) ∧
    (∀ t T S, getTeam s t = some T →
      let pa := savePa s g T.slot
      let R := getGang (resumeGang s g t S) g
      areaBad s pa 0x60000 = false → areaRsv ⟨s, pa⟩ (T.gangs.any (fun h => decide (h < g))) = false →
      R.team = some t ∧ R.abase = BitVec.ofNat 52 (areaNat s (pa + 0x310) 8) ∧
      (∀ r, r < 64 → sReg R r = BitVec.ofNat 64 (areaNat s (pa + 0x100 + 8 * r) 8)) ∧
      (∀ r, r < 4 → spGet 0 R.lc r = BitVec.ofNat 32 (areaNat s (pa + 0x300 + 4 * r) 4)) ∧
      (∀ q, let v := areaNat s (pa + pathOff q) 32
        (getPath R q).pc = BitVec.ofNat 52 (nbits v 255 204) ∧ (getPath R q).lnk = BitVec.ofNat 52 (nbits v 203 152) ∧
        (getPath R q).mask = BitVec.ofNat 16 (nbits v 151 136) ∧ (getPath R q).live = v.testBit 117) ∧
      ∀ e r, e < 16 →
        let b := pa + 0x10000 + 0x5000 * e
        (r < 32 → vRegE (getEng R e) r = BitVec.ofNat 512 (areaNat s (b + 64 * r) 64)) ∧
        (r < 128 → mRow (getEng R e) (r / 16) (r % 16) = BitVec.ofNat 512 (areaNat s (b + 0x800 + 64 * r) 64)) ∧
        (r < 16 → xRegE (getEng R e) r = BitVec.ofNat 32 (areaNat s (b + 0x2800 + 4 * r) 4)) ∧
        (0 < r → r < 8 → pRegE (getEng R e) r = BitVec.ofNat 16 (areaNat s (b + 0x2840 + 2 * r) 2))) ∧
    (G.frozen = 1 → G.freezes = 0 → ∃ t, exec (.freezeEnd g) s = .next t ∧ (getGang t g).frozen = 0) ∧
    (G.frozen = 1 → 0 < G.freezes → ∃ t, exec (.freezeEnd g) s = .next t ∧ (getGang t g).frozen = 48 ∧
      (getGang t g).freezes + 1 = G.freezes) ∧
    (deferredReady G = true → G.defCause = some c → ∃ t, exec (.deferredTrap g) s = .next t ∧
      (getGang t g).cause = some (placeCause G c) ∧ (getGang t g).defCause = none) ∧
    (captureReady s g (fun r => r == .preempt || r == .halt) = true → exec (.preemptCapture g) s = .next (capture s g)) ∧
    (captureReady s g (· == .trap) = true → exec (.trapEntry g) s = .next (capture s g)) ∧
    (captureReady s g (· == .partner) = true → exec (.partnerStop g) s = .next (capture s g)) ∧
    (captureReady s g (· == .partner) = false → partnerAsks s g = true → ∃ t, exec (.partnerStop g) s = .next t ∧
      (getGang t g).stopReq = some .partner ∧ (getGang t g).stopAt = G.gc + 1) ∧
    (spareWinner s pair = some g → ∃ t, exec (.spareGrant pair) s = .next t ∧ (getGang t g).spare = true ∧
      (getGang t g).handoverEnd = some (G.gc + 6) ∧ (getGang t g).b.onspare = true ∧ (getGang t g).spareReq = false) ∧
    (handoverDue G = true → ∃ t, exec (.spareHandoverEnd g) s = .next t ∧ (getGang t g).handoverEnd = none ∧ SameRegs G (getGang t g)) ∧
    (∀ a, (getPath G p).resolveAt = some a → resolveReady G p = true → exec (.pathResolve g p) s = .next (recheckTeam (resolveLoop g p a 300 s) g)) ∧
    (finishReady G = true → exec (.gangFinish g) s = .next (finishGang s g)) ∧
    (finishReady G = true → ∃ t, exec (.gangFinish g) s = .next t ∧ (getGang t g).team = none) ∧
    ((getGang s h).run = .halted → exec (.resumeCommand die gang) s = .next (resumeHalted s h)) ∧
    ((getGang s h).run ≠ .halted → exec (.resumeCommand die gang) s = .next (resumeTrapped s h)) ∧
    ((getGang s h).run = .run → (getGang s h).stopReq = none → ∃ t, exec (.haltCommand die gang) s = .next t ∧
      (getGang t h).stopReq = some .halt ∧ (getGang t h).stopAt = (getGang s h).gc + 1 ∧ SameRegs (getGang s h) (getGang t h)) ∧
    ((getGang s h).run = .halted → exec (.stepCommand die gang) s = .next (
      let u := resumeHalted s h
      if (getGang u h).run != .run then u else if (stepPaths (getGang u h)).isEmpty then stopGang u h .halt
      else modGang u h (fun G => { G with stepLeft := some (stepPaths (getGang u h)) }))) ∧
    ((getGang s h).run ≠ .halted → exec (.stepCommand die gang) s = .next (resumeTrapped s h)) ∧
    (watchdogReady s g = true → G.cause = none → ∃ t, exec (.watchdogExpiry g) s = .next t ∧
      (∃ x, (getGang t g).cause = some x ∧ x.cause = 0x0E) ∧ (getGang t g).stopReq = some .trap)

/-! Thyme, barriers and package time. -/

/-- A round's result reaches every member that still takes one, with an acquire, and the broadcast that is due every gang of its
channel that hears it, at once or, where a gang is frozen, stopped or saved, in what it takes first when it goes on; others of the
channel wait for the next tick. A signal reaches the gangs of its context's named teams, each asked to stop at its boundary, and no
other. Phases complete, waiting paths resume, package time passes (09 R217, R219, R220, R222, R227, R228; 10 R246; 11 R281, R282,
R284). -/
def Obligations.ThymeEvents : Prop :=
  ∀ (s : State) (ctx ch v t b g : Nat) (teams : List Nat),
    let got (u : State) (m : Nat × Nat) (h : Held) : Prop :=
      let G := getGang s m.2
      (G.team = some m.1 → landsNow G = true → getGang u m.2 = takeHeld { G with heldThyme := G.heldThyme ++ [h] }) ∧
      (G.team = some m.1 → landsNow G = false → getGang u m.2 = { G with heldThyme := G.heldThyme ++ [h] }) ∧
      (∀ T S, G.team ≠ some m.1 → getTeam s m.1 = some T → spFind T.saved m.2 = some S →
        ∃ U, getTeam u m.1 = some U ∧ spFind U.saved m.2 = some { S with heldThyme := S.heldThyme ++ [h] })
    (∀ r, roundDue s ctx ch v = some r → ∃ u, exec (.thymeRoundResult ctx ch v) s = .next u ∧
      u.rounds = s.rounds.filter (fun q => q != r) ∧ u.tick = s.tick ∧
      (r.members.Nodup → ∀ m, m ∈ r.members → stillMember s ctx (chGrid s ctx ch) m = true → got u m (.round ch r.num (roundValue r))) ∧
      (∀ h, (∀ m, m ∈ r.members → m.2 ≠ h) → getGang u h = getGang s h)) ∧
    (∀ x, sbcDue s ctx ch v = some x → ∃ u, exec (.sbcDelivery ctx ch v) s = .next u ∧ u.sbcs.length + 1 = s.sbcs.length ∧
      u.sbcs = (s.sbcs.erase x).map (fun y =>
        if y.ctx = ctx ∧ y.ch = ch ∧ y.vd = v ∧ y.due ≤ s.tick then { y with due := s.tick + 1 } else y) ∧
      ((hearers s ctx ch v).Nodup → ∀ m, m ∈ hearers s ctx ch v → got u m (.sbc ch x.v)) ∧
      (∀ h, (∀ m, m ∈ hearers s ctx ch v → m.2 ≠ h) → getGang u h = getGang s h)) ∧
    (∀ (G : Gang) (n : Nat) (val : Option Word) (w : DWord), G.heldThyme = [] →
      (let H := takeHeld { G with heldThyme := [.round ch n val] }
       H.heldThyme = [] ∧ H.l1 = [] ∧ H.s = G.s ∧ H.ilks = G.ilks.map (fun k =>
         if k.src = .sred ch n then { k with src := .at G.gc ((val.getD 0).setWidth 64) } else k)) ∧
      (ch < 64 → takeHeld { G with heldThyme := [.sbc ch w] }
        = { G with latch := spSet 0 G.latch ch w, fresh := G.fresh ||| BitVec.twoPow 64 ch })) ∧
    (exec (.preemptSignalIssue ctx teams) s = .next { s with signals := s.signals ++
      [⟨teams.filter (fun t => match getTeam s t with | some T => T.ctx == ctx | none => false), s.tick + 14 + 3 * ctxDiam s ctx⟩] }) ∧
    (∀ x, signalDue s = some x → ∃ u, exec .preemptSignalDelivery s = .next u ∧ u.signals = s.signals.erase x ∧
      let named (h : Nat) : Prop := ∃ t T, t ∈ x.teams ∧ getTeam s t = some T ∧ h ∈ T.gangs ∧ (getGang s h).team = some t
      ∀ h, let G := getGang s h
        (¬ named h → getGang u h = G) ∧
        (named h → G.stopReq = none → G.run = .run ∨ G.run = .finishing →
          getGang u h = { G with stopReq := some .preempt, stopAt := G.gc + 1 }) ∧
        (named h → G.stopReq = some .trap ∨ G.stopReq = some .halt ∨ G.run = .stopped .trap ∨ G.run = .stopped .halt →
          getGang u h = { G with preempted := true }) ∧
        (named h → G.stopReq = none → G.run = .halted → getGang u h = { G with stopReq := some .preempt })) ∧
    ((teamBar s t b).due = true → exec (.barrierPhaseComplete t b) s = .next (completePhase s t b)) ∧
    (∀ T p, getTeam s t = some T → T.gangs = [g] → (getGang s g).team = some t → (getGang s g).run = .run → (getGang s g).frozen = 0 →
      waiterDue s b (getPath (getGang s g) p) = true →
      ∃ u, exec (.barrierWaiterResume t b) s = .next u ∧ (getPath (getGang u g) p).hold = .none ∧ (getGang u g).l1 = []) ∧
    (s.sub = 3 → exec .packageTimeTick s = .next { s with tick := s.tick + 1, sub := 0 })

/-! Barista. -/

/-- Records arrive, are accepted, return from the ring, are dispatched and start; teams switch; records migrate; what ages and
waits in the fabric (15 R338–R360, R442). That a poisoned image in the ring ends its context, and that a team start made again walks
anew, are the model's choices (log entries 120, DEDUCED, and 116, DESIGN CHOICE), as is the escape wait (log entry 88, DESIGN
CHOICE). -/
def Obligations.BaristaEvents : Prop :=
  ∀ (s : State) (core bank die t g src dst pkt tag amount : Nat) (v : DWord),
    let d := bank / 16
    let b := bank % 16
    (core < 64 → coreRuns s core = true → bank < 320 → ∃ u, exec (.recordSubmitWindow core bank v) s = .next u ∧
      (bankAt u d b).arr.length = (bankAt s d b).arr.length + 1 ∧ (bankAt u d b).recs = (bankAt s d b).recs) ∧
    (∀ c a, nextArrival s d b = some (c, a) → rejectCode s d b c a.bits ≠ 0 →
      exec (.recordAccept bank) s = .next (rejectLog (dropArrival s d b a) d b c (rejectCode s d b c a.bits) a.bits)) ∧
    (∀ c a, nextArrival s d b = some (c, a) → rejectCode s d b c a.bits = 0 → (isGrid a.bits && recPin a.bits) = false →
      exec (.recordAccept bank) s = .next (enterRecord (dropArrival s d b a) d b a.bits [])) ∧
    (∀ c a, nextArrival s d b = some (c, a) → rejectCode s d b c a.bits = 0 → (isGrid a.bits && recPin a.bits) = true →
      exec (.recordAccept bank) s = .next (acceptPinned s d b c a)) ∧
    (∀ r, overflowReady s d b = true → oldestRec (bankAt s d b).ring = some r → ringBad s d b r = false →
      exec (.overflowReturn bank) s = .next (settleBank d b 1025 (ringTake s d b r)) ∧
      (bankAt (ringTake s d b r) d b).recs = (bankAt s d b).recs ++ [ringRead s d b r] ∧
      (bankAt (ringTake s d b r) d b).ring = (bankAt s d b).ring.filter (fun q => q.id != r.id)) ∧
    (∀ x, (bankAt s d b).decs.find? (fun x => x.tag == tag && x.amount == amount && decReady s x) = some x → x.gang = none →
      exec (.tagDecrement bank tag amount) s = .next (settleBank d b 1025 (modBank s d b (fun B => wakeRecs s.tick { B with
        decs := B.decs.erase x, tags := spSet 0 B.tags tag (spGet 0 B.tags tag - amount) })))) ∧
    (∀ k r u, (getDie s die).lastSel + 4 ≤ nowCyc s → bestRec s.tick (dispatchList s die) = some (k, r) → grantRecord s die k r = some u →
      exec (.dispatchSelect die) s = .next (modDie u die (fun D => { D with lastSel := nowCyc s }))) ∧
    (∀ r, overflowReady s d b = true → oldestRec (bankAt s d b).ring = some r → ringBad s d b r = true →
      exec (.overflowReturn bank) s = .next (settleBank d b 1025 (ringEnds s d b))) ∧
    (∀ T r u, getTeam s t = some T → startReadyTeam s T = true → (∀ g, g ∈ T.gangs → gangIdle s g = true ∧ (getGang s g).incoming = none) →
      readArgs T.die T.ctx (T.gangs.flatMap (fun g => (argAddrs T (gangIndex T g)).2)) (if T.startFault then dropWalks (agDisp T.die) s else s)
        = (r, u) → r.absent = [] → r.ends = none →
      exec (.teamStart t) s = .next (modTeam (startGangs t T true T.gangs r.vals u) t
        (fun T => { T with run := .running, since := s.tick, ranAt := s.tick, startFault := false }))) ∧
    (captureReady s g (· == .switch) = true → exec (.teamSwitch g) s = .next (capture s g)) ∧
    (∀ w, captureReady s g (· == .switch) = false → gangIdle s g = true → (getGang s g).frozen = 0 → idleChoice s g = some w →
      exec (.teamSwitch g) s = .next (switchIn s w)) ∧
    (∀ x, switchChoice s g (fun U _ => stalledTeam s U) = some x → exec (.switchThresholdExpiry g) s = .next (switchTo s x.1)) ∧
    (∀ x, switchChoice s g (quantumDue s) = some x → exec (.quantumExpiry g) s = .next (switchTo s x.1)) ∧
    (∀ k r m, migrateReady s src dst = true → migrant s src dst = some (k, r) → roomBank s (recCtx r.bits) dst = some m → src ≠ dst →
      ((bankAt s src k).ring.any (fun x => x.id == r.id) && ringBad s src k r) = false → ∃ u q, exec (.migrationSend src dst) s = .next u ∧ (bankAt u dst m).recs = (bankAt s dst m).recs ++ [{ q with tag := 0 }] ∧
        q = (if (bankAt s src k).ring.any (fun x => x.id == r.id) then ringRead s src k r else r) ∧
        (bankAt u src k).recs = (bankAt s src k).recs.filter (fun q => q.id != r.id)) ∧
    (escapeReady s pkt = true → exec (.escapeWaitExpiry pkt) s
      = .next { s with pkts := s.pkts.map (fun p => if p.id = pkt then { p with escape := true } else p) }) ∧
    ((∀ x, x ∈ s.gangs → switchChoice (ageAll s) x.1 (prioDue (ageAll s)) = none) →
      exec .priorityAgeing s = .next (ageAll s)) ∧
    (refillReady s = true → exec .budgetWindowRefill s = .next { s with budget := [] })

/-! Contexts and device windows. -/

/-- Contexts are activated or refused and end; translations are unmapped; faults are answered: a retried entry is freed, the oldest
wait of a context with fewer than 16 takes a free one, and a path that no other entry and no wait holds is held no more. Pieces from
other modules, and cache commands, are answered; and writes to the windows do what their register says: context blocks, bank pages,
fault buffers, the gang control page, key slots, home ranges, incoming windows, the logs' read indices and the management window
(19 R382–R403; 15 R346; 21 R417; 22 R433, R440). The model's choices: an end of a context that is not active changes nothing (log entry 6,
DESIGN CHOICE), a piece from another module is of class 0 and hint 0 (log entry 59, DESIGN CHOICE), and a write of less than a
doubleword keeps the other bytes (log entry 90, DEDUCED). -/
def Obligations.ContextEvents : Prop :=
  ∀ (s : State) (ctx die n core : Nat) (cause : BitVec 8) (va v : DWord) (loc : BitVec 24) (pa : BitVec 48) (p : RemotePiece),
    (ctx < 4096 → ctxState s ctx = 0 → activationOk s ctx = true →
      ∃ t, exec (.contextActivate ctx) s = .next t ∧ ctxState t ctx = 1 ∧ ctxNdie t ctx = vdCount s ctx ∧ ctxDiam t ctx = diameter s ctx) ∧
    (ctx < 4096 → ctxState s ctx = 0 → activationOk s ctx = false → ∃ t, exec (.contextActivate ctx) s = .next t ∧ ctxState t ctx = 3) ∧
    (ctx < 4096 → ctxState s ctx = 1 → ∃ t, exec (.contextEnd ctx cause va loc) s = .next t ∧ ctxState t ctx = 2) ∧
    (ctxState s ctx ≠ 1 → exec (.contextEnd ctx cause va loc) s = .next s) ∧
    (ctx < 4096 → unmapOf s ctx = none → unmapBad v = false → ∃ t, exec (.unmapCommand ctx v) s = .next t ∧
      t.unmaps = s.unmaps ++ [⟨ctx, s.tick, unmapPage v, unmapCount v, []⟩] ∧ (devGet t (statusAddr ctx)).getLsbD 0 = true) ∧
    (∀ u, unmapOf s ctx = some u → unmapReady s ctx = true → u.next = [] → ∃ t, exec (.unmapComplete ctx) s = .next t ∧
      unmapOf t ctx = none ∧ (devGet t (statusAddr ctx)).getLsbD 0 = false) ∧
    (die < 20 → n < 32 → fbState s die n = 1 → (getDie s die).waits = [] →
      ∃ t, exec (.faultRetry die n) s = .next t ∧ fbState t die n = 0) ∧
    (∀ m w, die < 20 → n < 32 → fbState s die n = 1 → fbFree (fbWrite s die n 0) die = some m →
      (getDie s die).waits.find? (fun w => fbCount (fbWrite s die n 0) die (imgCtx w.img) < 16) = some w →
      ∃ t, exec (.faultRetry die n) s = .next t ∧ fbImage t die m = w.img ∧ (getDie t die).waits = (getDie s die).waits.erase w ∧
        t.irqs = s.irqs ++ [.fault die] ∧ (∀ k, k < 32 → k ≠ m → k ≠ n → fbImage t die k = fbImage s die k) ∧
        (m ≠ n → fbState t die n = 0)) ∧
    (∀ g q T, die < 20 → n < 32 → fbState s die n = 1 → gangDie g = die → gangTeam s g = some T → T.ctx < 4096 →
      let holds (v : BitVec 256) : Prop := imgCtx v = T.ctx ∧ (imgKind v = 1 ∨ imgKind v = 3) ∧
        nbits v.toNat 183 160 = locator s T.ctx g 0 ∧ nbits v.toNat 144 144 = (if q = PathSlot.A then 0 else 1)
      (∀ k, k < 32 → k ≠ n → fbState s die k ≠ 0 → ¬ holds (fbImage s die k)) → (∀ w, w ∈ (getDie s die).waits → ¬ holds w.img) →
      ∃ t, exec (.faultRetry die n) s = .next t ∧ pathFaulted t g q = false) ∧
    (die < 20 → n < 32 → fbState s die n = 1 → exec (.faultAbort die n) s = .next (endContext s
      (nbits (fbImage s die n).toNat 203 192) 0x08 (nbits (fbImage s die n).toNat 255 204) (nbits (fbImage s die n).toNat 183 160))) ∧
    (pieceAllowed s p = false →
      exec (.remotePieceArrival p) s = .next (sendFrame p.src.toNat p.iwin.toNat p.off.toNat p.len .refused [] s)) ∧
    (∀ a, pieceAllowed s p = true → p.op = .read → 0 < p.len →
      a = dbits (devGet s (iwinBase + 16 * p.iwin.toNat + 8)) 47 16 * 2 ^ 16 + p.off.toNat → a % 32 + p.len ≤ 32 →
      isWindow a = false → populated s a = true →
      let r := homeReadAt s none a p.len (dbits (devGet s (iwinBase + 16 * p.iwin.toNat)) 37 32) 0 false
      exec (.remotePieceArrival p) s = .next (if r.2.1 then sendFrame p.src.toNat p.iwin.toNat p.off.toNat p.len .failed [] r.2.2
        else sendFrame p.src.toNat p.iwin.toNat p.off.toNat p.len .done (leBytes p.len r.1) r.2.2)) ∧
    (∀ a, pieceAllowed s p = true → p.op = .write → 0 < p.len →
      a = dbits (devGet s (iwinBase + 16 * p.iwin.toNat + 8)) 47 16 * 2 ^ 16 + p.off.toNat → a % 32 + p.len ≤ 32 →
      isWindow a = false → populated s a = true → exec (.remotePieceArrival p) s = .next
        (sendFrame p.src.toNat p.iwin.toNat p.off.toNat p.len .done [] (homeWriteAt s none a p.len
          (leNat (p.data.take p.len)) (dbits (devGet s (iwinBase + 16 * p.iwin.toNat)) 37 32) 0 false))) ∧
    (let a := dbits (devGet s (iwinBase + 16 * p.iwin.toNat + 8)) 47 16 * 2 ^ 16 + p.off.toNat
     let key := dbits (devGet s (iwinBase + 16 * p.iwin.toNat)) 37 32
     let n₁ := 32 - a % 32
     let answer (kind : FrameKind) (bs : List Byte) (t : State) : Host.Outcome State Fault Refusal :=
       .next (sendFrame p.src.toNat p.iwin.toNat p.off.toNat p.len kind bs t)
     pieceAllowed s p = true → isWindow a = false → isWindow (a + 32) = false → populated s a = true →
     (p.op = .read → n₁ < p.len → p.len ≤ n₁ + 32 →
       let r₁ := homeReadAt s none a n₁ key 0 false
       let r₂ := homeReadAt r₁.2.2 none (a + n₁) (p.len - n₁) key 0 false
       populated r₁.2.2 (a + n₁) = true → exec (.remotePieceArrival p) s =
         (if r₁.2.1 || r₂.2.1 then answer .failed [] r₂.2.2
          else answer .done (leBytes n₁ r₁.1 ++ leBytes (p.len - n₁) r₂.1) r₂.2.2)) ∧
     (p.op = .write → n₁ < p.len → p.len ≤ n₁ + 32 →
       let t := homeWriteAt s none a n₁ (leNat (p.data.take n₁)) key 0 false
       populated t (a + n₁) = true → exec (.remotePieceArrival p) s = answer .done []
         (homeWriteAt t none (a + n₁) (p.len - n₁) (leNat ((p.data.drop n₁).take (p.len - n₁))) key 0 false)) ∧
     (p.op = .flush → 0 < p.len → p.len ≤ n₁ → exec (.remotePieceArrival p) s = answer .done [] (writeBack s (a / 32) (homeSlice s a))) ∧
     (p.op = .drop → 0 < p.len → p.len ≤ n₁ → exec (.remotePieceArrival p) s = answer .done []
       (dropReplicas (evictLine s (a / 32 / 8) (homeSlice s a)) (a / 32 / 8)))) ∧
    (let place (x : Nat) : Prop := pa.toNat = devBase + x
     let wr := exec (.deviceRegisterWrite core pa ⟨8, v⟩) s
     let a := pa.toNat
     let sets (kept : Nat → Prop) : Prop := ∃ x, wr = .next (devSet s a x) ∧ ∀ i, i < 64 →
       (kept i → x.getLsbD i = (devGet s a).getLsbD i) ∧ (¬ kept i → x.getLsbD i = v.getLsbD i)
     (core < 64 → coreRuns s core = true) →
     (∀ off, ctx < 4096 → off % 8 = 0 → place (0x4000 * ctx + off) →
       (0 < off ∧ off < 0x28 ∨ 0x100 ≤ off ∧ off < 0x240 ∨ 0x400 ≤ off ∧ off < 0x800 ∨ 0xC00 ≤ off ∧ off < 0x3400 →
         wr = .next (devSet s a v)) ∧
       (off = 0x28 → sets (fun i => i ≤ 3 ∨ (8 ≤ i ∧ i ≤ 15))) ∧ (off = 0x30 → sets (fun i => 32 ≤ i)) ∧
       (0x800 ≤ off → off < 0xC00 → off % 16 = 0 → sets (fun i => i = 15 ∨ (32 ≤ i ∧ i ≤ 47))) ∧
       (off = 0x38 ∨ off = 0x48 → wr = .next s) ∧ (off = 0x40 → wr = exec (.unmapCommand ctx v) s) ∧
       (off = 0 → v.toNat % 4 = 1 → ctxState s ctx = 0 → wr = exec (.contextActivate ctx) (devSet s a (dput v 1 0 0))) ∧
       (off = 0 → v.toNat % 4 = 2 → ctxState s ctx = 1 → wr = exec (.contextEnd ctx 0 0 0) (devSet s a (dput v 1 0 1))) ∧
       (off = 0 → v.toNat % 4 = 0 → ctxState s ctx ≠ 1 → wr = .next (devSet s a (dput v 1 0 0)))) ∧
     (∀ b o, die < 20 → b < 16 → o % 8 = 0 → place (0x10000000 + 0x100000 * die + 0x1000 * b + o) →
       (o < 0x38 → ∃ t, wr = .next t ∧
         (∀ i, i < 8 → spGet 0 (bankAt t die b).stage (64 * core + o + i) = BitVec.ofNat 8 (v.toNat / 2 ^ (8 * i))) ∧
         (∀ k, k < 64 * core + o ∨ 64 * core + o + 8 ≤ k → spGet 0 (bankAt t die b).stage k = spGet 0 (bankAt s die b).stage k) ∧
         (bankAt t die b).recs = (bankAt s die b).recs ∧ (bankAt t die b).arr = (bankAt s die b).arr) ∧
       (o = 0x38 → wr = exec (.recordSubmitWindow core (16 * die + b) v) s) ∧
       (o = 0x40 → ∃ t, wr = .next t ∧ devGet t a = v ∧ (bankAt t die b).tags = [] ∧ (bankAt t die b).decs = [] ∧
         (bankAt t die b).recs = (bankAt s die b).recs) ∧
       (o = 0x48 ∨ o = 0x50 → wr = .next (devSet s a v))) ∧
     (die < 20 → n < 32 → place (0x10010000 + 0x100000 * die + 32 * n) →
       (v.toNat % 4 = 2 → wr = exec (.faultRetry die n) s) ∧ (v.toNat % 4 = 3 → wr = exec (.faultAbort die n) s) ∧
       (v.toNat % 4 < 2 → wr = .next s)) ∧
     (die < 20 → place (0x10011000 + 0x100000 * die) → dbits v 63 13 = 0 → dbits v 9 0 < 960 →
       (dbits v 12 10 = 1 → wr = exec (.haltCommand die (dbits v 9 0)) s) ∧
       (dbits v 12 10 = 2 → wr = exec (.resumeCommand die (dbits v 9 0)) s) ∧
       (dbits v 12 10 = 3 → wr = exec (.stepCommand die (dbits v 9 0)) s)) ∧
     (∀ (slot : BitVec 6) (dw : BitVec 2), slot ≠ 0 →
       (n < 20 → place (0x20000000 + 0x10000 * n + 32 * slot.toNat + 8 * dw.toNat) → wr = exec (.keySlotWrite n slot dw v) s) ∧
       (place (0x201F0000 + 32 * slot.toNat + 8 * dw.toNat) → wr = exec (.keySlotWrite 20 slot dw v) s)) ∧
     (∀ k, place k → k % 8 = 0 → 0x30000000 ≤ k ∧ k < 0x30000200 ∨ 0x30010000 ≤ k ∧ k < 0x30010400 → wr = .next (devSet s a v)) ∧
     (place 0x40000008 → wr = .next (if core < 64 then devSet s a v else s)) ∧
     (place 0x40000010 → wr = .next (if core < 64 then s else devSet s a v)) ∧
     (∀ k, place (0x50000000 + k) → k < 0x1000 → k % 8 = 0 → (core < 64 → wr = .next s) ∧ (64 ≤ core →
       (k = 0x18 → 1 ≤ v.toNat % 2 ^ 16 → v.toNat % 2 ^ 16 ≤ 3600 → wr = .next (devSet s a (BitVec.ofNat 64 (v.toNat % 2 ^ 16)))) ∧
       (k = 0x20 → wr = .next (devSet s a (BitVec.ofNat 64 (v.toNat % 2 ^ 16)))) ∧
       (k = 0x10 → v.toNat % 8 = 2 → wr = exec .stopCommand s) ∧ (k = 0x10 → v.toNat % 8 = 4 → wr = exec .immediateOff s) ∧
       (k = 0x10 → v.toNat % 8 = 5 → wr = exec .clearStepRecord s) ∧
       (k = 0x10 → v.toNat % 8 = 6 → wr = exec (.clearLastingMark (dbits v 31 24) (dbits v 23 8)) s) ∧
       (k = 0x10 → v.toNat % 8 = 1 → ∃ o, wr = exec (.startCommand o) { s with free := s.free + 1 }) ∧
       (k = 0x10 → v.toNat % 8 = 3 → ∃ o, wr = exec (.restartCommand o) { s with free := s.free + 1 })))) ∧
    (∀ size, size ∈ [1, 2, 4, 8] → pa.toNat % size = 0 → (core < 64 → coreRuns s core = true) → devBase + 0x30000000 ≤ pa.toNat → pa.toNat < devBase + 0x30000200 →
      ∃ t, exec (.deviceRegisterWrite core pa ⟨size, v⟩) s = .next t ∧
        devGet t (pa.toNat / 8 * 8) = putSized (devGet s (pa.toNat / 8 * 8)) (pa.toNat % 8) size v ∧
        ∀ a, a % 8 = 0 → devBase ≤ a → a ≠ pa.toNat / 8 * 8 → devGet t a = devGet s a)

/-! The management controller. -/

/-- Start, stop, restart and power events, firmware and readings (22 R436–R441). The model's choices: a start command while the main
side runs changes nothing (log entry 6, DESIGN CHOICE), an immediate off during a start step counts as that step failed (log entry
63, DEDUCED), and CLEAR_LASTING_MARK clears the mark in every region (log entry 65, DEDUCED). -/
def Obligations.ManagementEvents : Prop :=
  ∀ (s : State) (o : StartOutcome) (uclass uidx region : Nat) (version : DWord) (ok : Bool) (power reading : BitVec 16),
    (mgmtIdle s = true → exec (.startCommand o) s = .next (attempt o s)) ∧
    (mgmtIdle s = false → exec (.startCommand o) s = .next s) ∧
    (s.mgmt.side = 2 → ∃ t, exec (.restartCommand o) s = .next t ∧ t.mgmt.side = 3 ∧ t.mgmt.restart = some o) ∧
    (mgmtIdle s = true → exec (.restartCommand o) s = .next (attempt o s)) ∧
    (s.mgmt.retry = true → exec (.startAttemptRetry o) s = .next (attempt o s)) ∧
    (s.mgmt.retry = false → s.mgmt.side = 1 → exec (.startAttemptRetry o) s = .next (runFrom (max 1 s.mgmt.step) o s)) ∧
    (s.mgmt.side = 2 → ∃ t, exec .stopCommand s = .next t ∧ t.mgmt.side = 3 ∧ t.mgmt.grace = s.tick + graceTicks s ∧
      t.irqs = s.irqs ++ [.stop]) ∧
    (s.mgmt.side = 3 → s.mgmt.grace ≤ s.tick → s.mgmt.restart = none → ∃ t, exec .stopGraceExpiry s = .next t ∧ t.mgmt.side = 0 ∧
      t.gangs = [] ∧ t.teams = []) ∧
    (s.mgmt.side = 3 → s.mgmt.restart = none → ∃ t, exec .controlCoreStopAck s = .next t ∧ t.mgmt.side = 0 ∧ t.gangs = [] ∧ t.teams = []) ∧
    (∃ t, exec .immediateOff s = .next t ∧ t.mgmt.side = 0 ∧ t.gangs = [] ∧ t.teams = [] ∧
      t.mgmt.record = (if s.mgmt.side = 1 ∧ s.mgmt.retry = false then s.mgmt.step else s.mgmt.record)) ∧
    (∃ t, exec .mainPowerLoss s = .next t ∧ t.mgmt.power = false ∧ t.gangs = [] ∧ t.teams = [] ∧ t.mgmt.image = s.mgmt.image) ∧
    (mgmtIdle s = true ∨ s.mgmt.side = 2 → ∃ t, exec .clearStepRecord s = .next t ∧ t.mgmt.record = 0) ∧
    (mgmtIdle s = true ∨ s.mgmt.side = 2 → ∃ t, exec (.clearLastingMark uclass uidx) s = .next t ∧
      ∀ u, u ∈ t.units → u.1 / 2 ^ 16 % 256 = uclass → u.1 % 2 ^ 16 = uidx → u.2.lasting = false) ∧
    (∃ t, exec (.firmwareImageUpdate version ok) s = .next t ∧ t.mgmt.pending = some version ∧ t.mgmt.imageOk = ok ∧
      t.mgmt.image = s.mgmt.image) ∧
    (∃ t, exec (.powerWarning power) s = .next t ∧ devGet t (mgmtReg 0x28) = power.setWidth 64 ∧
      (dbits (devGet s (mgmtReg 0x20)) 15 0 < power.toNat → devGet t logBase = devGet s logBase + 1)) ∧
    (∃ t, exec (.dieTemperatureWarning region reading) s = .next t ∧
      (9500 ≤ reading.toNat → devGet t logBase = devGet s logBase + 1)) ∧
    (4600 < reading.toNat → ∃ t, exec (.overlimitTrip .power reading) s = .next t ∧ t.mgmt.side = 0 ∧ t.gangs = [] ∧ t.teams = []) ∧
    (reading.toNat ≤ 4600 → exec (.overlimitTrip .power reading) s = .next (devSet s (mgmtReg 0x28) (reading.setWidth 64)))

/-! Frames. -/

/-- The register forms, and transfers of control: whatever their issue comes to (an effect, a wait, a trap), no register, queue,
counter, scratchpad or memory byte changes in it, and no other gang does; results land later (02 R48, R56). -/
def Obligations.RegisterFormFrame : Prop :=
  ∀ (i : Instr) (s t : State), registerForm i = true → exec i s = .next t →
    SameRegs (curGang s) (curGang t) ∧ SameMemory s t ∧ OtherGangsSame s t

/-- The stores: at issue no byte of device memory changes, nor any register, engine or scratchpad (11 R255, R258, R263; 10
R234). -/
def Obligations.StoreFormFrame : Prop :=
  ∀ (i : Instr) (s t : State), storeForm i = true → slotCheck i s = .ok → exec i s = .next t →
    SameMemory s t ∧ OtherGangsSame s t ∧
    (curGang t).s = (curGang s).s ∧ (curGang t).lc = (curGang s).lc ∧ (curGang t).abase = (curGang s).abase ∧
    (curGang t).d = (curGang s).d ∧ (curGang t).eng = (curGang s).eng ∧ (curGang t).hw = (curGang s).hw ∧
    (curGang t).latch = (curGang s).latch ∧ (curGang t).stack = (curGang s).stack ∧ (curGang t).cause = (curGang s).cause ∧
    (curGang t).ncopy = (curGang s).ncopy ∧ (curGang t).ntile = (curGang s).ntile

/-! Decoding. -/

/-- Decoding the encoding of a well-formed slot instruction gives it back, every operand at every value (02 R37–R47). -/
def Obligations.DecodeEncode : Prop :=
  ∀ (i : Instr) (k : SlotKind) (w : BitVec 64), wf i = true → encode i = some (k, w) → decodeSlot k true w = .ok i

/-- Words written out from the spec's encodings decode to the instructions they stand for: the bundle and the WAIT it encodes as
examples, and a word of each other slot (03 R80–R83; 02 R39–R43; 11 R256, R279). -/
def Obligations.DecodeWords : Prop :=
  decodeBundle [0x03, 0x20, 0x04, 0x00, 0x18, 0x04, 0x81, 0xFF, 0xFF, 0xFF, 0x03, 0x82, 0x30, 0x00, 0x00, 0x00]
    = .ok (⟨2, 0x10, some (.addi 4 4 0xFFFFFF8), some (.xadd (.reg 2) (.reg 2) (.src (.reg 3))), none, none, none, none, none, none, none⟩, 16) ∧
  decodeSlot .s false (0x0D + 1 * 2 ^ 8 + 2 * 2 ^ 14 + 3 * 2 ^ 20 + 4 * 2 ^ 26) = .ok (.sel 1 2 3 4) ∧
  decodeSlot .v false (0x01 + 5 * 2 ^ 8 + 6 * 2 ^ 14 + 7 * 2 ^ 20 + 1 * 2 ^ 38 + 3 * 2 ^ 45) = .ok (.vaddf (.reg 5) (.reg 6) (.reg 7) false .rtz false 3) ∧
  decodeSlot .t false (0x01 + 10 * 2 ^ 8 + 2 * 2 ^ 14 + 3 * 2 ^ 20 + 1 * 2 ^ 56 + 1 * 2 ^ 60) = .ok (.mma .bf16 .bf16 2 2 3 0) ∧
  decodeSlot .l false (0x01 + 9 * 2 ^ 8 + 2 * 2 ^ 14 + 5 * 2 ^ 45) = .ok (.ldv (.reg 9) (.reg 2) false 5) ∧
  decodeSlot .w false (0x01 + 2 * 2 ^ 14 + 9 * 2 ^ 20 + 1 * 2 ^ 38) = .ok (.stv (.reg 9) (.reg 2) true 0) ∧
  decodeSlot .c false (0x02 + 3 * 2 ^ 8 + 1 * 2 ^ 36 + 6 * 2 ^ 32 + 2 * 2 ^ 38) = .ok (.cpy 3 0 0 2 (some 6)) ∧
  decodeSlot .y false 0xFFF03F01 = .ok (.wait 63 63 0 63)

/-! The step. -/

/-- The chance of a path whose bytes decode to a bundle that may issue: the step runs its instructions, each by its exec at the
path's own program counter and in its slot, with what follows an issue; of a bundle of one slot it is that instruction's exec
(02 R33, R48, R53, R60). An issue whose translation reads page tables waits for those reads at their ports (15 R358, R359; log
entry 88, DESIGN CHOICE); one that reads none stands. That a replay drops every translation its gang has cached is the model's
choice (log entry 116, DESIGN CHOICE). -/
def Obligations.StepRunsDecoded : Prop :=
  ∀ (s : State) (g : Nat) (p : PathSlot) (b : Bundle) (len : Nat), dueEvents s = [] → s.inputs = [] → s.served = true →
    nextPath s = some (g, p) → chance (beginTry g p s) g p = .bundle b len →
    let m := beginTry g p s
    let u := setCur (earlyWrites m g) g p b len
    let done (t : State) : State := finishIssue p b (markTried g (takesCycle u g) t)
    let close (t : State) : Host.Outcome State Fault Refusal :=
      .next (closeTry (if mayIssue u (done t) then noteTurns (keysBetween u (done t)) (done t) else holdPath .other u))
    encodingTrap b u = none → plan b u = .go →
    step s = after (runSlots true (issueOrder b) (beginIssue u)) close ∧
    (∀ n i, b.slots = [(n, i)] → step s = after (exec i (atSlot n true (beginIssue u))) close) ∧
    (∀ t, keysBetween u (done t) = [] → close t = .next (closeTry (done t)))

/-- Every state has a next state: a path's bundle issues, waits or traps (02 R60), package time passes (09 R222), and no step faults
or is refused. That an event whose condition does not hold leaves the state as it is, is the model's choice (log entry 6, DESIGN
CHOICE). -/
def Obligations.StepAlwaysAnswers : Prop := ∀ s : State, ∃ t, step s = .next t

/-- Every step keeps the invariant: memory in canonical form, key slot 0 without a key, the place in the tick (08 R205; 19 R401; 09
R222). -/
def Obligations.StepKeepsInvariant : Prop := ∀ s t : State, Inv s → step s = .next t → Inv t

/-- What reset leaves: the invariant holds (08 R205), nothing runs, memory lists nothing, no key slot holds a key, no context is
active, the main side is off as before a first start (22 R436, R440), and the machine answers. Which state counts as reset is the
model's choice (log entry 1, DESIGN CHOICE), and so are the zeros where the manual gives no value (log entry 3, DESIGN CHOICE) and
memory that reads 0 before the first start (log entry 72, DEDUCED). -/
def Obligations.ResetState : Prop :=
  Inv State.reset ∧ State.reset.gangs = [] ∧ State.reset.teams = [] ∧ State.reset.mem = [] ∧ State.reset.keys = [] ∧
  State.reset.mgmt.side = 0 ∧ (∀ c, ctxState State.reset c = 0) ∧ nextPath State.reset = none ∧
  ∃ t, step State.reset = .next t ∧ Inv t

/-- A non-zero reserved header bit, and non-zero padding of a bundle without a slot, raise 0x01; the length of a bundle follows
from its header alone (02 R34, R35, R62). The opcode 0 and slot 0 that such a trap reports are the model's choice (log entry 44,
DEDUCED). -/
def Obligations.HeaderRules : Prop :=
  (∀ bs : List Byte, 60 ≤ bs.length → (BitVec.ofNat 32 (leNat (bs.take 4))).extractLsb' 23 9 ≠ 0 →
    decoded bs = .trap 0x01 0 0 0 none) ∧
  (∀ bs : List Byte, 60 ≤ bs.length → (BitVec.ofNat 32 (leNat (bs.take 4))).extractLsb' 23 9 = 0 →
    (BitVec.ofNat 32 (leNat (bs.take 4))).setWidth 9 = (0 : BitVec 9) → leNat ((bs.drop 4).take 4) ≠ 0 → decoded bs = .trap 0x01 0 0 0 none) ∧
  (∀ hdr : BitVec 32, hdr.setWidth 9 = (0 : BitVec 9) → bundleLen hdr = 8) ∧
  (∀ hdr : BitVec 32, hdr.setWidth 9 ≠ (0 : BitVec 9) → bundleLen hdr = 4 + slotsLen (hdr.setWidth 9)) ∧
  bundleLen 0x1FF = 60

/-- Every opcode outside the tables is unassigned in its slot, and a slot that holds one raises 0x01 (03 R84). -/
def Obligations.UnassignedOpcodes : Prop :=
  (∀ (k : SlotKind) (v1 : Bool) (w : BitVec 64), unassignedIn k v1 (w.toNat % 256) = true →
    decodeSlot k v1 w = .error .unassignedOpcode) ∧
  (∀ (n : Nat) (w : BitVec 64) (rest : List (Nat × BitVec 64)), unassignedIn (slotSpec n).1 (slotSpec n).2.1 (w.toNat % 256) = true →
    decodeSlots ((n, w) :: rest) = .error (some n, w.setWidth 8, .unassignedOpcode)) ∧
  DecErr.unassignedOpcode.cause = 0x01

end SliceZero
end

