-- ==== Sys2Proof/Laws/Sparse.lean ====
section
/-! SUPPORT. Laws of sparse maps: a read after a write, and that every operation keeps the canonical form. -/

namespace Sys2Proof.Machine

theorem spFind_spPut {α : Type} (m : Sp α) (k j : Nat) (v : α) :
    spFind (spPut m k v) j = if j = k then some v else spFind m j := by
  induction m with
  | nil => by_cases h : j = k <;> simp [spFind, spPut, List.lookup, h, beq_eq_false_iff_ne.mpr]
  | cons c r ih =>
    obtain ⟨i, w⟩ := c
    simp only [spFind] at ih
    unfold spPut
    split
    · by_cases h : j = k <;> simp [spFind, List.lookup, h, beq_eq_false_iff_ne.mpr]
    · split
      · subst_vars; by_cases h : j = i <;> simp [spFind, List.lookup, h, beq_eq_false_iff_ne.mpr]
      · by_cases h : j = i
        · subst h; rw [if_neg (by omega)]; simp [spFind, List.lookup]
        · simp only [spFind, List.lookup, beq_eq_false_iff_ne.mpr h, ih]

theorem lookup_filter_key {α : Type} (m : Sp α) (p : Nat → Bool) (j : Nat) :
    (m.filter (fun c => p c.1)).lookup j = if p j then m.lookup j else none := by
  induction m with
  | nil => simp
  | cons c r ih =>
    obtain ⟨i, w⟩ := c
    by_cases hp : p i <;> by_cases h : j = i
    · subst h; simp [List.lookup, hp]
    · simp [List.lookup, hp, ih, beq_eq_false_iff_ne.mpr h]
    · subst h; simp [hp, ih]
    · simp [List.lookup, hp, ih, beq_eq_false_iff_ne.mpr h]

theorem spFind_spDel {α : Type} (m : Sp α) (k j : Nat) :
    spFind (spDel m k) j = if j = k then none else spFind m j := by
  simp only [spFind, spDel, lookup_filter_key m (fun i => i != k)]
  by_cases h : j = k <;> simp [h]

/-- A read after a write gives the value written; every other key reads as before. -/
@[simp] theorem spGet_spSet {α : Type} [DecidableEq α] (d : α) (m : Sp α) (k j : Nat) (v : α) :
    spGet d (spSet d m k v) j = if j = k then v else spGet d m j := by
  unfold spSet spGet
  split
  · subst_vars; by_cases h : j = k <;> simp [spFind_spDel, h]
  · by_cases h : j = k <;> simp [spFind_spPut, h]

@[simp] theorem spGet_spClear {α : Type} (d : α) (m : Sp α) (b n j : Nat) :
    spGet d (spClear m b n) j = if b ≤ j ∧ j < b + n then d else spGet d m j := by
  simp only [spGet, spFind, spClear, lookup_filter_key m (fun i => decide (i < b) || decide (b + n ≤ i))]
  by_cases h : b ≤ j ∧ j < b + n
  · have : ¬ (j < b) ∧ ¬ (b + n ≤ j) := by omega
    simp [h, this]
  · have : j < b ∨ b + n ≤ j := by omega
    rw [if_neg h, if_pos (by simpa using this)]

/-- A written list reads back, value by value; keys outside it read as before. -/
theorem spGet_spSetList {α : Type} [DecidableEq α] (d : α) (vs : List α) (m : Sp α) (b j : Nat) :
    spGet d (spSetList d m b vs) j = if b ≤ j ∧ j < b + vs.length then vs.getD (j - b) d else spGet d m j := by
  induction vs generalizing m b with
  | nil => rw [if_neg (by simp only [List.length_nil]; omega)]; rfl
  | cons v vs ih =>
    simp only [spSetList, ih, spGet_spSet, List.length_cons]
    by_cases h : j = b
    · subst h
      rw [if_neg (by omega), if_pos rfl, if_pos (by omega)]
      simp
    · by_cases h2 : b + 1 ≤ j ∧ j < b + 1 + vs.length
      · rw [if_pos h2, if_pos (by omega), show j - b = (j - (b + 1)) + 1 by omega]
        simp
      · rw [if_neg h2, if_neg h, if_neg (by omega)]

/-! The canonical form. -/

theorem mem_spPut_keys {α : Type} (m : Sp α) (k : Nat) (v : α) (c : Nat × α) (h : c ∈ spPut m k v) : c.1 = k ∨ c ∈ m := by
  induction m with
  | nil => simp [spPut] at h; exact .inl (by simp [h])
  | cons x r ih =>
    obtain ⟨i, w⟩ := x
    unfold spPut at h
    split at h
    · rcases List.mem_cons.mp h with h | h
      · exact .inl (by simp [h])
      · exact .inr h
    · split at h
      · rcases List.mem_cons.mp h with h | h
        · exact .inl (by simp [h])
        · exact .inr (List.mem_cons_of_mem _ h)
      · rcases List.mem_cons.mp h with h | h
        · exact .inr (by simp [h])
        · rcases ih h with h | h
          · exact .inl h
          · exact .inr (List.mem_cons_of_mem _ h)

theorem spWf_cons {α : Type} [DecidableEq α] (d : α) (i : Nat) (w : α) (r : Sp α) :
    spWf d ((i, w) :: r) = true ↔ w ≠ d ∧ (∀ c ∈ r, i < c.1) ∧ spWf d r = true := by
  simp [spWf, and_assoc]

theorem spWf_spPut {α : Type} [DecidableEq α] (d : α) (m : Sp α) (k : Nat) (v : α) (hv : v ≠ d)
    (h : spWf d m = true) : spWf d (spPut m k v) = true := by
  induction m with
  | nil => simp [spPut, spWf, hv]
  | cons x r ih =>
    obtain ⟨i, w⟩ := x
    rw [spWf_cons] at h
    unfold spPut
    split
    · rw [spWf_cons, spWf_cons]
      refine ⟨hv, fun c hc => ?_, h⟩
      rcases List.mem_cons.mp hc with hc | hc
      · rw [hc]; assumption
      · have := h.2.1 c hc; omega
    · split
      · subst_vars; rw [spWf_cons]; exact ⟨hv, h.2⟩
      · rw [spWf_cons]
        refine ⟨h.1, fun c hc => ?_, ih h.2.2⟩
        rcases mem_spPut_keys r k v c hc with hc | hc
        · omega
        · exact h.2.1 c hc

theorem spWf_filter {α : Type} [DecidableEq α] (d : α) (m : Sp α) (p : Nat × α → Bool) (h : spWf d m = true) :
    spWf d (m.filter p) = true := by
  induction m with
  | nil => rfl
  | cons x r ih =>
    obtain ⟨i, w⟩ := x
    rw [spWf_cons] at h
    rw [List.filter_cons]
    split
    · rw [spWf_cons]
      exact ⟨h.1, fun c hc => h.2.1 c ((List.mem_filter.mp hc).1), ih h.2.2⟩
    · exact ih h.2.2

theorem spWf_spSet {α : Type} [DecidableEq α] (d : α) (m : Sp α) (k : Nat) (v : α) (h : spWf d m = true) :
    spWf d (spSet d m k v) = true := by
  unfold spSet
  split
  · exact spWf_filter d m _ h
  · exact spWf_spPut d m k v (by assumption) h

theorem spWf_spSetList {α : Type} [DecidableEq α] (d : α) (vs : List α) (m : Sp α) (b : Nat) (h : spWf d m = true) :
    spWf d (spSetList d m b vs) = true := by
  induction vs generalizing m b with
  | nil => exact h
  | cons v vs ih => exact ih _ _ (spWf_spSet d m b v h)

theorem spWf_spClear {α : Type} [DecidableEq α] (d : α) (m : Sp α) (b n : Nat) (h : spWf d m = true) :
    spWf d (spClear m b n) = true := spWf_filter d m _ h

end Sys2Proof.Machine
end

