-- ==== Sys2Proof/Laws/State.lean ====
section
/-! SUPPORT. Laws of the state: every field after every update of one part of it, and reads of parts after updates. -/

namespace Sys2Proof.Machine

/-! Fields of the state that an update leaves. -/

@[simp] theorem setGang_tick (s : State) (g : Nat) (G : Gang) : (setGang s g G).tick = s.tick := rfl
@[simp] theorem setGang_sub (s : State) (g : Nat) (G : Gang) : (setGang s g G).sub = s.sub := rfl
@[simp] theorem setGang_roff (s : State) (g : Nat) (G : Gang) : (setGang s g G).roff = s.roff := rfl
@[simp] theorem setGang_mem (s : State) (g : Nat) (G : Gang) : (setGang s g G).mem = s.mem := rfl
@[simp] theorem setGang_memBad (s : State) (g : Nat) (G : Gang) : (setGang s g G).memBad = s.memBad := rfl
@[simp] theorem setGang_sl (s : State) (g : Nat) (G : Gang) : (setGang s g G).sl = s.sl := rfl
@[simp] theorem setGang_repl (s : State) (g : Nat) (G : Gang) : (setGang s g G).repl = s.repl := rfl
@[simp] theorem setGang_replBad (s : State) (g : Nat) (G : Gang) : (setGang s g G).replBad = s.replBad := rfl
@[simp] theorem setGang_readers (s : State) (g : Nat) (G : Gang) : (setGang s g G).readers = s.readers := rfl
@[simp] theorem setGang_frames (s : State) (g : Nat) (G : Gang) : (setGang s g G).frames = s.frames := rfl
@[simp] theorem setGang_left (s : State) (g : Nat) (G : Gang) : (setGang s g G).left = s.left := rfl
@[simp] theorem setGang_priv (s : State) (g : Nat) (G : Gang) : (setGang s g G).priv = s.priv := rfl
@[simp] theorem setGang_ntag (s : State) (g : Nat) (G : Gang) : (setGang s g G).ntag = s.ntag := rfl
@[simp] theorem setGang_dev (s : State) (g : Nat) (G : Gang) : (setGang s g G).dev = s.dev := rfl
@[simp] theorem setGang_keys (s : State) (g : Nat) (G : Gang) : (setGang s g G).keys = s.keys := rfl
@[simp] theorem setGang_badWays (s : State) (g : Nat) (G : Gang) : (setGang s g G).badWays = s.badWays := rfl
@[simp] theorem setGang_tlb (s : State) (g : Nat) (G : Gang) : (setGang s g G).tlb = s.tlb := rfl
@[simp] theorem setGang_unmaps (s : State) (g : Nat) (G : Gang) : (setGang s g G).unmaps = s.unmaps := rfl
@[simp] theorem setGang_pkts (s : State) (g : Nat) (G : Gang) : (setGang s g G).pkts = s.pkts := rfl
@[simp] theorem setGang_budget (s : State) (g : Nat) (G : Gang) : (setGang s g G).budget = s.budget := rfl
@[simp] theorem setGang_flows (s : State) (g : Nat) (G : Gang) : (setGang s g G).flows = s.flows := rfl
@[simp] theorem setGang_turns (s : State) (g : Nat) (G : Gang) : (setGang s g G).turns = s.turns := rfl
@[simp] theorem setGang_units (s : State) (g : Nat) (G : Gang) : (setGang s g G).units = s.units := rfl
@[simp] theorem setGang_irqs (s : State) (g : Nat) (G : Gang) : (setGang s g G).irqs = s.irqs := rfl
@[simp] theorem setGang_inputs (s : State) (g : Nat) (G : Gang) : (setGang s g G).inputs = s.inputs := rfl
@[simp] theorem setGang_free (s : State) (g : Nat) (G : Gang) : (setGang s g G).free = s.free := rfl
@[simp] theorem setGang_signals (s : State) (g : Nat) (G : Gang) : (setGang s g G).signals = s.signals := rfl
@[simp] theorem setGang_sbcs (s : State) (g : Nat) (G : Gang) : (setGang s g G).sbcs = s.sbcs := rfl
@[simp] theorem setGang_rounds (s : State) (g : Nat) (G : Gang) : (setGang s g G).rounds = s.rounds := rfl
@[simp] theorem setGang_teams (s : State) (g : Nat) (G : Gang) : (setGang s g G).teams = s.teams := rfl
@[simp] theorem setGang_nextTeam (s : State) (g : Nat) (G : Gang) : (setGang s g G).nextTeam = s.nextTeam := rfl
@[simp] theorem setGang_pairs (s : State) (g : Nat) (G : Gang) : (setGang s g G).pairs = s.pairs := rfl
@[simp] theorem setGang_dies (s : State) (g : Nat) (G : Gang) : (setGang s g G).dies = s.dies := rfl
@[simp] theorem setGang_mgmt (s : State) (g : Nat) (G : Gang) : (setGang s g G).mgmt = s.mgmt := rfl
@[simp] theorem setGang_cur (s : State) (g : Nat) (G : Gang) : (setGang s g G).cur = s.cur := rfl
@[simp] theorem setGang_served (s : State) (g : Nat) (G : Gang) : (setGang s g G).served = s.served := rfl
@[simp] theorem setGang_tried (s : State) (g : Nat) (G : Gang) : (setGang s g G).tried = s.tried := rfl
@[simp] theorem modGang_tick (s : State) (g : Nat) (f : Gang → Gang) : (modGang s g f).tick = s.tick := rfl
@[simp] theorem modGang_sub (s : State) (g : Nat) (f : Gang → Gang) : (modGang s g f).sub = s.sub := rfl
@[simp] theorem modGang_roff (s : State) (g : Nat) (f : Gang → Gang) : (modGang s g f).roff = s.roff := rfl
@[simp] theorem modGang_mem (s : State) (g : Nat) (f : Gang → Gang) : (modGang s g f).mem = s.mem := rfl
@[simp] theorem modGang_memBad (s : State) (g : Nat) (f : Gang → Gang) : (modGang s g f).memBad = s.memBad := rfl
@[simp] theorem modGang_sl (s : State) (g : Nat) (f : Gang → Gang) : (modGang s g f).sl = s.sl := rfl
@[simp] theorem modGang_repl (s : State) (g : Nat) (f : Gang → Gang) : (modGang s g f).repl = s.repl := rfl
@[simp] theorem modGang_replBad (s : State) (g : Nat) (f : Gang → Gang) : (modGang s g f).replBad = s.replBad := rfl
@[simp] theorem modGang_readers (s : State) (g : Nat) (f : Gang → Gang) : (modGang s g f).readers = s.readers := rfl
@[simp] theorem modGang_frames (s : State) (g : Nat) (f : Gang → Gang) : (modGang s g f).frames = s.frames := rfl
@[simp] theorem modGang_left (s : State) (g : Nat) (f : Gang → Gang) : (modGang s g f).left = s.left := rfl
@[simp] theorem modGang_priv (s : State) (g : Nat) (f : Gang → Gang) : (modGang s g f).priv = s.priv := rfl
@[simp] theorem modGang_ntag (s : State) (g : Nat) (f : Gang → Gang) : (modGang s g f).ntag = s.ntag := rfl
@[simp] theorem modGang_dev (s : State) (g : Nat) (f : Gang → Gang) : (modGang s g f).dev = s.dev := rfl
@[simp] theorem modGang_keys (s : State) (g : Nat) (f : Gang → Gang) : (modGang s g f).keys = s.keys := rfl
@[simp] theorem modGang_badWays (s : State) (g : Nat) (f : Gang → Gang) : (modGang s g f).badWays = s.badWays := rfl
@[simp] theorem modGang_tlb (s : State) (g : Nat) (f : Gang → Gang) : (modGang s g f).tlb = s.tlb := rfl
@[simp] theorem modGang_unmaps (s : State) (g : Nat) (f : Gang → Gang) : (modGang s g f).unmaps = s.unmaps := rfl
@[simp] theorem modGang_pkts (s : State) (g : Nat) (f : Gang → Gang) : (modGang s g f).pkts = s.pkts := rfl
@[simp] theorem modGang_budget (s : State) (g : Nat) (f : Gang → Gang) : (modGang s g f).budget = s.budget := rfl
@[simp] theorem modGang_flows (s : State) (g : Nat) (f : Gang → Gang) : (modGang s g f).flows = s.flows := rfl
@[simp] theorem modGang_turns (s : State) (g : Nat) (f : Gang → Gang) : (modGang s g f).turns = s.turns := rfl
@[simp] theorem modGang_units (s : State) (g : Nat) (f : Gang → Gang) : (modGang s g f).units = s.units := rfl
@[simp] theorem modGang_irqs (s : State) (g : Nat) (f : Gang → Gang) : (modGang s g f).irqs = s.irqs := rfl
@[simp] theorem modGang_inputs (s : State) (g : Nat) (f : Gang → Gang) : (modGang s g f).inputs = s.inputs := rfl
@[simp] theorem modGang_free (s : State) (g : Nat) (f : Gang → Gang) : (modGang s g f).free = s.free := rfl
@[simp] theorem modGang_signals (s : State) (g : Nat) (f : Gang → Gang) : (modGang s g f).signals = s.signals := rfl
@[simp] theorem modGang_sbcs (s : State) (g : Nat) (f : Gang → Gang) : (modGang s g f).sbcs = s.sbcs := rfl
@[simp] theorem modGang_rounds (s : State) (g : Nat) (f : Gang → Gang) : (modGang s g f).rounds = s.rounds := rfl
@[simp] theorem modGang_teams (s : State) (g : Nat) (f : Gang → Gang) : (modGang s g f).teams = s.teams := rfl
@[simp] theorem modGang_nextTeam (s : State) (g : Nat) (f : Gang → Gang) : (modGang s g f).nextTeam = s.nextTeam := rfl
@[simp] theorem modGang_pairs (s : State) (g : Nat) (f : Gang → Gang) : (modGang s g f).pairs = s.pairs := rfl
@[simp] theorem modGang_dies (s : State) (g : Nat) (f : Gang → Gang) : (modGang s g f).dies = s.dies := rfl
@[simp] theorem modGang_mgmt (s : State) (g : Nat) (f : Gang → Gang) : (modGang s g f).mgmt = s.mgmt := rfl
@[simp] theorem modGang_cur (s : State) (g : Nat) (f : Gang → Gang) : (modGang s g f).cur = s.cur := rfl
@[simp] theorem modGang_served (s : State) (g : Nat) (f : Gang → Gang) : (modGang s g f).served = s.served := rfl
@[simp] theorem modGang_tried (s : State) (g : Nat) (f : Gang → Gang) : (modGang s g f).tried = s.tried := rfl
@[simp] theorem modCur_tick (s : State) (f : Gang → Gang) : (modCur s f).tick = s.tick := rfl
@[simp] theorem modCur_sub (s : State) (f : Gang → Gang) : (modCur s f).sub = s.sub := rfl
@[simp] theorem modCur_roff (s : State) (f : Gang → Gang) : (modCur s f).roff = s.roff := rfl
@[simp] theorem modCur_mem (s : State) (f : Gang → Gang) : (modCur s f).mem = s.mem := rfl
@[simp] theorem modCur_memBad (s : State) (f : Gang → Gang) : (modCur s f).memBad = s.memBad := rfl
@[simp] theorem modCur_sl (s : State) (f : Gang → Gang) : (modCur s f).sl = s.sl := rfl
@[simp] theorem modCur_repl (s : State) (f : Gang → Gang) : (modCur s f).repl = s.repl := rfl
@[simp] theorem modCur_replBad (s : State) (f : Gang → Gang) : (modCur s f).replBad = s.replBad := rfl
@[simp] theorem modCur_readers (s : State) (f : Gang → Gang) : (modCur s f).readers = s.readers := rfl
@[simp] theorem modCur_frames (s : State) (f : Gang → Gang) : (modCur s f).frames = s.frames := rfl
@[simp] theorem modCur_left (s : State) (f : Gang → Gang) : (modCur s f).left = s.left := rfl
@[simp] theorem modCur_priv (s : State) (f : Gang → Gang) : (modCur s f).priv = s.priv := rfl
@[simp] theorem modCur_ntag (s : State) (f : Gang → Gang) : (modCur s f).ntag = s.ntag := rfl
@[simp] theorem modCur_dev (s : State) (f : Gang → Gang) : (modCur s f).dev = s.dev := rfl
@[simp] theorem modCur_keys (s : State) (f : Gang → Gang) : (modCur s f).keys = s.keys := rfl
@[simp] theorem modCur_badWays (s : State) (f : Gang → Gang) : (modCur s f).badWays = s.badWays := rfl
@[simp] theorem modCur_tlb (s : State) (f : Gang → Gang) : (modCur s f).tlb = s.tlb := rfl
@[simp] theorem modCur_unmaps (s : State) (f : Gang → Gang) : (modCur s f).unmaps = s.unmaps := rfl
@[simp] theorem modCur_pkts (s : State) (f : Gang → Gang) : (modCur s f).pkts = s.pkts := rfl
@[simp] theorem modCur_budget (s : State) (f : Gang → Gang) : (modCur s f).budget = s.budget := rfl
@[simp] theorem modCur_flows (s : State) (f : Gang → Gang) : (modCur s f).flows = s.flows := rfl
@[simp] theorem modCur_turns (s : State) (f : Gang → Gang) : (modCur s f).turns = s.turns := rfl
@[simp] theorem modCur_units (s : State) (f : Gang → Gang) : (modCur s f).units = s.units := rfl
@[simp] theorem modCur_irqs (s : State) (f : Gang → Gang) : (modCur s f).irqs = s.irqs := rfl
@[simp] theorem modCur_inputs (s : State) (f : Gang → Gang) : (modCur s f).inputs = s.inputs := rfl
@[simp] theorem modCur_free (s : State) (f : Gang → Gang) : (modCur s f).free = s.free := rfl
@[simp] theorem modCur_signals (s : State) (f : Gang → Gang) : (modCur s f).signals = s.signals := rfl
@[simp] theorem modCur_sbcs (s : State) (f : Gang → Gang) : (modCur s f).sbcs = s.sbcs := rfl
@[simp] theorem modCur_rounds (s : State) (f : Gang → Gang) : (modCur s f).rounds = s.rounds := rfl
@[simp] theorem modCur_teams (s : State) (f : Gang → Gang) : (modCur s f).teams = s.teams := rfl
@[simp] theorem modCur_nextTeam (s : State) (f : Gang → Gang) : (modCur s f).nextTeam = s.nextTeam := rfl
@[simp] theorem modCur_pairs (s : State) (f : Gang → Gang) : (modCur s f).pairs = s.pairs := rfl
@[simp] theorem modCur_dies (s : State) (f : Gang → Gang) : (modCur s f).dies = s.dies := rfl
@[simp] theorem modCur_mgmt (s : State) (f : Gang → Gang) : (modCur s f).mgmt = s.mgmt := rfl
@[simp] theorem modCur_cur (s : State) (f : Gang → Gang) : (modCur s f).cur = s.cur := rfl
@[simp] theorem modCur_served (s : State) (f : Gang → Gang) : (modCur s f).served = s.served := rfl
@[simp] theorem modCur_tried (s : State) (f : Gang → Gang) : (modCur s f).tried = s.tried := rfl
@[simp] theorem modCurPath_tick (s : State) (f : Path → Path) : (modCurPath s f).tick = s.tick := rfl
@[simp] theorem modCurPath_sub (s : State) (f : Path → Path) : (modCurPath s f).sub = s.sub := rfl
@[simp] theorem modCurPath_roff (s : State) (f : Path → Path) : (modCurPath s f).roff = s.roff := rfl
@[simp] theorem modCurPath_mem (s : State) (f : Path → Path) : (modCurPath s f).mem = s.mem := rfl
@[simp] theorem modCurPath_memBad (s : State) (f : Path → Path) : (modCurPath s f).memBad = s.memBad := rfl
@[simp] theorem modCurPath_sl (s : State) (f : Path → Path) : (modCurPath s f).sl = s.sl := rfl
@[simp] theorem modCurPath_repl (s : State) (f : Path → Path) : (modCurPath s f).repl = s.repl := rfl
@[simp] theorem modCurPath_replBad (s : State) (f : Path → Path) : (modCurPath s f).replBad = s.replBad := rfl
@[simp] theorem modCurPath_readers (s : State) (f : Path → Path) : (modCurPath s f).readers = s.readers := rfl
@[simp] theorem modCurPath_frames (s : State) (f : Path → Path) : (modCurPath s f).frames = s.frames := rfl
@[simp] theorem modCurPath_left (s : State) (f : Path → Path) : (modCurPath s f).left = s.left := rfl
@[simp] theorem modCurPath_priv (s : State) (f : Path → Path) : (modCurPath s f).priv = s.priv := rfl
@[simp] theorem modCurPath_ntag (s : State) (f : Path → Path) : (modCurPath s f).ntag = s.ntag := rfl
@[simp] theorem modCurPath_dev (s : State) (f : Path → Path) : (modCurPath s f).dev = s.dev := rfl
@[simp] theorem modCurPath_keys (s : State) (f : Path → Path) : (modCurPath s f).keys = s.keys := rfl
@[simp] theorem modCurPath_badWays (s : State) (f : Path → Path) : (modCurPath s f).badWays = s.badWays := rfl
@[simp] theorem modCurPath_tlb (s : State) (f : Path → Path) : (modCurPath s f).tlb = s.tlb := rfl
@[simp] theorem modCurPath_unmaps (s : State) (f : Path → Path) : (modCurPath s f).unmaps = s.unmaps := rfl
@[simp] theorem modCurPath_pkts (s : State) (f : Path → Path) : (modCurPath s f).pkts = s.pkts := rfl
@[simp] theorem modCurPath_budget (s : State) (f : Path → Path) : (modCurPath s f).budget = s.budget := rfl
@[simp] theorem modCurPath_flows (s : State) (f : Path → Path) : (modCurPath s f).flows = s.flows := rfl
@[simp] theorem modCurPath_turns (s : State) (f : Path → Path) : (modCurPath s f).turns = s.turns := rfl
@[simp] theorem modCurPath_units (s : State) (f : Path → Path) : (modCurPath s f).units = s.units := rfl
@[simp] theorem modCurPath_irqs (s : State) (f : Path → Path) : (modCurPath s f).irqs = s.irqs := rfl
@[simp] theorem modCurPath_inputs (s : State) (f : Path → Path) : (modCurPath s f).inputs = s.inputs := rfl
@[simp] theorem modCurPath_free (s : State) (f : Path → Path) : (modCurPath s f).free = s.free := rfl
@[simp] theorem modCurPath_signals (s : State) (f : Path → Path) : (modCurPath s f).signals = s.signals := rfl
@[simp] theorem modCurPath_sbcs (s : State) (f : Path → Path) : (modCurPath s f).sbcs = s.sbcs := rfl
@[simp] theorem modCurPath_rounds (s : State) (f : Path → Path) : (modCurPath s f).rounds = s.rounds := rfl
@[simp] theorem modCurPath_teams (s : State) (f : Path → Path) : (modCurPath s f).teams = s.teams := rfl
@[simp] theorem modCurPath_nextTeam (s : State) (f : Path → Path) : (modCurPath s f).nextTeam = s.nextTeam := rfl
@[simp] theorem modCurPath_pairs (s : State) (f : Path → Path) : (modCurPath s f).pairs = s.pairs := rfl
@[simp] theorem modCurPath_dies (s : State) (f : Path → Path) : (modCurPath s f).dies = s.dies := rfl
@[simp] theorem modCurPath_mgmt (s : State) (f : Path → Path) : (modCurPath s f).mgmt = s.mgmt := rfl
@[simp] theorem modCurPath_cur (s : State) (f : Path → Path) : (modCurPath s f).cur = s.cur := rfl
@[simp] theorem modCurPath_served (s : State) (f : Path → Path) : (modCurPath s f).served = s.served := rfl
@[simp] theorem modCurPath_tried (s : State) (f : Path → Path) : (modCurPath s f).tried = s.tried := rfl
@[simp] theorem modDie_tick (s : State) (d : Nat) (f : GDie → GDie) : (modDie s d f).tick = s.tick := rfl
@[simp] theorem modDie_sub (s : State) (d : Nat) (f : GDie → GDie) : (modDie s d f).sub = s.sub := rfl
@[simp] theorem modDie_roff (s : State) (d : Nat) (f : GDie → GDie) : (modDie s d f).roff = s.roff := rfl
@[simp] theorem modDie_mem (s : State) (d : Nat) (f : GDie → GDie) : (modDie s d f).mem = s.mem := rfl
@[simp] theorem modDie_memBad (s : State) (d : Nat) (f : GDie → GDie) : (modDie s d f).memBad = s.memBad := rfl
@[simp] theorem modDie_sl (s : State) (d : Nat) (f : GDie → GDie) : (modDie s d f).sl = s.sl := rfl
@[simp] theorem modDie_repl (s : State) (d : Nat) (f : GDie → GDie) : (modDie s d f).repl = s.repl := rfl
@[simp] theorem modDie_replBad (s : State) (d : Nat) (f : GDie → GDie) : (modDie s d f).replBad = s.replBad := rfl
@[simp] theorem modDie_readers (s : State) (d : Nat) (f : GDie → GDie) : (modDie s d f).readers = s.readers := rfl
@[simp] theorem modDie_frames (s : State) (d : Nat) (f : GDie → GDie) : (modDie s d f).frames = s.frames := rfl
@[simp] theorem modDie_left (s : State) (d : Nat) (f : GDie → GDie) : (modDie s d f).left = s.left := rfl
@[simp] theorem modDie_priv (s : State) (d : Nat) (f : GDie → GDie) : (modDie s d f).priv = s.priv := rfl
@[simp] theorem modDie_ntag (s : State) (d : Nat) (f : GDie → GDie) : (modDie s d f).ntag = s.ntag := rfl
@[simp] theorem modDie_dev (s : State) (d : Nat) (f : GDie → GDie) : (modDie s d f).dev = s.dev := rfl
@[simp] theorem modDie_keys (s : State) (d : Nat) (f : GDie → GDie) : (modDie s d f).keys = s.keys := rfl
@[simp] theorem modDie_badWays (s : State) (d : Nat) (f : GDie → GDie) : (modDie s d f).badWays = s.badWays := rfl
@[simp] theorem modDie_tlb (s : State) (d : Nat) (f : GDie → GDie) : (modDie s d f).tlb = s.tlb := rfl
@[simp] theorem modDie_unmaps (s : State) (d : Nat) (f : GDie → GDie) : (modDie s d f).unmaps = s.unmaps := rfl
@[simp] theorem modDie_pkts (s : State) (d : Nat) (f : GDie → GDie) : (modDie s d f).pkts = s.pkts := rfl
@[simp] theorem modDie_budget (s : State) (d : Nat) (f : GDie → GDie) : (modDie s d f).budget = s.budget := rfl
@[simp] theorem modDie_flows (s : State) (d : Nat) (f : GDie → GDie) : (modDie s d f).flows = s.flows := rfl
@[simp] theorem modDie_turns (s : State) (d : Nat) (f : GDie → GDie) : (modDie s d f).turns = s.turns := rfl
@[simp] theorem modDie_units (s : State) (d : Nat) (f : GDie → GDie) : (modDie s d f).units = s.units := rfl
@[simp] theorem modDie_irqs (s : State) (d : Nat) (f : GDie → GDie) : (modDie s d f).irqs = s.irqs := rfl
@[simp] theorem modDie_inputs (s : State) (d : Nat) (f : GDie → GDie) : (modDie s d f).inputs = s.inputs := rfl
@[simp] theorem modDie_free (s : State) (d : Nat) (f : GDie → GDie) : (modDie s d f).free = s.free := rfl
@[simp] theorem modDie_signals (s : State) (d : Nat) (f : GDie → GDie) : (modDie s d f).signals = s.signals := rfl
@[simp] theorem modDie_sbcs (s : State) (d : Nat) (f : GDie → GDie) : (modDie s d f).sbcs = s.sbcs := rfl
@[simp] theorem modDie_rounds (s : State) (d : Nat) (f : GDie → GDie) : (modDie s d f).rounds = s.rounds := rfl
@[simp] theorem modDie_teams (s : State) (d : Nat) (f : GDie → GDie) : (modDie s d f).teams = s.teams := rfl
@[simp] theorem modDie_nextTeam (s : State) (d : Nat) (f : GDie → GDie) : (modDie s d f).nextTeam = s.nextTeam := rfl
@[simp] theorem modDie_gangs (s : State) (d : Nat) (f : GDie → GDie) : (modDie s d f).gangs = s.gangs := rfl
@[simp] theorem modDie_pairs (s : State) (d : Nat) (f : GDie → GDie) : (modDie s d f).pairs = s.pairs := rfl
@[simp] theorem modDie_mgmt (s : State) (d : Nat) (f : GDie → GDie) : (modDie s d f).mgmt = s.mgmt := rfl
@[simp] theorem modDie_cur (s : State) (d : Nat) (f : GDie → GDie) : (modDie s d f).cur = s.cur := rfl
@[simp] theorem modDie_served (s : State) (d : Nat) (f : GDie → GDie) : (modDie s d f).served = s.served := rfl
@[simp] theorem modDie_tried (s : State) (d : Nat) (f : GDie → GDie) : (modDie s d f).tried = s.tried := rfl
@[simp] theorem modPair_tick (s : State) (p : Nat) (f : Pair → Pair) : (modPair s p f).tick = s.tick := rfl
@[simp] theorem modPair_sub (s : State) (p : Nat) (f : Pair → Pair) : (modPair s p f).sub = s.sub := rfl
@[simp] theorem modPair_roff (s : State) (p : Nat) (f : Pair → Pair) : (modPair s p f).roff = s.roff := rfl
@[simp] theorem modPair_mem (s : State) (p : Nat) (f : Pair → Pair) : (modPair s p f).mem = s.mem := rfl
@[simp] theorem modPair_memBad (s : State) (p : Nat) (f : Pair → Pair) : (modPair s p f).memBad = s.memBad := rfl
@[simp] theorem modPair_sl (s : State) (p : Nat) (f : Pair → Pair) : (modPair s p f).sl = s.sl := rfl
@[simp] theorem modPair_repl (s : State) (p : Nat) (f : Pair → Pair) : (modPair s p f).repl = s.repl := rfl
@[simp] theorem modPair_replBad (s : State) (p : Nat) (f : Pair → Pair) : (modPair s p f).replBad = s.replBad := rfl
@[simp] theorem modPair_readers (s : State) (p : Nat) (f : Pair → Pair) : (modPair s p f).readers = s.readers := rfl
@[simp] theorem modPair_frames (s : State) (p : Nat) (f : Pair → Pair) : (modPair s p f).frames = s.frames := rfl
@[simp] theorem modPair_left (s : State) (p : Nat) (f : Pair → Pair) : (modPair s p f).left = s.left := rfl
@[simp] theorem modPair_priv (s : State) (p : Nat) (f : Pair → Pair) : (modPair s p f).priv = s.priv := rfl
@[simp] theorem modPair_ntag (s : State) (p : Nat) (f : Pair → Pair) : (modPair s p f).ntag = s.ntag := rfl
@[simp] theorem modPair_dev (s : State) (p : Nat) (f : Pair → Pair) : (modPair s p f).dev = s.dev := rfl
@[simp] theorem modPair_keys (s : State) (p : Nat) (f : Pair → Pair) : (modPair s p f).keys = s.keys := rfl
@[simp] theorem modPair_badWays (s : State) (p : Nat) (f : Pair → Pair) : (modPair s p f).badWays = s.badWays := rfl
@[simp] theorem modPair_tlb (s : State) (p : Nat) (f : Pair → Pair) : (modPair s p f).tlb = s.tlb := rfl
@[simp] theorem modPair_unmaps (s : State) (p : Nat) (f : Pair → Pair) : (modPair s p f).unmaps = s.unmaps := rfl
@[simp] theorem modPair_pkts (s : State) (p : Nat) (f : Pair → Pair) : (modPair s p f).pkts = s.pkts := rfl
@[simp] theorem modPair_budget (s : State) (p : Nat) (f : Pair → Pair) : (modPair s p f).budget = s.budget := rfl
@[simp] theorem modPair_flows (s : State) (p : Nat) (f : Pair → Pair) : (modPair s p f).flows = s.flows := rfl
@[simp] theorem modPair_turns (s : State) (p : Nat) (f : Pair → Pair) : (modPair s p f).turns = s.turns := rfl
@[simp] theorem modPair_units (s : State) (p : Nat) (f : Pair → Pair) : (modPair s p f).units = s.units := rfl
@[simp] theorem modPair_irqs (s : State) (p : Nat) (f : Pair → Pair) : (modPair s p f).irqs = s.irqs := rfl
@[simp] theorem modPair_inputs (s : State) (p : Nat) (f : Pair → Pair) : (modPair s p f).inputs = s.inputs := rfl
@[simp] theorem modPair_free (s : State) (p : Nat) (f : Pair → Pair) : (modPair s p f).free = s.free := rfl
@[simp] theorem modPair_signals (s : State) (p : Nat) (f : Pair → Pair) : (modPair s p f).signals = s.signals := rfl
@[simp] theorem modPair_sbcs (s : State) (p : Nat) (f : Pair → Pair) : (modPair s p f).sbcs = s.sbcs := rfl
@[simp] theorem modPair_rounds (s : State) (p : Nat) (f : Pair → Pair) : (modPair s p f).rounds = s.rounds := rfl
@[simp] theorem modPair_teams (s : State) (p : Nat) (f : Pair → Pair) : (modPair s p f).teams = s.teams := rfl
@[simp] theorem modPair_nextTeam (s : State) (p : Nat) (f : Pair → Pair) : (modPair s p f).nextTeam = s.nextTeam := rfl
@[simp] theorem modPair_gangs (s : State) (p : Nat) (f : Pair → Pair) : (modPair s p f).gangs = s.gangs := rfl
@[simp] theorem modPair_dies (s : State) (p : Nat) (f : Pair → Pair) : (modPair s p f).dies = s.dies := rfl
@[simp] theorem modPair_mgmt (s : State) (p : Nat) (f : Pair → Pair) : (modPair s p f).mgmt = s.mgmt := rfl
@[simp] theorem modPair_cur (s : State) (p : Nat) (f : Pair → Pair) : (modPair s p f).cur = s.cur := rfl
@[simp] theorem modPair_served (s : State) (p : Nat) (f : Pair → Pair) : (modPair s p f).served = s.served := rfl
@[simp] theorem modPair_tried (s : State) (p : Nat) (f : Pair → Pair) : (modPair s p f).tried = s.tried := rfl
@[simp] theorem devSet_tick (s : State) (a : Nat) (v : DWord) : (devSet s a v).tick = s.tick := rfl
@[simp] theorem devSet_sub (s : State) (a : Nat) (v : DWord) : (devSet s a v).sub = s.sub := rfl
@[simp] theorem devSet_roff (s : State) (a : Nat) (v : DWord) : (devSet s a v).roff = s.roff := rfl
@[simp] theorem devSet_mem (s : State) (a : Nat) (v : DWord) : (devSet s a v).mem = s.mem := rfl
@[simp] theorem devSet_memBad (s : State) (a : Nat) (v : DWord) : (devSet s a v).memBad = s.memBad := rfl
@[simp] theorem devSet_sl (s : State) (a : Nat) (v : DWord) : (devSet s a v).sl = s.sl := rfl
@[simp] theorem devSet_repl (s : State) (a : Nat) (v : DWord) : (devSet s a v).repl = s.repl := rfl
@[simp] theorem devSet_replBad (s : State) (a : Nat) (v : DWord) : (devSet s a v).replBad = s.replBad := rfl
@[simp] theorem devSet_readers (s : State) (a : Nat) (v : DWord) : (devSet s a v).readers = s.readers := rfl
@[simp] theorem devSet_frames (s : State) (a : Nat) (v : DWord) : (devSet s a v).frames = s.frames := rfl
@[simp] theorem devSet_left (s : State) (a : Nat) (v : DWord) : (devSet s a v).left = s.left := rfl
@[simp] theorem devSet_priv (s : State) (a : Nat) (v : DWord) : (devSet s a v).priv = s.priv := rfl
@[simp] theorem devSet_ntag (s : State) (a : Nat) (v : DWord) : (devSet s a v).ntag = s.ntag := rfl
@[simp] theorem devSet_keys (s : State) (a : Nat) (v : DWord) : (devSet s a v).keys = s.keys := rfl
@[simp] theorem devSet_badWays (s : State) (a : Nat) (v : DWord) : (devSet s a v).badWays = s.badWays := rfl
@[simp] theorem devSet_tlb (s : State) (a : Nat) (v : DWord) : (devSet s a v).tlb = s.tlb := rfl
@[simp] theorem devSet_unmaps (s : State) (a : Nat) (v : DWord) : (devSet s a v).unmaps = s.unmaps := rfl
@[simp] theorem devSet_pkts (s : State) (a : Nat) (v : DWord) : (devSet s a v).pkts = s.pkts := rfl
@[simp] theorem devSet_budget (s : State) (a : Nat) (v : DWord) : (devSet s a v).budget = s.budget := rfl
@[simp] theorem devSet_flows (s : State) (a : Nat) (v : DWord) : (devSet s a v).flows = s.flows := rfl
@[simp] theorem devSet_turns (s : State) (a : Nat) (v : DWord) : (devSet s a v).turns = s.turns := rfl
@[simp] theorem devSet_units (s : State) (a : Nat) (v : DWord) : (devSet s a v).units = s.units := rfl
@[simp] theorem devSet_irqs (s : State) (a : Nat) (v : DWord) : (devSet s a v).irqs = s.irqs := rfl
@[simp] theorem devSet_inputs (s : State) (a : Nat) (v : DWord) : (devSet s a v).inputs = s.inputs := rfl
@[simp] theorem devSet_free (s : State) (a : Nat) (v : DWord) : (devSet s a v).free = s.free := rfl
@[simp] theorem devSet_signals (s : State) (a : Nat) (v : DWord) : (devSet s a v).signals = s.signals := rfl
@[simp] theorem devSet_sbcs (s : State) (a : Nat) (v : DWord) : (devSet s a v).sbcs = s.sbcs := rfl
@[simp] theorem devSet_rounds (s : State) (a : Nat) (v : DWord) : (devSet s a v).rounds = s.rounds := rfl
@[simp] theorem devSet_teams (s : State) (a : Nat) (v : DWord) : (devSet s a v).teams = s.teams := rfl
@[simp] theorem devSet_nextTeam (s : State) (a : Nat) (v : DWord) : (devSet s a v).nextTeam = s.nextTeam := rfl
@[simp] theorem devSet_gangs (s : State) (a : Nat) (v : DWord) : (devSet s a v).gangs = s.gangs := rfl
@[simp] theorem devSet_pairs (s : State) (a : Nat) (v : DWord) : (devSet s a v).pairs = s.pairs := rfl
@[simp] theorem devSet_dies (s : State) (a : Nat) (v : DWord) : (devSet s a v).dies = s.dies := rfl
@[simp] theorem devSet_mgmt (s : State) (a : Nat) (v : DWord) : (devSet s a v).mgmt = s.mgmt := rfl
@[simp] theorem devSet_cur (s : State) (a : Nat) (v : DWord) : (devSet s a v).cur = s.cur := rfl
@[simp] theorem devSet_served (s : State) (a : Nat) (v : DWord) : (devSet s a v).served = s.served := rfl
@[simp] theorem devSet_tried (s : State) (a : Nat) (v : DWord) : (devSet s a v).tried = s.tried := rfl
@[simp] theorem inFlight_tick (s : State) (n : Nat) (w : Wr) : (inFlight s n w).tick = s.tick := rfl
@[simp] theorem inFlight_sub (s : State) (n : Nat) (w : Wr) : (inFlight s n w).sub = s.sub := rfl
@[simp] theorem inFlight_roff (s : State) (n : Nat) (w : Wr) : (inFlight s n w).roff = s.roff := rfl
@[simp] theorem inFlight_mem (s : State) (n : Nat) (w : Wr) : (inFlight s n w).mem = s.mem := rfl
@[simp] theorem inFlight_memBad (s : State) (n : Nat) (w : Wr) : (inFlight s n w).memBad = s.memBad := rfl
@[simp] theorem inFlight_sl (s : State) (n : Nat) (w : Wr) : (inFlight s n w).sl = s.sl := rfl
@[simp] theorem inFlight_repl (s : State) (n : Nat) (w : Wr) : (inFlight s n w).repl = s.repl := rfl
@[simp] theorem inFlight_replBad (s : State) (n : Nat) (w : Wr) : (inFlight s n w).replBad = s.replBad := rfl
@[simp] theorem inFlight_readers (s : State) (n : Nat) (w : Wr) : (inFlight s n w).readers = s.readers := rfl
@[simp] theorem inFlight_frames (s : State) (n : Nat) (w : Wr) : (inFlight s n w).frames = s.frames := rfl
@[simp] theorem inFlight_left (s : State) (n : Nat) (w : Wr) : (inFlight s n w).left = s.left := rfl
@[simp] theorem inFlight_priv (s : State) (n : Nat) (w : Wr) : (inFlight s n w).priv = s.priv := rfl
@[simp] theorem inFlight_ntag (s : State) (n : Nat) (w : Wr) : (inFlight s n w).ntag = s.ntag := rfl
@[simp] theorem inFlight_dev (s : State) (n : Nat) (w : Wr) : (inFlight s n w).dev = s.dev := rfl
@[simp] theorem inFlight_keys (s : State) (n : Nat) (w : Wr) : (inFlight s n w).keys = s.keys := rfl
@[simp] theorem inFlight_badWays (s : State) (n : Nat) (w : Wr) : (inFlight s n w).badWays = s.badWays := rfl
@[simp] theorem inFlight_tlb (s : State) (n : Nat) (w : Wr) : (inFlight s n w).tlb = s.tlb := rfl
@[simp] theorem inFlight_unmaps (s : State) (n : Nat) (w : Wr) : (inFlight s n w).unmaps = s.unmaps := rfl
@[simp] theorem inFlight_pkts (s : State) (n : Nat) (w : Wr) : (inFlight s n w).pkts = s.pkts := rfl
@[simp] theorem inFlight_budget (s : State) (n : Nat) (w : Wr) : (inFlight s n w).budget = s.budget := rfl
@[simp] theorem inFlight_flows (s : State) (n : Nat) (w : Wr) : (inFlight s n w).flows = s.flows := rfl
@[simp] theorem inFlight_turns (s : State) (n : Nat) (w : Wr) : (inFlight s n w).turns = s.turns := rfl
@[simp] theorem inFlight_units (s : State) (n : Nat) (w : Wr) : (inFlight s n w).units = s.units := rfl
@[simp] theorem inFlight_irqs (s : State) (n : Nat) (w : Wr) : (inFlight s n w).irqs = s.irqs := rfl
@[simp] theorem inFlight_inputs (s : State) (n : Nat) (w : Wr) : (inFlight s n w).inputs = s.inputs := rfl
@[simp] theorem inFlight_free (s : State) (n : Nat) (w : Wr) : (inFlight s n w).free = s.free := rfl
@[simp] theorem inFlight_signals (s : State) (n : Nat) (w : Wr) : (inFlight s n w).signals = s.signals := rfl
@[simp] theorem inFlight_sbcs (s : State) (n : Nat) (w : Wr) : (inFlight s n w).sbcs = s.sbcs := rfl
@[simp] theorem inFlight_rounds (s : State) (n : Nat) (w : Wr) : (inFlight s n w).rounds = s.rounds := rfl
@[simp] theorem inFlight_teams (s : State) (n : Nat) (w : Wr) : (inFlight s n w).teams = s.teams := rfl
@[simp] theorem inFlight_nextTeam (s : State) (n : Nat) (w : Wr) : (inFlight s n w).nextTeam = s.nextTeam := rfl
@[simp] theorem inFlight_pairs (s : State) (n : Nat) (w : Wr) : (inFlight s n w).pairs = s.pairs := rfl
@[simp] theorem inFlight_dies (s : State) (n : Nat) (w : Wr) : (inFlight s n w).dies = s.dies := rfl
@[simp] theorem inFlight_mgmt (s : State) (n : Nat) (w : Wr) : (inFlight s n w).mgmt = s.mgmt := rfl
@[simp] theorem inFlight_cur (s : State) (n : Nat) (w : Wr) : (inFlight s n w).cur = s.cur := rfl
@[simp] theorem inFlight_served (s : State) (n : Nat) (w : Wr) : (inFlight s n w).served = s.served := rfl
@[simp] theorem inFlight_tried (s : State) (n : Nat) (w : Wr) : (inFlight s n w).tried = s.tried := rfl
@[simp] theorem addIlk_tick (s : State) (r : Nat) (k : IlkSrc) : (addIlk s r k).tick = s.tick := rfl
@[simp] theorem addIlk_sub (s : State) (r : Nat) (k : IlkSrc) : (addIlk s r k).sub = s.sub := rfl
@[simp] theorem addIlk_roff (s : State) (r : Nat) (k : IlkSrc) : (addIlk s r k).roff = s.roff := rfl
@[simp] theorem addIlk_mem (s : State) (r : Nat) (k : IlkSrc) : (addIlk s r k).mem = s.mem := rfl
@[simp] theorem addIlk_memBad (s : State) (r : Nat) (k : IlkSrc) : (addIlk s r k).memBad = s.memBad := rfl
@[simp] theorem addIlk_sl (s : State) (r : Nat) (k : IlkSrc) : (addIlk s r k).sl = s.sl := rfl
@[simp] theorem addIlk_repl (s : State) (r : Nat) (k : IlkSrc) : (addIlk s r k).repl = s.repl := rfl
@[simp] theorem addIlk_replBad (s : State) (r : Nat) (k : IlkSrc) : (addIlk s r k).replBad = s.replBad := rfl
@[simp] theorem addIlk_readers (s : State) (r : Nat) (k : IlkSrc) : (addIlk s r k).readers = s.readers := rfl
@[simp] theorem addIlk_frames (s : State) (r : Nat) (k : IlkSrc) : (addIlk s r k).frames = s.frames := rfl
@[simp] theorem addIlk_left (s : State) (r : Nat) (k : IlkSrc) : (addIlk s r k).left = s.left := rfl
@[simp] theorem addIlk_priv (s : State) (r : Nat) (k : IlkSrc) : (addIlk s r k).priv = s.priv := rfl
@[simp] theorem addIlk_ntag (s : State) (r : Nat) (k : IlkSrc) : (addIlk s r k).ntag = s.ntag := rfl
@[simp] theorem addIlk_dev (s : State) (r : Nat) (k : IlkSrc) : (addIlk s r k).dev = s.dev := rfl
@[simp] theorem addIlk_keys (s : State) (r : Nat) (k : IlkSrc) : (addIlk s r k).keys = s.keys := rfl
@[simp] theorem addIlk_badWays (s : State) (r : Nat) (k : IlkSrc) : (addIlk s r k).badWays = s.badWays := rfl
@[simp] theorem addIlk_tlb (s : State) (r : Nat) (k : IlkSrc) : (addIlk s r k).tlb = s.tlb := rfl
@[simp] theorem addIlk_unmaps (s : State) (r : Nat) (k : IlkSrc) : (addIlk s r k).unmaps = s.unmaps := rfl
@[simp] theorem addIlk_pkts (s : State) (r : Nat) (k : IlkSrc) : (addIlk s r k).pkts = s.pkts := rfl
@[simp] theorem addIlk_budget (s : State) (r : Nat) (k : IlkSrc) : (addIlk s r k).budget = s.budget := rfl
@[simp] theorem addIlk_flows (s : State) (r : Nat) (k : IlkSrc) : (addIlk s r k).flows = s.flows := rfl
@[simp] theorem addIlk_turns (s : State) (r : Nat) (k : IlkSrc) : (addIlk s r k).turns = s.turns := rfl
@[simp] theorem addIlk_units (s : State) (r : Nat) (k : IlkSrc) : (addIlk s r k).units = s.units := rfl
@[simp] theorem addIlk_irqs (s : State) (r : Nat) (k : IlkSrc) : (addIlk s r k).irqs = s.irqs := rfl
@[simp] theorem addIlk_inputs (s : State) (r : Nat) (k : IlkSrc) : (addIlk s r k).inputs = s.inputs := rfl
@[simp] theorem addIlk_free (s : State) (r : Nat) (k : IlkSrc) : (addIlk s r k).free = s.free := rfl
@[simp] theorem addIlk_signals (s : State) (r : Nat) (k : IlkSrc) : (addIlk s r k).signals = s.signals := rfl
@[simp] theorem addIlk_sbcs (s : State) (r : Nat) (k : IlkSrc) : (addIlk s r k).sbcs = s.sbcs := rfl
@[simp] theorem addIlk_rounds (s : State) (r : Nat) (k : IlkSrc) : (addIlk s r k).rounds = s.rounds := rfl
@[simp] theorem addIlk_teams (s : State) (r : Nat) (k : IlkSrc) : (addIlk s r k).teams = s.teams := rfl
@[simp] theorem addIlk_nextTeam (s : State) (r : Nat) (k : IlkSrc) : (addIlk s r k).nextTeam = s.nextTeam := rfl
@[simp] theorem addIlk_pairs (s : State) (r : Nat) (k : IlkSrc) : (addIlk s r k).pairs = s.pairs := rfl
@[simp] theorem addIlk_dies (s : State) (r : Nat) (k : IlkSrc) : (addIlk s r k).dies = s.dies := rfl
@[simp] theorem addIlk_mgmt (s : State) (r : Nat) (k : IlkSrc) : (addIlk s r k).mgmt = s.mgmt := rfl
@[simp] theorem addIlk_cur (s : State) (r : Nat) (k : IlkSrc) : (addIlk s r k).cur = s.cur := rfl
@[simp] theorem addIlk_served (s : State) (r : Nat) (k : IlkSrc) : (addIlk s r k).served = s.served := rfl
@[simp] theorem addIlk_tried (s : State) (r : Nat) (k : IlkSrc) : (addIlk s r k).tried = s.tried := rfl
@[simp] theorem modTeam_tick (s : State) (t : Nat) (f : Team → Team) : (modTeam s t f).tick = s.tick := by
  unfold modTeam; split <;> rfl
@[simp] theorem modTeam_sub (s : State) (t : Nat) (f : Team → Team) : (modTeam s t f).sub = s.sub := by
  unfold modTeam; split <;> rfl
@[simp] theorem modTeam_roff (s : State) (t : Nat) (f : Team → Team) : (modTeam s t f).roff = s.roff := by
  unfold modTeam; split <;> rfl
@[simp] theorem modTeam_mem (s : State) (t : Nat) (f : Team → Team) : (modTeam s t f).mem = s.mem := by
  unfold modTeam; split <;> rfl
@[simp] theorem modTeam_memBad (s : State) (t : Nat) (f : Team → Team) : (modTeam s t f).memBad = s.memBad := by
  unfold modTeam; split <;> rfl
@[simp] theorem modTeam_sl (s : State) (t : Nat) (f : Team → Team) : (modTeam s t f).sl = s.sl := by
  unfold modTeam; split <;> rfl
@[simp] theorem modTeam_repl (s : State) (t : Nat) (f : Team → Team) : (modTeam s t f).repl = s.repl := by
  unfold modTeam; split <;> rfl
@[simp] theorem modTeam_replBad (s : State) (t : Nat) (f : Team → Team) : (modTeam s t f).replBad = s.replBad := by
  unfold modTeam; split <;> rfl
@[simp] theorem modTeam_readers (s : State) (t : Nat) (f : Team → Team) : (modTeam s t f).readers = s.readers := by
  unfold modTeam; split <;> rfl
@[simp] theorem modTeam_frames (s : State) (t : Nat) (f : Team → Team) : (modTeam s t f).frames = s.frames := by
  unfold modTeam; split <;> rfl
@[simp] theorem modTeam_left (s : State) (t : Nat) (f : Team → Team) : (modTeam s t f).left = s.left := by
  unfold modTeam; split <;> rfl
@[simp] theorem modTeam_priv (s : State) (t : Nat) (f : Team → Team) : (modTeam s t f).priv = s.priv := by
  unfold modTeam; split <;> rfl
@[simp] theorem modTeam_ntag (s : State) (t : Nat) (f : Team → Team) : (modTeam s t f).ntag = s.ntag := by
  unfold modTeam; split <;> rfl
@[simp] theorem modTeam_dev (s : State) (t : Nat) (f : Team → Team) : (modTeam s t f).dev = s.dev := by
  unfold modTeam; split <;> rfl
@[simp] theorem modTeam_keys (s : State) (t : Nat) (f : Team → Team) : (modTeam s t f).keys = s.keys := by
  unfold modTeam; split <;> rfl
@[simp] theorem modTeam_badWays (s : State) (t : Nat) (f : Team → Team) : (modTeam s t f).badWays = s.badWays := by
  unfold modTeam; split <;> rfl
@[simp] theorem modTeam_tlb (s : State) (t : Nat) (f : Team → Team) : (modTeam s t f).tlb = s.tlb := by
  unfold modTeam; split <;> rfl
@[simp] theorem modTeam_unmaps (s : State) (t : Nat) (f : Team → Team) : (modTeam s t f).unmaps = s.unmaps := by
  unfold modTeam; split <;> rfl
@[simp] theorem modTeam_pkts (s : State) (t : Nat) (f : Team → Team) : (modTeam s t f).pkts = s.pkts := by
  unfold modTeam; split <;> rfl
@[simp] theorem modTeam_budget (s : State) (t : Nat) (f : Team → Team) : (modTeam s t f).budget = s.budget := by
  unfold modTeam; split <;> rfl
@[simp] theorem modTeam_flows (s : State) (t : Nat) (f : Team → Team) : (modTeam s t f).flows = s.flows := by
  unfold modTeam; split <;> rfl
@[simp] theorem modTeam_turns (s : State) (t : Nat) (f : Team → Team) : (modTeam s t f).turns = s.turns := by
  unfold modTeam; split <;> rfl
@[simp] theorem modTeam_units (s : State) (t : Nat) (f : Team → Team) : (modTeam s t f).units = s.units := by
  unfold modTeam; split <;> rfl
@[simp] theorem modTeam_irqs (s : State) (t : Nat) (f : Team → Team) : (modTeam s t f).irqs = s.irqs := by
  unfold modTeam; split <;> rfl
@[simp] theorem modTeam_inputs (s : State) (t : Nat) (f : Team → Team) : (modTeam s t f).inputs = s.inputs := by
  unfold modTeam; split <;> rfl
@[simp] theorem modTeam_free (s : State) (t : Nat) (f : Team → Team) : (modTeam s t f).free = s.free := by
  unfold modTeam; split <;> rfl
@[simp] theorem modTeam_signals (s : State) (t : Nat) (f : Team → Team) : (modTeam s t f).signals = s.signals := by
  unfold modTeam; split <;> rfl
@[simp] theorem modTeam_sbcs (s : State) (t : Nat) (f : Team → Team) : (modTeam s t f).sbcs = s.sbcs := by
  unfold modTeam; split <;> rfl
@[simp] theorem modTeam_rounds (s : State) (t : Nat) (f : Team → Team) : (modTeam s t f).rounds = s.rounds := by
  unfold modTeam; split <;> rfl
@[simp] theorem modTeam_nextTeam (s : State) (t : Nat) (f : Team → Team) : (modTeam s t f).nextTeam = s.nextTeam := by
  unfold modTeam; split <;> rfl
@[simp] theorem modTeam_gangs (s : State) (t : Nat) (f : Team → Team) : (modTeam s t f).gangs = s.gangs := by
  unfold modTeam; split <;> rfl
@[simp] theorem modTeam_pairs (s : State) (t : Nat) (f : Team → Team) : (modTeam s t f).pairs = s.pairs := by
  unfold modTeam; split <;> rfl
@[simp] theorem modTeam_dies (s : State) (t : Nat) (f : Team → Team) : (modTeam s t f).dies = s.dies := by
  unfold modTeam; split <;> rfl
@[simp] theorem modTeam_mgmt (s : State) (t : Nat) (f : Team → Team) : (modTeam s t f).mgmt = s.mgmt := by
  unfold modTeam; split <;> rfl
@[simp] theorem modTeam_cur (s : State) (t : Nat) (f : Team → Team) : (modTeam s t f).cur = s.cur := by
  unfold modTeam; split <;> rfl
@[simp] theorem modTeam_served (s : State) (t : Nat) (f : Team → Team) : (modTeam s t f).served = s.served := by
  unfold modTeam; split <;> rfl
@[simp] theorem modTeam_tried (s : State) (t : Nat) (f : Team → Team) : (modTeam s t f).tried = s.tried := by
  unfold modTeam; split <;> rfl

/-! Fields of a gang that an update leaves. -/

@[simp] theorem modEng_hw (G : Gang) (e : Nat) (f : Engine → Engine) : (modEng G e f).hw = G.hw := rfl
@[simp] theorem modEng_l1 (G : Gang) (e : Nat) (f : Engine → Engine) : (modEng G e f).l1 = G.l1 := rfl
@[simp] theorem modEng_frozen (G : Gang) (e : Nat) (f : Engine → Engine) : (modEng G e f).frozen = G.frozen := rfl
@[simp] theorem modEng_freezes (G : Gang) (e : Nat) (f : Engine → Engine) : (modEng G e f).freezes = G.freezes := rfl
@[simp] theorem modEng_gc (G : Gang) (e : Nat) (f : Engine → Engine) : (modEng G e f).gc = G.gc := rfl
@[simp] theorem modEng_run (G : Gang) (e : Nat) (f : Engine → Engine) : (modEng G e f).run = G.run := rfl
@[simp] theorem modEng_team (G : Gang) (e : Nat) (f : Engine → Engine) : (modEng G e f).team = G.team := rfl
@[simp] theorem modEng_stopReq (G : Gang) (e : Nat) (f : Engine → Engine) : (modEng G e f).stopReq = G.stopReq := rfl
@[simp] theorem modEng_stopAt (G : Gang) (e : Nat) (f : Engine → Engine) : (modEng G e f).stopAt = G.stopAt := rfl
@[simp] theorem modEng_stepLeft (G : Gang) (e : Nat) (f : Engine → Engine) : (modEng G e f).stepLeft = G.stepLeft := rfl
@[simp] theorem modEng_spare (G : Gang) (e : Nat) (f : Engine → Engine) : (modEng G e f).spare = G.spare := rfl
@[simp] theorem modEng_spareReq (G : Gang) (e : Nat) (f : Engine → Engine) : (modEng G e f).spareReq = G.spareReq := rfl
@[simp] theorem modEng_spareAskAt (G : Gang) (e : Nat) (f : Engine → Engine) : (modEng G e f).spareAskAt = G.spareAskAt := rfl
@[simp] theorem modEng_spareLost (G : Gang) (e : Nat) (f : Engine → Engine) : (modEng G e f).spareLost = G.spareLost := rfl
@[simp] theorem modEng_spareFreeAt (G : Gang) (e : Nat) (f : Engine → Engine) : (modEng G e f).spareFreeAt = G.spareFreeAt := rfl
@[simp] theorem modEng_handoverEnd (G : Gang) (e : Nat) (f : Engine → Engine) : (modEng G e f).handoverEnd = G.handoverEnd := rfl
@[simp] theorem modEng_preempted (G : Gang) (e : Nat) (f : Engine → Engine) : (modEng G e f).preempted = G.preempted := rfl
@[simp] theorem modEng_incoming (G : Gang) (e : Nat) (f : Engine → Engine) : (modEng G e f).incoming = G.incoming := rfl
@[simp] theorem modEng_a (G : Gang) (e : Nat) (f : Engine → Engine) : (modEng G e f).a = G.a := rfl
@[simp] theorem modEng_b (G : Gang) (e : Nat) (f : Engine → Engine) : (modEng G e f).b = G.b := rfl
@[simp] theorem modEng_turn (G : Gang) (e : Nat) (f : Engine → Engine) : (modEng G e f).turn = G.turn := rfl
@[simp] theorem modEng_lastIssue (G : Gang) (e : Nat) (f : Engine → Engine) : (modEng G e f).lastIssue = G.lastIssue := rfl
@[simp] theorem modEng_idleCount (G : Gang) (e : Nat) (f : Engine → Engine) : (modEng G e f).idleCount = G.idleCount := rfl
@[simp] theorem modEng_s (G : Gang) (e : Nat) (f : Engine → Engine) : (modEng G e f).s = G.s := rfl
@[simp] theorem modEng_lc (G : Gang) (e : Nat) (f : Engine → Engine) : (modEng G e f).lc = G.lc := rfl
@[simp] theorem modEng_abase (G : Gang) (e : Nat) (f : Engine → Engine) : (modEng G e f).abase = G.abase := rfl
@[simp] theorem modEng_d (G : Gang) (e : Nat) (f : Engine → Engine) : (modEng G e f).d = G.d := rfl
@[simp] theorem modEng_dsets (G : Gang) (e : Nat) (f : Engine → Engine) : (modEng G e f).dsets = G.dsets := rfl
@[simp] theorem modEng_ntile (G : Gang) (e : Nat) (f : Engine → Engine) : (modEng G e f).ntile = G.ntile := rfl
@[simp] theorem modEng_njoin (G : Gang) (e : Nat) (f : Engine → Engine) : (modEng G e f).njoin = G.njoin := rfl
@[simp] theorem modEng_npred (G : Gang) (e : Nat) (f : Engine → Engine) : (modEng G e f).npred = G.npred := rfl
@[simp] theorem modEng_ncopy (G : Gang) (e : Nat) (f : Engine → Engine) : (modEng G e f).ncopy = G.ncopy := rfl
@[simp] theorem modEng_nstore (G : Gang) (e : Nat) (f : Engine → Engine) : (modEng G e f).nstore = G.nstore := rfl
@[simp] theorem modEng_q4 (G : Gang) (e : Nat) (f : Engine → Engine) : (modEng G e f).q4 = G.q4 := rfl
@[simp] theorem modEng_q5 (G : Gang) (e : Nat) (f : Engine → Engine) : (modEng G e f).q5 = G.q5 := rfl
@[simp] theorem modEng_q6 (G : Gang) (e : Nat) (f : Engine → Engine) : (modEng G e f).q6 = G.q6 := rfl
@[simp] theorem modEng_q7 (G : Gang) (e : Nat) (f : Engine → Engine) : (modEng G e f).q7 = G.q7 := rfl
@[simp] theorem modEng_stack (G : Gang) (e : Nat) (f : Engine → Engine) : (modEng G e f).stack = G.stack := rfl
@[simp] theorem modEng_spilled (G : Gang) (e : Nat) (f : Engine → Engine) : (modEng G e f).spilled = G.spilled := rfl
@[simp] theorem modEng_ended (G : Gang) (e : Nat) (f : Engine → Engine) : (modEng G e f).ended = G.ended := rfl
@[simp] theorem modEng_stkb (G : Gang) (e : Nat) (f : Engine → Engine) : (modEng G e f).stkb = G.stkb := rfl
@[simp] theorem modEng_retired (G : Gang) (e : Nat) (f : Engine → Engine) : (modEng G e f).retired = G.retired := rfl
@[simp] theorem modEng_latch (G : Gang) (e : Nat) (f : Engine → Engine) : (modEng G e f).latch = G.latch := rfl
@[simp] theorem modEng_fresh (G : Gang) (e : Nat) (f : Engine → Engine) : (modEng G e f).fresh = G.fresh := rfl
@[simp] theorem modEng_div (G : Gang) (e : Nat) (f : Engine → Engine) : (modEng G e f).div = G.div := rfl
@[simp] theorem modEng_divSpare (G : Gang) (e : Nat) (f : Engine → Engine) : (modEng G e f).divSpare = G.divSpare := rfl
@[simp] theorem modEng_netAt (G : Gang) (e : Nat) (f : Engine → Engine) : (modEng G e f).netAt = G.netAt := rfl
@[simp] theorem modEng_flight (G : Gang) (e : Nat) (f : Engine → Engine) : (modEng G e f).flight = G.flight := rfl
@[simp] theorem modEng_oldWords (G : Gang) (e : Nat) (f : Engine → Engine) : (modEng G e f).oldWords = G.oldWords := rfl
@[simp] theorem modEng_relGc (G : Gang) (e : Nat) (f : Engine → Engine) : (modEng G e f).relGc = G.relGc := rfl
@[simp] theorem modEng_gifGc (G : Gang) (e : Nat) (f : Engine → Engine) : (modEng G e f).gifGc = G.gifGc := rfl
@[simp] theorem modEng_ilks (G : Gang) (e : Nat) (f : Engine → Engine) : (modEng G e f).ilks = G.ilks := rfl
@[simp] theorem modEng_txns (G : Gang) (e : Nat) (f : Engine → Engine) : (modEng G e f).txns = G.txns := rfl
@[simp] theorem modEng_tops (G : Gang) (e : Nat) (f : Engine → Engine) : (modEng G e f).tops = G.tops := rfl
@[simp] theorem modEng_copySeq (G : Gang) (e : Nat) (f : Engine → Engine) : (modEng G e f).copySeq = G.copySeq := rfl
@[simp] theorem modEng_cpySeq (G : Gang) (e : Nat) (f : Engine → Engine) : (modEng G e f).cpySeq = G.cpySeq := rfl
@[simp] theorem modEng_cause (G : Gang) (e : Nat) (f : Engine → Engine) : (modEng G e f).cause = G.cause := rfl
@[simp] theorem modEng_defCause (G : Gang) (e : Nat) (f : Engine → Engine) : (modEng G e f).defCause = G.defCause := rfl
@[simp] theorem modEng_exitPc (G : Gang) (e : Nat) (f : Engine → Engine) : (modEng G e f).exitPc = G.exitPc := rfl
@[simp] theorem modEng_exitPath (G : Gang) (e : Nat) (f : Engine → Engine) : (modEng G e f).exitPath = G.exitPath := rfl
@[simp] theorem modEng_wrote (G : Gang) (e : Nat) (f : Engine → Engine) : (modEng G e f).wrote = G.wrote := rfl
@[simp] theorem modEng_popped (G : Gang) (e : Nat) (f : Engine → Engine) : (modEng G e f).popped = G.popped := rfl
@[simp] theorem modEng_heldThyme (G : Gang) (e : Nat) (f : Engine → Engine) : (modEng G e f).heldThyme = G.heldThyme := rfl
@[simp] theorem modEng_nextId (G : Gang) (e : Nat) (f : Engine → Engine) : (modEng G e f).nextId = G.nextId := rfl
@[simp] theorem setEng_hw (G : Gang) (e : Nat) (E : Engine) : (setEng G e E).hw = G.hw := rfl
@[simp] theorem setEng_l1 (G : Gang) (e : Nat) (E : Engine) : (setEng G e E).l1 = G.l1 := rfl
@[simp] theorem setEng_frozen (G : Gang) (e : Nat) (E : Engine) : (setEng G e E).frozen = G.frozen := rfl
@[simp] theorem setEng_freezes (G : Gang) (e : Nat) (E : Engine) : (setEng G e E).freezes = G.freezes := rfl
@[simp] theorem setEng_gc (G : Gang) (e : Nat) (E : Engine) : (setEng G e E).gc = G.gc := rfl
@[simp] theorem setEng_run (G : Gang) (e : Nat) (E : Engine) : (setEng G e E).run = G.run := rfl
@[simp] theorem setEng_team (G : Gang) (e : Nat) (E : Engine) : (setEng G e E).team = G.team := rfl
@[simp] theorem setEng_stopReq (G : Gang) (e : Nat) (E : Engine) : (setEng G e E).stopReq = G.stopReq := rfl
@[simp] theorem setEng_stopAt (G : Gang) (e : Nat) (E : Engine) : (setEng G e E).stopAt = G.stopAt := rfl
@[simp] theorem setEng_stepLeft (G : Gang) (e : Nat) (E : Engine) : (setEng G e E).stepLeft = G.stepLeft := rfl
@[simp] theorem setEng_spare (G : Gang) (e : Nat) (E : Engine) : (setEng G e E).spare = G.spare := rfl
@[simp] theorem setEng_spareReq (G : Gang) (e : Nat) (E : Engine) : (setEng G e E).spareReq = G.spareReq := rfl
@[simp] theorem setEng_spareAskAt (G : Gang) (e : Nat) (E : Engine) : (setEng G e E).spareAskAt = G.spareAskAt := rfl
@[simp] theorem setEng_spareLost (G : Gang) (e : Nat) (E : Engine) : (setEng G e E).spareLost = G.spareLost := rfl
@[simp] theorem setEng_spareFreeAt (G : Gang) (e : Nat) (E : Engine) : (setEng G e E).spareFreeAt = G.spareFreeAt := rfl
@[simp] theorem setEng_handoverEnd (G : Gang) (e : Nat) (E : Engine) : (setEng G e E).handoverEnd = G.handoverEnd := rfl
@[simp] theorem setEng_preempted (G : Gang) (e : Nat) (E : Engine) : (setEng G e E).preempted = G.preempted := rfl
@[simp] theorem setEng_incoming (G : Gang) (e : Nat) (E : Engine) : (setEng G e E).incoming = G.incoming := rfl
@[simp] theorem setEng_a (G : Gang) (e : Nat) (E : Engine) : (setEng G e E).a = G.a := rfl
@[simp] theorem setEng_b (G : Gang) (e : Nat) (E : Engine) : (setEng G e E).b = G.b := rfl
@[simp] theorem setEng_turn (G : Gang) (e : Nat) (E : Engine) : (setEng G e E).turn = G.turn := rfl
@[simp] theorem setEng_lastIssue (G : Gang) (e : Nat) (E : Engine) : (setEng G e E).lastIssue = G.lastIssue := rfl
@[simp] theorem setEng_idleCount (G : Gang) (e : Nat) (E : Engine) : (setEng G e E).idleCount = G.idleCount := rfl
@[simp] theorem setEng_s (G : Gang) (e : Nat) (E : Engine) : (setEng G e E).s = G.s := rfl
@[simp] theorem setEng_lc (G : Gang) (e : Nat) (E : Engine) : (setEng G e E).lc = G.lc := rfl
@[simp] theorem setEng_abase (G : Gang) (e : Nat) (E : Engine) : (setEng G e E).abase = G.abase := rfl
@[simp] theorem setEng_d (G : Gang) (e : Nat) (E : Engine) : (setEng G e E).d = G.d := rfl
@[simp] theorem setEng_dsets (G : Gang) (e : Nat) (E : Engine) : (setEng G e E).dsets = G.dsets := rfl
@[simp] theorem setEng_ntile (G : Gang) (e : Nat) (E : Engine) : (setEng G e E).ntile = G.ntile := rfl
@[simp] theorem setEng_njoin (G : Gang) (e : Nat) (E : Engine) : (setEng G e E).njoin = G.njoin := rfl
@[simp] theorem setEng_npred (G : Gang) (e : Nat) (E : Engine) : (setEng G e E).npred = G.npred := rfl
@[simp] theorem setEng_ncopy (G : Gang) (e : Nat) (E : Engine) : (setEng G e E).ncopy = G.ncopy := rfl
@[simp] theorem setEng_nstore (G : Gang) (e : Nat) (E : Engine) : (setEng G e E).nstore = G.nstore := rfl
@[simp] theorem setEng_q4 (G : Gang) (e : Nat) (E : Engine) : (setEng G e E).q4 = G.q4 := rfl
@[simp] theorem setEng_q5 (G : Gang) (e : Nat) (E : Engine) : (setEng G e E).q5 = G.q5 := rfl
@[simp] theorem setEng_q6 (G : Gang) (e : Nat) (E : Engine) : (setEng G e E).q6 = G.q6 := rfl
@[simp] theorem setEng_q7 (G : Gang) (e : Nat) (E : Engine) : (setEng G e E).q7 = G.q7 := rfl
@[simp] theorem setEng_stack (G : Gang) (e : Nat) (E : Engine) : (setEng G e E).stack = G.stack := rfl
@[simp] theorem setEng_spilled (G : Gang) (e : Nat) (E : Engine) : (setEng G e E).spilled = G.spilled := rfl
@[simp] theorem setEng_ended (G : Gang) (e : Nat) (E : Engine) : (setEng G e E).ended = G.ended := rfl
@[simp] theorem setEng_stkb (G : Gang) (e : Nat) (E : Engine) : (setEng G e E).stkb = G.stkb := rfl
@[simp] theorem setEng_retired (G : Gang) (e : Nat) (E : Engine) : (setEng G e E).retired = G.retired := rfl
@[simp] theorem setEng_latch (G : Gang) (e : Nat) (E : Engine) : (setEng G e E).latch = G.latch := rfl
@[simp] theorem setEng_fresh (G : Gang) (e : Nat) (E : Engine) : (setEng G e E).fresh = G.fresh := rfl
@[simp] theorem setEng_div (G : Gang) (e : Nat) (E : Engine) : (setEng G e E).div = G.div := rfl
@[simp] theorem setEng_divSpare (G : Gang) (e : Nat) (E : Engine) : (setEng G e E).divSpare = G.divSpare := rfl
@[simp] theorem setEng_netAt (G : Gang) (e : Nat) (E : Engine) : (setEng G e E).netAt = G.netAt := rfl
@[simp] theorem setEng_flight (G : Gang) (e : Nat) (E : Engine) : (setEng G e E).flight = G.flight := rfl
@[simp] theorem setEng_oldWords (G : Gang) (e : Nat) (E : Engine) : (setEng G e E).oldWords = G.oldWords := rfl
@[simp] theorem setEng_relGc (G : Gang) (e : Nat) (E : Engine) : (setEng G e E).relGc = G.relGc := rfl
@[simp] theorem setEng_gifGc (G : Gang) (e : Nat) (E : Engine) : (setEng G e E).gifGc = G.gifGc := rfl
@[simp] theorem setEng_ilks (G : Gang) (e : Nat) (E : Engine) : (setEng G e E).ilks = G.ilks := rfl
@[simp] theorem setEng_txns (G : Gang) (e : Nat) (E : Engine) : (setEng G e E).txns = G.txns := rfl
@[simp] theorem setEng_tops (G : Gang) (e : Nat) (E : Engine) : (setEng G e E).tops = G.tops := rfl
@[simp] theorem setEng_copySeq (G : Gang) (e : Nat) (E : Engine) : (setEng G e E).copySeq = G.copySeq := rfl
@[simp] theorem setEng_cpySeq (G : Gang) (e : Nat) (E : Engine) : (setEng G e E).cpySeq = G.cpySeq := rfl
@[simp] theorem setEng_cause (G : Gang) (e : Nat) (E : Engine) : (setEng G e E).cause = G.cause := rfl
@[simp] theorem setEng_defCause (G : Gang) (e : Nat) (E : Engine) : (setEng G e E).defCause = G.defCause := rfl
@[simp] theorem setEng_exitPc (G : Gang) (e : Nat) (E : Engine) : (setEng G e E).exitPc = G.exitPc := rfl
@[simp] theorem setEng_exitPath (G : Gang) (e : Nat) (E : Engine) : (setEng G e E).exitPath = G.exitPath := rfl
@[simp] theorem setEng_wrote (G : Gang) (e : Nat) (E : Engine) : (setEng G e E).wrote = G.wrote := rfl
@[simp] theorem setEng_popped (G : Gang) (e : Nat) (E : Engine) : (setEng G e E).popped = G.popped := rfl
@[simp] theorem setEng_heldThyme (G : Gang) (e : Nat) (E : Engine) : (setEng G e E).heldThyme = G.heldThyme := rfl
@[simp] theorem setEng_nextId (G : Gang) (e : Nat) (E : Engine) : (setEng G e E).nextId = G.nextId := rfl
@[simp] theorem modHw_l1 (G : Gang) (e : Nat) (f : EngineHw → EngineHw) : (modHw G e f).l1 = G.l1 := rfl
@[simp] theorem modHw_frozen (G : Gang) (e : Nat) (f : EngineHw → EngineHw) : (modHw G e f).frozen = G.frozen := rfl
@[simp] theorem modHw_freezes (G : Gang) (e : Nat) (f : EngineHw → EngineHw) : (modHw G e f).freezes = G.freezes := rfl
@[simp] theorem modHw_gc (G : Gang) (e : Nat) (f : EngineHw → EngineHw) : (modHw G e f).gc = G.gc := rfl
@[simp] theorem modHw_run (G : Gang) (e : Nat) (f : EngineHw → EngineHw) : (modHw G e f).run = G.run := rfl
@[simp] theorem modHw_team (G : Gang) (e : Nat) (f : EngineHw → EngineHw) : (modHw G e f).team = G.team := rfl
@[simp] theorem modHw_stopReq (G : Gang) (e : Nat) (f : EngineHw → EngineHw) : (modHw G e f).stopReq = G.stopReq := rfl
@[simp] theorem modHw_stopAt (G : Gang) (e : Nat) (f : EngineHw → EngineHw) : (modHw G e f).stopAt = G.stopAt := rfl
@[simp] theorem modHw_stepLeft (G : Gang) (e : Nat) (f : EngineHw → EngineHw) : (modHw G e f).stepLeft = G.stepLeft := rfl
@[simp] theorem modHw_spare (G : Gang) (e : Nat) (f : EngineHw → EngineHw) : (modHw G e f).spare = G.spare := rfl
@[simp] theorem modHw_spareReq (G : Gang) (e : Nat) (f : EngineHw → EngineHw) : (modHw G e f).spareReq = G.spareReq := rfl
@[simp] theorem modHw_spareAskAt (G : Gang) (e : Nat) (f : EngineHw → EngineHw) : (modHw G e f).spareAskAt = G.spareAskAt := rfl
@[simp] theorem modHw_spareLost (G : Gang) (e : Nat) (f : EngineHw → EngineHw) : (modHw G e f).spareLost = G.spareLost := rfl
@[simp] theorem modHw_spareFreeAt (G : Gang) (e : Nat) (f : EngineHw → EngineHw) : (modHw G e f).spareFreeAt = G.spareFreeAt := rfl
@[simp] theorem modHw_handoverEnd (G : Gang) (e : Nat) (f : EngineHw → EngineHw) : (modHw G e f).handoverEnd = G.handoverEnd := rfl
@[simp] theorem modHw_preempted (G : Gang) (e : Nat) (f : EngineHw → EngineHw) : (modHw G e f).preempted = G.preempted := rfl
@[simp] theorem modHw_incoming (G : Gang) (e : Nat) (f : EngineHw → EngineHw) : (modHw G e f).incoming = G.incoming := rfl
@[simp] theorem modHw_a (G : Gang) (e : Nat) (f : EngineHw → EngineHw) : (modHw G e f).a = G.a := rfl
@[simp] theorem modHw_b (G : Gang) (e : Nat) (f : EngineHw → EngineHw) : (modHw G e f).b = G.b := rfl
@[simp] theorem modHw_turn (G : Gang) (e : Nat) (f : EngineHw → EngineHw) : (modHw G e f).turn = G.turn := rfl
@[simp] theorem modHw_lastIssue (G : Gang) (e : Nat) (f : EngineHw → EngineHw) : (modHw G e f).lastIssue = G.lastIssue := rfl
@[simp] theorem modHw_idleCount (G : Gang) (e : Nat) (f : EngineHw → EngineHw) : (modHw G e f).idleCount = G.idleCount := rfl
@[simp] theorem modHw_s (G : Gang) (e : Nat) (f : EngineHw → EngineHw) : (modHw G e f).s = G.s := rfl
@[simp] theorem modHw_lc (G : Gang) (e : Nat) (f : EngineHw → EngineHw) : (modHw G e f).lc = G.lc := rfl
@[simp] theorem modHw_abase (G : Gang) (e : Nat) (f : EngineHw → EngineHw) : (modHw G e f).abase = G.abase := rfl
@[simp] theorem modHw_d (G : Gang) (e : Nat) (f : EngineHw → EngineHw) : (modHw G e f).d = G.d := rfl
@[simp] theorem modHw_dsets (G : Gang) (e : Nat) (f : EngineHw → EngineHw) : (modHw G e f).dsets = G.dsets := rfl
@[simp] theorem modHw_ntile (G : Gang) (e : Nat) (f : EngineHw → EngineHw) : (modHw G e f).ntile = G.ntile := rfl
@[simp] theorem modHw_njoin (G : Gang) (e : Nat) (f : EngineHw → EngineHw) : (modHw G e f).njoin = G.njoin := rfl
@[simp] theorem modHw_npred (G : Gang) (e : Nat) (f : EngineHw → EngineHw) : (modHw G e f).npred = G.npred := rfl
@[simp] theorem modHw_ncopy (G : Gang) (e : Nat) (f : EngineHw → EngineHw) : (modHw G e f).ncopy = G.ncopy := rfl
@[simp] theorem modHw_nstore (G : Gang) (e : Nat) (f : EngineHw → EngineHw) : (modHw G e f).nstore = G.nstore := rfl
@[simp] theorem modHw_q4 (G : Gang) (e : Nat) (f : EngineHw → EngineHw) : (modHw G e f).q4 = G.q4 := rfl
@[simp] theorem modHw_q5 (G : Gang) (e : Nat) (f : EngineHw → EngineHw) : (modHw G e f).q5 = G.q5 := rfl
@[simp] theorem modHw_q6 (G : Gang) (e : Nat) (f : EngineHw → EngineHw) : (modHw G e f).q6 = G.q6 := rfl
@[simp] theorem modHw_q7 (G : Gang) (e : Nat) (f : EngineHw → EngineHw) : (modHw G e f).q7 = G.q7 := rfl
@[simp] theorem modHw_stack (G : Gang) (e : Nat) (f : EngineHw → EngineHw) : (modHw G e f).stack = G.stack := rfl
@[simp] theorem modHw_spilled (G : Gang) (e : Nat) (f : EngineHw → EngineHw) : (modHw G e f).spilled = G.spilled := rfl
@[simp] theorem modHw_ended (G : Gang) (e : Nat) (f : EngineHw → EngineHw) : (modHw G e f).ended = G.ended := rfl
@[simp] theorem modHw_stkb (G : Gang) (e : Nat) (f : EngineHw → EngineHw) : (modHw G e f).stkb = G.stkb := rfl
@[simp] theorem modHw_retired (G : Gang) (e : Nat) (f : EngineHw → EngineHw) : (modHw G e f).retired = G.retired := rfl
@[simp] theorem modHw_latch (G : Gang) (e : Nat) (f : EngineHw → EngineHw) : (modHw G e f).latch = G.latch := rfl
@[simp] theorem modHw_fresh (G : Gang) (e : Nat) (f : EngineHw → EngineHw) : (modHw G e f).fresh = G.fresh := rfl
@[simp] theorem modHw_div (G : Gang) (e : Nat) (f : EngineHw → EngineHw) : (modHw G e f).div = G.div := rfl
@[simp] theorem modHw_divSpare (G : Gang) (e : Nat) (f : EngineHw → EngineHw) : (modHw G e f).divSpare = G.divSpare := rfl
@[simp] theorem modHw_netAt (G : Gang) (e : Nat) (f : EngineHw → EngineHw) : (modHw G e f).netAt = G.netAt := rfl
@[simp] theorem modHw_flight (G : Gang) (e : Nat) (f : EngineHw → EngineHw) : (modHw G e f).flight = G.flight := rfl
@[simp] theorem modHw_oldWords (G : Gang) (e : Nat) (f : EngineHw → EngineHw) : (modHw G e f).oldWords = G.oldWords := rfl
@[simp] theorem modHw_relGc (G : Gang) (e : Nat) (f : EngineHw → EngineHw) : (modHw G e f).relGc = G.relGc := rfl
@[simp] theorem modHw_gifGc (G : Gang) (e : Nat) (f : EngineHw → EngineHw) : (modHw G e f).gifGc = G.gifGc := rfl
@[simp] theorem modHw_ilks (G : Gang) (e : Nat) (f : EngineHw → EngineHw) : (modHw G e f).ilks = G.ilks := rfl
@[simp] theorem modHw_txns (G : Gang) (e : Nat) (f : EngineHw → EngineHw) : (modHw G e f).txns = G.txns := rfl
@[simp] theorem modHw_tops (G : Gang) (e : Nat) (f : EngineHw → EngineHw) : (modHw G e f).tops = G.tops := rfl
@[simp] theorem modHw_copySeq (G : Gang) (e : Nat) (f : EngineHw → EngineHw) : (modHw G e f).copySeq = G.copySeq := rfl
@[simp] theorem modHw_cpySeq (G : Gang) (e : Nat) (f : EngineHw → EngineHw) : (modHw G e f).cpySeq = G.cpySeq := rfl
@[simp] theorem modHw_cause (G : Gang) (e : Nat) (f : EngineHw → EngineHw) : (modHw G e f).cause = G.cause := rfl
@[simp] theorem modHw_defCause (G : Gang) (e : Nat) (f : EngineHw → EngineHw) : (modHw G e f).defCause = G.defCause := rfl
@[simp] theorem modHw_exitPc (G : Gang) (e : Nat) (f : EngineHw → EngineHw) : (modHw G e f).exitPc = G.exitPc := rfl
@[simp] theorem modHw_exitPath (G : Gang) (e : Nat) (f : EngineHw → EngineHw) : (modHw G e f).exitPath = G.exitPath := rfl
@[simp] theorem modHw_wrote (G : Gang) (e : Nat) (f : EngineHw → EngineHw) : (modHw G e f).wrote = G.wrote := rfl
@[simp] theorem modHw_popped (G : Gang) (e : Nat) (f : EngineHw → EngineHw) : (modHw G e f).popped = G.popped := rfl
@[simp] theorem modHw_heldThyme (G : Gang) (e : Nat) (f : EngineHw → EngineHw) : (modHw G e f).heldThyme = G.heldThyme := rfl
@[simp] theorem modHw_nextId (G : Gang) (e : Nat) (f : EngineHw → EngineHw) : (modHw G e f).nextId = G.nextId := rfl
@[simp] theorem modHw_eng (G : Gang) (e : Nat) (f : EngineHw → EngineHw) : (modHw G e f).eng = G.eng := rfl
@[simp] theorem modPath_hw (G : Gang) (p : PathSlot) (f : Path → Path) : (modPath G p f).hw = G.hw := by cases p <;> rfl
@[simp] theorem modPath_l1 (G : Gang) (p : PathSlot) (f : Path → Path) : (modPath G p f).l1 = G.l1 := by cases p <;> rfl
@[simp] theorem modPath_frozen (G : Gang) (p : PathSlot) (f : Path → Path) : (modPath G p f).frozen = G.frozen := by cases p <;> rfl
@[simp] theorem modPath_freezes (G : Gang) (p : PathSlot) (f : Path → Path) : (modPath G p f).freezes = G.freezes := by cases p <;> rfl
@[simp] theorem modPath_gc (G : Gang) (p : PathSlot) (f : Path → Path) : (modPath G p f).gc = G.gc := by cases p <;> rfl
@[simp] theorem modPath_run (G : Gang) (p : PathSlot) (f : Path → Path) : (modPath G p f).run = G.run := by cases p <;> rfl
@[simp] theorem modPath_team (G : Gang) (p : PathSlot) (f : Path → Path) : (modPath G p f).team = G.team := by cases p <;> rfl
@[simp] theorem modPath_stopReq (G : Gang) (p : PathSlot) (f : Path → Path) : (modPath G p f).stopReq = G.stopReq := by cases p <;> rfl
@[simp] theorem modPath_stopAt (G : Gang) (p : PathSlot) (f : Path → Path) : (modPath G p f).stopAt = G.stopAt := by cases p <;> rfl
@[simp] theorem modPath_stepLeft (G : Gang) (p : PathSlot) (f : Path → Path) : (modPath G p f).stepLeft = G.stepLeft := by cases p <;> rfl
@[simp] theorem modPath_spare (G : Gang) (p : PathSlot) (f : Path → Path) : (modPath G p f).spare = G.spare := by cases p <;> rfl
@[simp] theorem modPath_spareReq (G : Gang) (p : PathSlot) (f : Path → Path) : (modPath G p f).spareReq = G.spareReq := by cases p <;> rfl
@[simp] theorem modPath_spareAskAt (G : Gang) (p : PathSlot) (f : Path → Path) : (modPath G p f).spareAskAt = G.spareAskAt := by cases p <;> rfl
@[simp] theorem modPath_spareLost (G : Gang) (p : PathSlot) (f : Path → Path) : (modPath G p f).spareLost = G.spareLost := by cases p <;> rfl
@[simp] theorem modPath_spareFreeAt (G : Gang) (p : PathSlot) (f : Path → Path) : (modPath G p f).spareFreeAt = G.spareFreeAt := by cases p <;> rfl
@[simp] theorem modPath_handoverEnd (G : Gang) (p : PathSlot) (f : Path → Path) : (modPath G p f).handoverEnd = G.handoverEnd := by cases p <;> rfl
@[simp] theorem modPath_preempted (G : Gang) (p : PathSlot) (f : Path → Path) : (modPath G p f).preempted = G.preempted := by cases p <;> rfl
@[simp] theorem modPath_incoming (G : Gang) (p : PathSlot) (f : Path → Path) : (modPath G p f).incoming = G.incoming := by cases p <;> rfl
@[simp] theorem modPath_turn (G : Gang) (p : PathSlot) (f : Path → Path) : (modPath G p f).turn = G.turn := by cases p <;> rfl
@[simp] theorem modPath_lastIssue (G : Gang) (p : PathSlot) (f : Path → Path) : (modPath G p f).lastIssue = G.lastIssue := by cases p <;> rfl
@[simp] theorem modPath_idleCount (G : Gang) (p : PathSlot) (f : Path → Path) : (modPath G p f).idleCount = G.idleCount := by cases p <;> rfl
@[simp] theorem modPath_s (G : Gang) (p : PathSlot) (f : Path → Path) : (modPath G p f).s = G.s := by cases p <;> rfl
@[simp] theorem modPath_lc (G : Gang) (p : PathSlot) (f : Path → Path) : (modPath G p f).lc = G.lc := by cases p <;> rfl
@[simp] theorem modPath_abase (G : Gang) (p : PathSlot) (f : Path → Path) : (modPath G p f).abase = G.abase := by cases p <;> rfl
@[simp] theorem modPath_d (G : Gang) (p : PathSlot) (f : Path → Path) : (modPath G p f).d = G.d := by cases p <;> rfl
@[simp] theorem modPath_dsets (G : Gang) (p : PathSlot) (f : Path → Path) : (modPath G p f).dsets = G.dsets := by cases p <;> rfl
@[simp] theorem modPath_ntile (G : Gang) (p : PathSlot) (f : Path → Path) : (modPath G p f).ntile = G.ntile := by cases p <;> rfl
@[simp] theorem modPath_njoin (G : Gang) (p : PathSlot) (f : Path → Path) : (modPath G p f).njoin = G.njoin := by cases p <;> rfl
@[simp] theorem modPath_npred (G : Gang) (p : PathSlot) (f : Path → Path) : (modPath G p f).npred = G.npred := by cases p <;> rfl
@[simp] theorem modPath_ncopy (G : Gang) (p : PathSlot) (f : Path → Path) : (modPath G p f).ncopy = G.ncopy := by cases p <;> rfl
@[simp] theorem modPath_nstore (G : Gang) (p : PathSlot) (f : Path → Path) : (modPath G p f).nstore = G.nstore := by cases p <;> rfl
@[simp] theorem modPath_q4 (G : Gang) (p : PathSlot) (f : Path → Path) : (modPath G p f).q4 = G.q4 := by cases p <;> rfl
@[simp] theorem modPath_q5 (G : Gang) (p : PathSlot) (f : Path → Path) : (modPath G p f).q5 = G.q5 := by cases p <;> rfl
@[simp] theorem modPath_q6 (G : Gang) (p : PathSlot) (f : Path → Path) : (modPath G p f).q6 = G.q6 := by cases p <;> rfl
@[simp] theorem modPath_q7 (G : Gang) (p : PathSlot) (f : Path → Path) : (modPath G p f).q7 = G.q7 := by cases p <;> rfl
@[simp] theorem modPath_stack (G : Gang) (p : PathSlot) (f : Path → Path) : (modPath G p f).stack = G.stack := by cases p <;> rfl
@[simp] theorem modPath_spilled (G : Gang) (p : PathSlot) (f : Path → Path) : (modPath G p f).spilled = G.spilled := by cases p <;> rfl
@[simp] theorem modPath_ended (G : Gang) (p : PathSlot) (f : Path → Path) : (modPath G p f).ended = G.ended := by cases p <;> rfl
@[simp] theorem modPath_stkb (G : Gang) (p : PathSlot) (f : Path → Path) : (modPath G p f).stkb = G.stkb := by cases p <;> rfl
@[simp] theorem modPath_retired (G : Gang) (p : PathSlot) (f : Path → Path) : (modPath G p f).retired = G.retired := by cases p <;> rfl
@[simp] theorem modPath_latch (G : Gang) (p : PathSlot) (f : Path → Path) : (modPath G p f).latch = G.latch := by cases p <;> rfl
@[simp] theorem modPath_fresh (G : Gang) (p : PathSlot) (f : Path → Path) : (modPath G p f).fresh = G.fresh := by cases p <;> rfl
@[simp] theorem modPath_div (G : Gang) (p : PathSlot) (f : Path → Path) : (modPath G p f).div = G.div := by cases p <;> rfl
@[simp] theorem modPath_divSpare (G : Gang) (p : PathSlot) (f : Path → Path) : (modPath G p f).divSpare = G.divSpare := by cases p <;> rfl
@[simp] theorem modPath_netAt (G : Gang) (p : PathSlot) (f : Path → Path) : (modPath G p f).netAt = G.netAt := by cases p <;> rfl
@[simp] theorem modPath_flight (G : Gang) (p : PathSlot) (f : Path → Path) : (modPath G p f).flight = G.flight := by cases p <;> rfl
@[simp] theorem modPath_oldWords (G : Gang) (p : PathSlot) (f : Path → Path) : (modPath G p f).oldWords = G.oldWords := by cases p <;> rfl
@[simp] theorem modPath_relGc (G : Gang) (p : PathSlot) (f : Path → Path) : (modPath G p f).relGc = G.relGc := by cases p <;> rfl
@[simp] theorem modPath_gifGc (G : Gang) (p : PathSlot) (f : Path → Path) : (modPath G p f).gifGc = G.gifGc := by cases p <;> rfl
@[simp] theorem modPath_ilks (G : Gang) (p : PathSlot) (f : Path → Path) : (modPath G p f).ilks = G.ilks := by cases p <;> rfl
@[simp] theorem modPath_txns (G : Gang) (p : PathSlot) (f : Path → Path) : (modPath G p f).txns = G.txns := by cases p <;> rfl
@[simp] theorem modPath_tops (G : Gang) (p : PathSlot) (f : Path → Path) : (modPath G p f).tops = G.tops := by cases p <;> rfl
@[simp] theorem modPath_copySeq (G : Gang) (p : PathSlot) (f : Path → Path) : (modPath G p f).copySeq = G.copySeq := by cases p <;> rfl
@[simp] theorem modPath_cpySeq (G : Gang) (p : PathSlot) (f : Path → Path) : (modPath G p f).cpySeq = G.cpySeq := by cases p <;> rfl
@[simp] theorem modPath_cause (G : Gang) (p : PathSlot) (f : Path → Path) : (modPath G p f).cause = G.cause := by cases p <;> rfl
@[simp] theorem modPath_defCause (G : Gang) (p : PathSlot) (f : Path → Path) : (modPath G p f).defCause = G.defCause := by cases p <;> rfl
@[simp] theorem modPath_exitPc (G : Gang) (p : PathSlot) (f : Path → Path) : (modPath G p f).exitPc = G.exitPc := by cases p <;> rfl
@[simp] theorem modPath_exitPath (G : Gang) (p : PathSlot) (f : Path → Path) : (modPath G p f).exitPath = G.exitPath := by cases p <;> rfl
@[simp] theorem modPath_wrote (G : Gang) (p : PathSlot) (f : Path → Path) : (modPath G p f).wrote = G.wrote := by cases p <;> rfl
@[simp] theorem modPath_popped (G : Gang) (p : PathSlot) (f : Path → Path) : (modPath G p f).popped = G.popped := by cases p <;> rfl
@[simp] theorem modPath_heldThyme (G : Gang) (p : PathSlot) (f : Path → Path) : (modPath G p f).heldThyme = G.heldThyme := by cases p <;> rfl
@[simp] theorem modPath_nextId (G : Gang) (p : PathSlot) (f : Path → Path) : (modPath G p f).nextId = G.nextId := by cases p <;> rfl
@[simp] theorem modPath_eng (G : Gang) (p : PathSlot) (f : Path → Path) : (modPath G p f).eng = G.eng := by cases p <;> rfl
@[simp] theorem healReg_l1 (e : Nat) (r : RegName) (G : Gang) : (healReg e r G).l1 = G.l1 := by unfold healReg; split <;> rfl
@[simp] theorem healReg_frozen (e : Nat) (r : RegName) (G : Gang) : (healReg e r G).frozen = G.frozen := by unfold healReg; split <;> rfl
@[simp] theorem healReg_freezes (e : Nat) (r : RegName) (G : Gang) : (healReg e r G).freezes = G.freezes := by unfold healReg; split <;> rfl
@[simp] theorem healReg_gc (e : Nat) (r : RegName) (G : Gang) : (healReg e r G).gc = G.gc := by unfold healReg; split <;> rfl
@[simp] theorem healReg_run (e : Nat) (r : RegName) (G : Gang) : (healReg e r G).run = G.run := by unfold healReg; split <;> rfl
@[simp] theorem healReg_team (e : Nat) (r : RegName) (G : Gang) : (healReg e r G).team = G.team := by unfold healReg; split <;> rfl
@[simp] theorem healReg_stopReq (e : Nat) (r : RegName) (G : Gang) : (healReg e r G).stopReq = G.stopReq := by unfold healReg; split <;> rfl
@[simp] theorem healReg_stopAt (e : Nat) (r : RegName) (G : Gang) : (healReg e r G).stopAt = G.stopAt := by unfold healReg; split <;> rfl
@[simp] theorem healReg_stepLeft (e : Nat) (r : RegName) (G : Gang) : (healReg e r G).stepLeft = G.stepLeft := by unfold healReg; split <;> rfl
@[simp] theorem healReg_spare (e : Nat) (r : RegName) (G : Gang) : (healReg e r G).spare = G.spare := by unfold healReg; split <;> rfl
@[simp] theorem healReg_spareReq (e : Nat) (r : RegName) (G : Gang) : (healReg e r G).spareReq = G.spareReq := by unfold healReg; split <;> rfl
@[simp] theorem healReg_spareAskAt (e : Nat) (r : RegName) (G : Gang) : (healReg e r G).spareAskAt = G.spareAskAt := by unfold healReg; split <;> rfl
@[simp] theorem healReg_spareLost (e : Nat) (r : RegName) (G : Gang) : (healReg e r G).spareLost = G.spareLost := by unfold healReg; split <;> rfl
@[simp] theorem healReg_spareFreeAt (e : Nat) (r : RegName) (G : Gang) : (healReg e r G).spareFreeAt = G.spareFreeAt := by unfold healReg; split <;> rfl
@[simp] theorem healReg_handoverEnd (e : Nat) (r : RegName) (G : Gang) : (healReg e r G).handoverEnd = G.handoverEnd := by unfold healReg; split <;> rfl
@[simp] theorem healReg_preempted (e : Nat) (r : RegName) (G : Gang) : (healReg e r G).preempted = G.preempted := by unfold healReg; split <;> rfl
@[simp] theorem healReg_incoming (e : Nat) (r : RegName) (G : Gang) : (healReg e r G).incoming = G.incoming := by unfold healReg; split <;> rfl
@[simp] theorem healReg_a (e : Nat) (r : RegName) (G : Gang) : (healReg e r G).a = G.a := by unfold healReg; split <;> rfl
@[simp] theorem healReg_b (e : Nat) (r : RegName) (G : Gang) : (healReg e r G).b = G.b := by unfold healReg; split <;> rfl
@[simp] theorem healReg_turn (e : Nat) (r : RegName) (G : Gang) : (healReg e r G).turn = G.turn := by unfold healReg; split <;> rfl
@[simp] theorem healReg_lastIssue (e : Nat) (r : RegName) (G : Gang) : (healReg e r G).lastIssue = G.lastIssue := by unfold healReg; split <;> rfl
@[simp] theorem healReg_idleCount (e : Nat) (r : RegName) (G : Gang) : (healReg e r G).idleCount = G.idleCount := by unfold healReg; split <;> rfl
@[simp] theorem healReg_s (e : Nat) (r : RegName) (G : Gang) : (healReg e r G).s = G.s := by unfold healReg; split <;> rfl
@[simp] theorem healReg_lc (e : Nat) (r : RegName) (G : Gang) : (healReg e r G).lc = G.lc := by unfold healReg; split <;> rfl
@[simp] theorem healReg_abase (e : Nat) (r : RegName) (G : Gang) : (healReg e r G).abase = G.abase := by unfold healReg; split <;> rfl
@[simp] theorem healReg_d (e : Nat) (r : RegName) (G : Gang) : (healReg e r G).d = G.d := by unfold healReg; split <;> rfl
@[simp] theorem healReg_dsets (e : Nat) (r : RegName) (G : Gang) : (healReg e r G).dsets = G.dsets := by unfold healReg; split <;> rfl
@[simp] theorem healReg_ntile (e : Nat) (r : RegName) (G : Gang) : (healReg e r G).ntile = G.ntile := by unfold healReg; split <;> rfl
@[simp] theorem healReg_njoin (e : Nat) (r : RegName) (G : Gang) : (healReg e r G).njoin = G.njoin := by unfold healReg; split <;> rfl
@[simp] theorem healReg_npred (e : Nat) (r : RegName) (G : Gang) : (healReg e r G).npred = G.npred := by unfold healReg; split <;> rfl
@[simp] theorem healReg_ncopy (e : Nat) (r : RegName) (G : Gang) : (healReg e r G).ncopy = G.ncopy := by unfold healReg; split <;> rfl
@[simp] theorem healReg_nstore (e : Nat) (r : RegName) (G : Gang) : (healReg e r G).nstore = G.nstore := by unfold healReg; split <;> rfl
@[simp] theorem healReg_q4 (e : Nat) (r : RegName) (G : Gang) : (healReg e r G).q4 = G.q4 := by unfold healReg; split <;> rfl
@[simp] theorem healReg_q5 (e : Nat) (r : RegName) (G : Gang) : (healReg e r G).q5 = G.q5 := by unfold healReg; split <;> rfl
@[simp] theorem healReg_q6 (e : Nat) (r : RegName) (G : Gang) : (healReg e r G).q6 = G.q6 := by unfold healReg; split <;> rfl
@[simp] theorem healReg_q7 (e : Nat) (r : RegName) (G : Gang) : (healReg e r G).q7 = G.q7 := by unfold healReg; split <;> rfl
@[simp] theorem healReg_stack (e : Nat) (r : RegName) (G : Gang) : (healReg e r G).stack = G.stack := by unfold healReg; split <;> rfl
@[simp] theorem healReg_spilled (e : Nat) (r : RegName) (G : Gang) : (healReg e r G).spilled = G.spilled := by unfold healReg; split <;> rfl
@[simp] theorem healReg_ended (e : Nat) (r : RegName) (G : Gang) : (healReg e r G).ended = G.ended := by unfold healReg; split <;> rfl
@[simp] theorem healReg_stkb (e : Nat) (r : RegName) (G : Gang) : (healReg e r G).stkb = G.stkb := by unfold healReg; split <;> rfl
@[simp] theorem healReg_retired (e : Nat) (r : RegName) (G : Gang) : (healReg e r G).retired = G.retired := by unfold healReg; split <;> rfl
@[simp] theorem healReg_latch (e : Nat) (r : RegName) (G : Gang) : (healReg e r G).latch = G.latch := by unfold healReg; split <;> rfl
@[simp] theorem healReg_fresh (e : Nat) (r : RegName) (G : Gang) : (healReg e r G).fresh = G.fresh := by unfold healReg; split <;> rfl
@[simp] theorem healReg_div (e : Nat) (r : RegName) (G : Gang) : (healReg e r G).div = G.div := by unfold healReg; split <;> rfl
@[simp] theorem healReg_divSpare (e : Nat) (r : RegName) (G : Gang) : (healReg e r G).divSpare = G.divSpare := by unfold healReg; split <;> rfl
@[simp] theorem healReg_netAt (e : Nat) (r : RegName) (G : Gang) : (healReg e r G).netAt = G.netAt := by unfold healReg; split <;> rfl
@[simp] theorem healReg_flight (e : Nat) (r : RegName) (G : Gang) : (healReg e r G).flight = G.flight := by unfold healReg; split <;> rfl
@[simp] theorem healReg_oldWords (e : Nat) (r : RegName) (G : Gang) : (healReg e r G).oldWords = G.oldWords := by unfold healReg; split <;> rfl
@[simp] theorem healReg_relGc (e : Nat) (r : RegName) (G : Gang) : (healReg e r G).relGc = G.relGc := by unfold healReg; split <;> rfl
@[simp] theorem healReg_gifGc (e : Nat) (r : RegName) (G : Gang) : (healReg e r G).gifGc = G.gifGc := by unfold healReg; split <;> rfl
@[simp] theorem healReg_ilks (e : Nat) (r : RegName) (G : Gang) : (healReg e r G).ilks = G.ilks := by unfold healReg; split <;> rfl
@[simp] theorem healReg_txns (e : Nat) (r : RegName) (G : Gang) : (healReg e r G).txns = G.txns := by unfold healReg; split <;> rfl
@[simp] theorem healReg_tops (e : Nat) (r : RegName) (G : Gang) : (healReg e r G).tops = G.tops := by unfold healReg; split <;> rfl
@[simp] theorem healReg_copySeq (e : Nat) (r : RegName) (G : Gang) : (healReg e r G).copySeq = G.copySeq := by unfold healReg; split <;> rfl
@[simp] theorem healReg_cpySeq (e : Nat) (r : RegName) (G : Gang) : (healReg e r G).cpySeq = G.cpySeq := by unfold healReg; split <;> rfl
@[simp] theorem healReg_cause (e : Nat) (r : RegName) (G : Gang) : (healReg e r G).cause = G.cause := by unfold healReg; split <;> rfl
@[simp] theorem healReg_defCause (e : Nat) (r : RegName) (G : Gang) : (healReg e r G).defCause = G.defCause := by unfold healReg; split <;> rfl
@[simp] theorem healReg_exitPc (e : Nat) (r : RegName) (G : Gang) : (healReg e r G).exitPc = G.exitPc := by unfold healReg; split <;> rfl
@[simp] theorem healReg_exitPath (e : Nat) (r : RegName) (G : Gang) : (healReg e r G).exitPath = G.exitPath := by unfold healReg; split <;> rfl
@[simp] theorem healReg_wrote (e : Nat) (r : RegName) (G : Gang) : (healReg e r G).wrote = G.wrote := by unfold healReg; split <;> rfl
@[simp] theorem healReg_popped (e : Nat) (r : RegName) (G : Gang) : (healReg e r G).popped = G.popped := by unfold healReg; split <;> rfl
@[simp] theorem healReg_heldThyme (e : Nat) (r : RegName) (G : Gang) : (healReg e r G).heldThyme = G.heldThyme := by unfold healReg; split <;> rfl
@[simp] theorem healReg_nextId (e : Nat) (r : RegName) (G : Gang) : (healReg e r G).nextId = G.nextId := by unfold healReg; split <;> rfl
@[simp] theorem healReg_eng (e : Nat) (r : RegName) (G : Gang) : (healReg e r G).eng = G.eng := by unfold healReg; split <;> rfl

/-! Parts read after an update. -/

@[simp] theorem getGang_setGang (s : State) (g h : Nat) (G : Gang) :
    getGang (setGang s g G) h = if h = g then G else getGang s h := by
  unfold getGang setGang; simp only [spFind_spPut]; split <;> rfl
@[simp] theorem getGang_modGang (s : State) (g h : Nat) (f : Gang → Gang) :
    getGang (modGang s g f) h = if h = g then f (getGang s g) else getGang s h := by simp [modGang]
@[simp] theorem getGang_modDie (s : State) (d h : Nat) (f : GDie → GDie) : getGang (modDie s d f) h = getGang s h := rfl
@[simp] theorem getGang_modPair (s : State) (p h : Nat) (f : Pair → Pair) : getGang (modPair s p f) h = getGang s h := rfl
@[simp] theorem getGang_devSet (s : State) (a h : Nat) (v : DWord) : getGang (devSet s a v) h = getGang s h := rfl
@[simp] theorem getGang_modTeam (s : State) (t h : Nat) (f : Team → Team) : getGang (modTeam s t f) h = getGang s h := by
  simp [getGang]
@[simp] theorem curGang_modCur (s : State) (f : Gang → Gang) : curGang (modCur s f) = f (curGang s) := by simp [curGang, modCur]
@[simp] theorem curGang_inFlight (s : State) (n : Nat) (w : Wr) : curGang (inFlight s n w) =
    { curGang s with flight := (curGang s).flight ++ [⟨(curGang s).gc + n, s.cur.path, w, none, (curGang s).gc⟩] } := by simp [inFlight]
@[simp] theorem curGang_addIlk (s : State) (r : Nat) (k : IlkSrc) : curGang (addIlk s r k) =
    { curGang s with
      ilks := (curGang s).ilks ++ [⟨(curGang s).nextId, s.cur.path, false, false,
        32 * (curGang s).gc + (if s.cur.path = .B then 16 else 0) + s.cur.slot, r, k⟩], nextId := (curGang s).nextId + 1 } := by
  simp [addIlk]
@[simp] theorem curGang_modCurPath (s : State) (f : Path → Path) : curGang (modCurPath s f) = modPath (curGang s) s.cur.path f := by
  simp [modCurPath]
theorem getGang_modCur_other (s : State) (f : Gang → Gang) (g : Nat) (h : g ≠ s.cur.gang) : getGang (modCur s f) g = getGang s g := by
  simp [modCur, h]
@[simp] theorem getPath_modPath (G : Gang) (p q : PathSlot) (f : Path → Path) :
    getPath (modPath G p f) q = if q = p then f (getPath G p) else getPath G q := by cases p <;> cases q <;> rfl
@[simp] theorem getEng_modEng (G : Gang) (e k : Nat) (f : Engine → Engine) :
    getEng (modEng G e f) k = if k = e then f (getEng G e) else getEng G k := by
  unfold getEng modEng setEng; simp only [spFind_spPut]; split <;> rfl
@[simp] theorem getHw_modHw (G : Gang) (e k : Nat) (f : EngineHw → EngineHw) :
    getHw (modHw G e f) k = if k = e then f (getHw G e) else getHw G k := by
  unfold getHw modHw; simp only [spFind_spPut]; split <;> rfl
@[simp] theorem getEng_modHw (G : Gang) (e k : Nat) (f : EngineHw → EngineHw) : getEng (modHw G e f) k = getEng G k := rfl
@[simp] theorem getHw_modEng (G : Gang) (e k : Nat) (f : Engine → Engine) : getHw (modEng G e f) k = getHw G k := rfl
@[simp] theorem getTeam_modTeam (s : State) (t u : Nat) (f : Team → Team) :
    getTeam (modTeam s t f) u = if u = t then (getTeam s t).map f else getTeam s u := by
  unfold modTeam getTeam
  split
  · rename_i T h; simp only [spFind_spPut]; split <;> simp_all
  · rename_i h; split <;> simp_all
@[simp] theorem getTeam_setGang (s : State) (g t : Nat) (G : Gang) : getTeam (setGang s g G) t = getTeam s t := rfl
@[simp] theorem getTeam_modGang (s : State) (g t : Nat) (f : Gang → Gang) : getTeam (modGang s g f) t = getTeam s t := rfl
@[simp] theorem getTeam_devSet (s : State) (a t : Nat) (v : DWord) : getTeam (devSet s a v) t = getTeam s t := rfl
@[simp] theorem getDie_modDie (s : State) (d k : Nat) (f : GDie → GDie) :
    getDie (modDie s d f) k = if k = d then f (getDie s d) else getDie s k := by
  unfold getDie modDie; simp only [spFind_spPut]; split <;> rfl
@[simp] theorem getPair_modPair (s : State) (p k : Nat) (f : Pair → Pair) :
    getPair (modPair s p f) k = if k = p then f (getPair s p) else getPair s k := by
  unfold getPair modPair; simp only [spFind_spPut]; split <;> rfl

/-- A window word reads back what was written; another one reads as before. -/
theorem devGet_devSet (s : State) (a b : Nat) (v : DWord) :
    devGet (devSet s a v) b = if (b - devBase) / 8 = (a - devBase) / 8 then v else devGet s b := by
  unfold devGet devSet; simp
@[simp] theorem devGet_devSet_same (s : State) (a : Nat) (v : DWord) : devGet (devSet s a v) a = v := by simp [devGet_devSet]
@[simp] theorem devGet_setGang (s : State) (g a : Nat) (G : Gang) : devGet (setGang s g G) a = devGet s a := rfl
@[simp] theorem devGet_modGang (s : State) (g a : Nat) (f : Gang → Gang) : devGet (modGang s g f) a = devGet s a := rfl
@[simp] theorem devGet_modTeam (s : State) (t a : Nat) (f : Team → Team) : devGet (modTeam s t f) a = devGet s a := by simp [devGet]

/-- A register written reads the value; the others read as before. -/
theorem sReg_applyWr (W : Win) (p : PathSlot) (r q : Nat) (v : DWord) (G : Gang) :
    sReg (applyWr W p (.s r v) G) q = if q = r then v else sReg G q := by
  show spGet 0 (healReg 0 (.s r) _).s q = _
  rw [healReg_s]; simp [sReg]

end Sys2Proof.Machine
end

