-- ==== Sys2Proof/Laws/Issue.lean ====
section
/-! SUPPORT. Laws of the checks at issue: when a verdict is good, and what a verdict that is not does. -/

namespace Sys2Proof.Machine

/-! Good verdicts. -/

@[simp] theorem and_ok (v : Verdict) : Verdict.and .ok v = v := by
  cases v with
  | trap t => exact if_pos (show 2 + t.cause.toNat < 1001 by have := t.cause.isLt; omega)
  | endCtx c va => exact if_pos (show 2 + c.toNat < 1001 by have := c.isLt; omega)
  | _ => simp [Verdict.and, Verdict.rank]
@[simp] theorem ok_and_ok : Verdict.and .ok .ok = .ok := rfl

theorem andAll_ok (vs : List Verdict) (h : ∀ v ∈ vs, v = .ok) : andAll vs = .ok := by
  unfold andAll
  induction vs with
  | nil => rfl
  | cons v vs ih =>
    rw [List.foldl_cons, h v (by simp)]
    exact ih (fun w hw => h w (by simp [hw]))

theorem waitUnless_of {c : Bool} {h : Hold} (hc : c = true) : waitUnless c h = .ok := by simp [waitUnless, hc]

/-- What an instruction reads is there: the common checks pass. -/
theorem commonCheck_of_readable {i : Instr} {s : State} (h : Readable i s) : commonCheck i s = .ok := by
  obtain ⟨h1, h2, h3⟩ := h
  apply andAll_ok
  intro v hv
  simp only [List.mem_cons, List.not_mem_nil, or_false] at hv
  rcases hv with rfl | rfl | rfl
  · unfold ilkCheck
    have a : ∀ r ∈ sSrcs i ++ (exposedS i).toList.map (·.toNat), ilkThyme (curGang s) r = false := by
      intro r hr
      have := h1 r hr
      simp only [ilkBusy, ilkThyme, List.any_eq_false] at this ⊢
      intro k hk; simp [this k hk]
    have b : (sSrcs i ++ (exposedS i).toList.map (·.toNat)).find? (ilkThyme (curGang s)) = none := by
      rw [List.find?_eq_none]; intro r hr; simp [a r hr]
    have c : (sSrcs i ++ (exposedS i).toList.map (·.toNat)).any (ilkBusy (curGang s)) = false := by
      rw [List.any_eq_false]; intro r hr; simp [h1 r hr]
    simp only [b, c]; rfl
  · unfold queueCheck
    have : (i.queues.map (·.toNat)).any (queueWait s) = false := by
      rw [List.any_eq_false]; intro r hr
      obtain ⟨k, hk, rfl⟩ := List.mem_map.mp hr
      simp [h2 k hk]
    simp [this]
  · unfold parityCheck
    have : (List.range 16).filter (parityBad s i) = [] := by
      rw [List.filter_eq_nil_iff]; intro e he; simp [h3 e (by simpa using he)]
    simp [this]

theorem engCheck_ok {s : State} {f : Nat → Option (BitVec 8 × Nat)} (h : ∀ e, e ∈ actives s → f e = none) :
    engCheck s f = .ok := by
  have : (actives s).filterMap (fun e => (f e).map (fun c => (e, c))) = [] := by
    rw [List.filterMap_eq_nil_iff]; intro e he; simp [h e he]
  simp [engCheck, this]

theorem commit_ok {i : Instr} {v : Verdict} {eff : State → State} {s : State} (h : v = .ok) :
    commit i v eff s = .next (eff s) := by
  subst h; simp [commit, settle]

/-! Verdicts that only wait or trap. -/

/-- A verdict that lets the instruction act, wait or trap. -/
def Verdict.plain : Verdict → Prop
  | .ok | .wait _ | .trap _ => True
  | .fault _ | .arrive _ | .endCtx _ _ => False

theorem plain_and {a b : Verdict} (ha : a.plain) (hb : b.plain) : (a.and b).plain := by
  unfold Verdict.and
  split
  · exact ha
  · repeat' split
    all_goals trivial
  · split <;> assumption
theorem plain_andAll {vs : List Verdict} (h : ∀ v ∈ vs, v.plain) : (andAll vs).plain := by
  suffices ∀ (a : Verdict), a.plain → (vs.foldl Verdict.and a).plain from this .ok trivial
  induction vs with
  | nil => exact fun a ha => ha
  | cons v vs ih =>
    intro a ha
    exact ih (fun w hw => h w (by simp [hw])) _ (plain_and ha (h v (by simp)))
theorem plain_waitUnless (c : Bool) (h : Hold) : (waitUnless c h).plain := by unfold waitUnless; split <;> trivial
theorem plain_engCheck (s : State) (f : Nat → Option (BitVec 8 × Nat)) : (engCheck s f).plain := by
  unfold engCheck; dsimp only; split <;> trivial
theorem plain_commonCheck (i : Instr) (s : State) : (commonCheck i s).plain := by
  apply plain_andAll
  intro v hv
  simp only [List.mem_cons, List.not_mem_nil, or_false] at hv
  rcases hv with rfl | rfl | rfl
  · unfold ilkCheck; dsimp only; split <;> (try split) <;> trivial
  · unfold queueCheck; split <;> trivial
  · unfold parityCheck; dsimp only; split <;> trivial
theorem plain_fmtCheck (s : State) (f : Fmt) (k : Fmt → Bool) : (fmtCheck s f k).plain := by
  unfold fmtCheck; split
  · exact plain_engCheck _ _
  · trivial

end Sys2Proof.Machine
end

