-- ==== Sys2Proof/Laws/Checks.lean ====
section
/-! SUPPORT. The checks of each slot instruction at issue, in the words of its own case: the case distinctions of the
families read off once for every constructor. -/

namespace Sys2Proof.Machine

theorem slotCheck_delayOnly (delay : BitVec 6) (pop : BitVec 8) (s : State) :
    slotCheck (.delayOnly delay pop) s = waitUnless (!popWait pop s) .queue := rfl
theorem slotCheck_add (rd ra rb : SReg) (s : State) :
    slotCheck (.add rd ra rb) s = Verdict.and (commonCheck (.add rd ra rb) s) .ok := rfl
theorem slotCheck_sub (rd ra rb : SReg) (s : State) :
    slotCheck (.sub rd ra rb) s = Verdict.and (commonCheck (.sub rd ra rb) s) .ok := rfl
theorem slotCheck_and (rd ra rb : SReg) (s : State) :
    slotCheck (.and rd ra rb) s = Verdict.and (commonCheck (.and rd ra rb) s) .ok := rfl
theorem slotCheck_or (rd ra rb : SReg) (s : State) :
    slotCheck (.or rd ra rb) s = Verdict.and (commonCheck (.or rd ra rb) s) .ok := rfl
theorem slotCheck_xor (rd ra rb : SReg) (s : State) :
    slotCheck (.xor rd ra rb) s = Verdict.and (commonCheck (.xor rd ra rb) s) .ok := rfl
theorem slotCheck_andn (rd ra rb : SReg) (s : State) :
    slotCheck (.andn rd ra rb) s = Verdict.and (commonCheck (.andn rd ra rb) s) .ok := rfl
theorem slotCheck_shl (rd ra rb : SReg) (s : State) :
    slotCheck (.shl rd ra rb) s = Verdict.and (commonCheck (.shl rd ra rb) s) .ok := rfl
theorem slotCheck_shr (rd ra rb : SReg) (s : State) :
    slotCheck (.shr rd ra rb) s = Verdict.and (commonCheck (.shr rd ra rb) s) .ok := rfl
theorem slotCheck_sar (rd ra rb : SReg) (s : State) :
    slotCheck (.sar rd ra rb) s = Verdict.and (commonCheck (.sar rd ra rb) s) .ok := rfl
theorem slotCheck_min (u : Bool) (rd ra rb : SReg) (s : State) :
    slotCheck (.min u rd ra rb) s = Verdict.and (commonCheck (.min u rd ra rb) s) .ok := rfl
theorem slotCheck_max (u : Bool) (rd ra rb : SReg) (s : State) :
    slotCheck (.max u rd ra rb) s = Verdict.and (commonCheck (.max u rd ra rb) s) .ok := rfl
theorem slotCheck_cmp (c : Cond) (rd ra rb : SReg) (s : State) :
    slotCheck (.cmp c rd ra rb) s = Verdict.and (commonCheck (.cmp c rd ra rb) s) .ok := rfl
theorem slotCheck_sel (rd ra rb rc : SReg) (s : State) :
    slotCheck (.sel rd ra rb rc) s = Verdict.and (commonCheck (.sel rd ra rb rc) s) .ok := rfl
theorem slotCheck_popc (rd ra : SReg) (s : State) :
    slotCheck (.popc rd ra) s = Verdict.and (commonCheck (.popc rd ra) s) .ok := rfl
theorem slotCheck_clz (rd ra : SReg) (s : State) :
    slotCheck (.clz rd ra) s = Verdict.and (commonCheck (.clz rd ra) s) .ok := rfl
theorem slotCheck_mul (rd ra rb : SReg) (s : State) :
    slotCheck (.mul rd ra rb) s = Verdict.and (commonCheck (.mul rd ra rb) s) .ok := rfl
theorem slotCheck_mulh (u : Bool) (rd ra rb : SReg) (s : State) :
    slotCheck (.mulh u rd ra rb) s = Verdict.and (commonCheck (.mulh u rd ra rb) s) .ok := rfl
theorem slotCheck_div (u : Bool) (rd ra rb : SReg) (s : State) :
    slotCheck (.div u rd ra rb) s = Verdict.and (commonCheck (.div u rd ra rb) s) (waitUnless (decide (divFree s ≤
      Gang.gc (curGang s))) .other) := rfl
theorem slotCheck_rem (u : Bool) (rd ra rb : SReg) (s : State) :
    slotCheck (.rem u rd ra rb) s = Verdict.and (commonCheck (.rem u rd ra rb) s) (waitUnless (decide (divFree s ≤
      Gang.gc (curGang s))) .other) := rfl
theorem slotCheck_addi (rd ra : SReg) (imm : BitVec 28) (s : State) :
    slotCheck (.addi rd ra imm) s = Verdict.and (commonCheck (.addi rd ra imm) s) .ok := rfl
theorem slotCheck_li (rd : SReg) (imm : BitVec 32) (s : State) :
    slotCheck (.li rd imm) s = Verdict.and (commonCheck (.li rd imm) s) .ok := rfl
theorem slotCheck_lih (rd : SReg) (imm : BitVec 32) (s : State) :
    slotCheck (.lih rd imm) s = Verdict.and (commonCheck (.lih rd imm) s) .ok := rfl
theorem slotCheck_br (c : Cond) (ra rb : SReg) (off : BitVec 24) (s : State) :
    slotCheck (.br c ra rb off) s = Verdict.and (commonCheck (.br c ra rb off) s) .ok := rfl
theorem slotCheck_jmp (off : BitVec 24) (s : State) :
    slotCheck (.jmp off) s = Verdict.and (commonCheck (.jmp off) s) .ok := rfl
theorem slotCheck_jmpr (ra : SReg) (s : State) :
    slotCheck (.jmpr ra) s = Verdict.and (commonCheck (.jmpr ra) s) (targetCheck (sv s ra)) := rfl
theorem slotCheck_call (off : BitVec 24) (s : State) :
    slotCheck (.call off) s = Verdict.and (commonCheck (.call off) s) .ok := rfl
theorem slotCheck_loop (k : BitVec 2) (off : BitVec 24) (s : State) :
    slotCheck (.loop k off) s = Verdict.and (commonCheck (.loop k off) s) .ok := rfl
theorem slotCheck_trap (code : BitVec 16) (s : State) :
    slotCheck (.trap code) s = Verdict.and (commonCheck (.trap code) s) (Verdict.trap ⟨13, 0, 0, code, none⟩) := rfl
theorem slotCheck_gif (c : Cond) (long : Bool) (xa xb : XSrc) (off : BitVec 24) (s : State) :
    slotCheck (.gif c long xa xb off) s = Verdict.and (commonCheck (.gif c long xa xb off) s) (trapIf (gifDiverges c
      xa xb s && decide (136 ≤ stackDepth (curGang s))) 5) := rfl
theorem slotCheck_gelse (off : BitVec 24) (s : State) :
    slotCheck (.gelse off) s = Verdict.and (commonCheck (.gelse off) s) (waitUnless (!govSpilled s (curGang s)
      (Cur.path (State.cur s))) .other) := rfl
theorem slotCheck_goff (sel : GoffSel) (s : State) :
    slotCheck (.goff sel) s = Verdict.and (commonCheck (.goff sel) s) .ok := rfl
theorem slotCheck_gany (c : Cond) (rd : SReg) (xa xb : XSrc) (s : State) :
    slotCheck (.gany c rd xa xb) s = Verdict.and (commonCheck (.gany c rd xa xb) s) .ok := rfl
theorem slotCheck_gall (c : Cond) (rd : SReg) (xa xb : XSrc) (s : State) :
    slotCheck (.gall c rd xa xb) s = Verdict.and (commonCheck (.gall c rd xa xb) s) .ok := rfl
theorem slotCheck_gcnt (c : Cond) (rd : SReg) (xa xb : XSrc) (s : State) :
    slotCheck (.gcnt c rd xa xb) s = Verdict.and (commonCheck (.gcnt c rd xa xb) s) .ok := rfl
theorem slotCheck_gmsk (sel : GmskSel) (rd : SReg) (s : State) :
    slotCheck (.gmsk sel rd) s = Verdict.and (commonCheck (.gmsk sel rd) s) .ok := rfl
theorem slotCheck_enq (ra rb : SReg) (s : State) :
    slotCheck (.enq ra rb) s = Verdict.and (commonCheck (.enq ra rb) s) (Verdict.and (Verdict.and (accessVerdict s
      (BitVec.toNat (sv s ra)) 64 1) (trapIf (!enqSelOk s (sv s rb)) 10)) (relCheck s)) := rfl
theorem slotCheck_recd (ra : SReg) (s : State) :
    slotCheck (.recd ra) s = Verdict.and (commonCheck (.recd ra) s) (Verdict.and (trapIf (!recRefOk s (sv s ra)) 10)
      (relCheck s)) := rfl
theorem slotCheck_prio (ra : SReg) (s : State) :
    slotCheck (.prio ra) s = Verdict.and (commonCheck (.prio ra) s) .ok := rfl
theorem slotCheck_qid (sel : QidSel) (rd : SReg) (s : State) :
    slotCheck (.qid sel rd) s = Verdict.and (commonCheck (.qid sel rd) s) .ok := rfl
theorem slotCheck_csrr (rd : SReg) (c : Csr) (s : State) :
    slotCheck (.csrr rd c) s = Verdict.and (commonCheck (.csrr rd c) s) .ok := rfl
theorem slotCheck_csrw (c : Csr) (ra : SReg) (s : State) :
    slotCheck (.csrw c ra) s = Verdict.and (commonCheck (.csrw c ra) s) .ok := rfl
theorem slotCheck_qtop_gangs (ra rd : SReg) (s : State) :
    slotCheck (.qtop (.gangs ra) rd) s = Verdict.and (commonCheck (.qtop (.gangs ra) rd) s)
      (trapIf (!vdieArgOk s (sv s ra)) 10) := rfl
theorem slotCheck_qtop_dies (rd : SReg) (s : State) :
    slotCheck (.qtop .dies rd) s = Verdict.and (commonCheck (.qtop .dies rd) s) .ok := rfl
theorem slotCheck_qtop_diam (rd : SReg) (s : State) :
    slotCheck (.qtop .diam rd) s = Verdict.and (commonCheck (.qtop .diam rd) s) .ok := rfl
theorem slotCheck_qdie (rd ra rb : SReg) (s : State) :
    slotCheck (.qdie rd ra rb) s = Verdict.and (commonCheck (.qdie rd ra rb) s) (trapIf (!(vdieArgOk s (sv s ra) &&
      vdieArgOk s (sv s rb))) 10) := rfl
theorem slotCheck_lds (sz : Size) (rd ra : SReg) (off : BitVec 26) (s : State) :
    slotCheck (.lds sz rd ra off) s = Verdict.and (commonCheck (.lds sz rd ra off) s) (accessVerdict s (seqVa s ra
      off) (sizeBytes sz) 1) := rfl
theorem slotCheck_sts (sz : Size) (rd ra : SReg) (off : BitVec 26) (s : State) :
    slotCheck (.sts sz rd ra off) s = Verdict.and (commonCheck (.sts sz rd ra off) s) (Verdict.and (accessVerdict s
      (seqVa s ra off) (sizeBytes sz) 2) (waitUnless (decide (Gang.nstore (curGang s) < 63)) .other)) := rfl
theorem slotCheck_amo (op : AmoOp) (dbl : Bool) (rd ra rb : SReg) (s : State) :
    slotCheck (.amo op dbl rd ra rb) s = Verdict.and (commonCheck (.amo op dbl rd ra rb) s) (accessVerdict s
      (BitVec.toNat (sv s ra)) (rmwBytes dbl) 3) := rfl
theorem slotCheck_cas (dbl : Bool) (rd ra rb rc : SReg) (s : State) :
    slotCheck (.cas dbl rd ra rb rc) s = Verdict.and (commonCheck (.cas dbl rd ra rb rc) s) (accessVerdict s
      (BitVec.toNat (sv s ra)) (rmwBytes dbl) 3) := rfl
theorem slotCheck_xli (xd : XDst) (imm : BitVec 32) (s : State) :
    slotCheck (.xli xd imm) s = Verdict.and (commonCheck (.xli xd imm) s) .ok := rfl
theorem slotCheck_xmov (xd : XDst) (a : XMovSrc) (s : State) :
    slotCheck (.xmov xd a) s = Verdict.and (commonCheck (.xmov xd a) s) .ok := rfl
theorem slotCheck_xadd (xd : XDst) (a : XSrc) (b : XB) (s : State) :
    slotCheck (.xadd xd a b) s = Verdict.and (commonCheck (.xadd xd a b) s) .ok := rfl
theorem slotCheck_xsub (xd : XDst) (a : XSrc) (b : XB) (s : State) :
    slotCheck (.xsub xd a b) s = Verdict.and (commonCheck (.xsub xd a b) s) .ok := rfl
theorem slotCheck_xmul (xd : XDst) (a : XSrc) (b : XB) (s : State) :
    slotCheck (.xmul xd a b) s = Verdict.and (commonCheck (.xmul xd a b) s) .ok := rfl
theorem slotCheck_xand (xd : XDst) (a : XSrc) (b : XB) (s : State) :
    slotCheck (.xand xd a b) s = Verdict.and (commonCheck (.xand xd a b) s) .ok := rfl
theorem slotCheck_xxor (xd : XDst) (a : XSrc) (b : XB) (s : State) :
    slotCheck (.xxor xd a b) s = Verdict.and (commonCheck (.xxor xd a b) s) .ok := rfl
theorem slotCheck_xshl (xd : XDst) (a : XSrc) (b : XB) (s : State) :
    slotCheck (.xshl xd a b) s = Verdict.and (commonCheck (.xshl xd a b) s) .ok := rfl
theorem slotCheck_xshr (xd : XDst) (a : XSrc) (b : XB) (s : State) :
    slotCheck (.xshr xd a b) s = Verdict.and (commonCheck (.xshr xd a b) s) .ok := rfl
theorem slotCheck_xpopc (xd : XDst) (a : XSrc) (s : State) :
    slotCheck (.xpopc xd a) s = Verdict.and (commonCheck (.xpopc xd a) s) .ok := rfl
theorem slotCheck_xpfx (xd : XDst) (a b : XSrc) (s : State) :
    slotCheck (.xpfx xd a b) s = Verdict.and (commonCheck (.xpfx xd a b) s) .ok := rfl
theorem slotCheck_xsel (xd : XDst) (a b c : XSrc) (s : State) :
    slotCheck (.xsel xd a b c) s = Verdict.and (commonCheck (.xsel xd a b c) s) .ok := rfl
theorem slotCheck_xldc (f : XField) (xd : XDst) (a : XSrc) (s : State) :
    slotCheck (.xldc f xd a) s = Verdict.and (commonCheck (.xldc f xd a) s) (engCheck s fun e => spReadFail s e
      (xldcAddr f (xa s e a)) 4 4) := rfl
theorem slotCheck_xadv (st : Stride) (xd : XDst) (a : XSrc) (b : XB) (s : State) :
    slotCheck (.xadv st xd a b) s = Verdict.and (commonCheck (.xadv st xd a b) s) .ok := rfl
theorem slotCheck_xhash (lg : BitVec 4) (xd : XDst) (a : XSrc) (s : State) :
    slotCheck (.xhash lg xd a) s = Verdict.and (commonCheck (.xhash lg xd a) s) (if lg = 0 then engCheck s fun e =>
      if hashN s e lg = 0 then some (3, 0) else none else .ok) := rfl
theorem slotCheck_xcmpa (rowA rowB : Bool) (sa sb : Stride) (xa xb : XReg) (xd : XDst) (s : State) :
    slotCheck (.xcmpa rowA rowB sa sb xa xb xd) s = Verdict.and (commonCheck (.xcmpa rowA rowB sa sb xa xb xd) s)
      (Verdict.and (engCheck s fun e => spReadFail s e (BitVec.toNat (xv s e xa)) 4 4) (engCheck s fun e =>
      spReadFail s e (BitVec.toNat (xv s e xb)) 4 4)) := rfl
theorem slotCheck_vaddf (d : VDst) (a b : VSrc) (tab : Bool) (rnd : Rnd) (sat : Bool) (p : PReg) (s : State) :
    slotCheck (.vaddf d a b tab rnd sat p) s = Verdict.and (commonCheck (.vaddf d a b tab rnd sat p) s) (tabCheck s
      tab) := rfl
theorem slotCheck_vsubf (d : VDst) (a b : VSrc) (tab : Bool) (rnd : Rnd) (sat : Bool) (p : PReg) (s : State) :
    slotCheck (.vsubf d a b tab rnd sat p) s = Verdict.and (commonCheck (.vsubf d a b tab rnd sat p) s) (tabCheck s
      tab) := rfl
theorem slotCheck_vmulf (d : VDst) (a b : VSrc) (tab : Bool) (rnd : Rnd) (sat : Bool) (p : PReg) (s : State) :
    slotCheck (.vmulf d a b tab rnd sat p) s = Verdict.and (commonCheck (.vmulf d a b tab rnd sat p) s) (tabCheck s
      tab) := rfl
theorem slotCheck_vfmaf (d : VDst) (a b c : VSrc) (tab : Bool) (rnd : Rnd) (sat : Bool) (p : PReg) (s : State) :
    slotCheck (.vfmaf d a b c tab rnd sat p) s = Verdict.and (commonCheck (.vfmaf d a b c tab rnd sat p) s) (tabCheck
      s tab) := rfl
theorem slotCheck_vminf (d : VDst) (a b : VSrc) (tab : Bool) (p : PReg) (s : State) :
    slotCheck (.vminf d a b tab p) s = Verdict.and (commonCheck (.vminf d a b tab p) s) (tabCheck s tab) := rfl
theorem slotCheck_vmaxf (d : VDst) (a b : VSrc) (tab : Bool) (p : PReg) (s : State) :
    slotCheck (.vmaxf d a b tab p) s = Verdict.and (commonCheck (.vmaxf d a b tab p) s) (tabCheck s tab) := rfl
theorem slotCheck_vcmpf (c : FCond) (d : PReg) (a b : VSrc) (tab : Bool) (p : PReg) (s : State) :
    slotCheck (.vcmpf c d a b tab p) s = Verdict.and (commonCheck (.vcmpf c d a b tab p) s) (tabCheck s tab) := rfl
theorem slotCheck_vrcp (d : VDst) (a : VSrc) (tab : Bool) (p : PReg) (s : State) :
    slotCheck (.vrcp d a tab p) s = Verdict.and (commonCheck (.vrcp d a tab p) s) (tabCheck s tab) := rfl
theorem slotCheck_vrsq (d : VDst) (a : VSrc) (tab : Bool) (p : PReg) (s : State) :
    slotCheck (.vrsq d a tab p) s = Verdict.and (commonCheck (.vrsq d a tab p) s) (tabCheck s tab) := rfl
theorem slotCheck_vex2 (d : VDst) (a : VSrc) (tab : Bool) (p : PReg) (s : State) :
    slotCheck (.vex2 d a tab p) s = Verdict.and (commonCheck (.vex2 d a tab p) s) (tabCheck s tab) := rfl
theorem slotCheck_vlg2 (d : VDst) (a : VSrc) (tab : Bool) (p : PReg) (s : State) :
    slotCheck (.vlg2 d a tab p) s = Verdict.and (commonCheck (.vlg2 d a tab p) s) (tabCheck s tab) := rfl
theorem slotCheck_vtanh (d : VDst) (a : VSrc) (tab : Bool) (p : PReg) (s : State) :
    slotCheck (.vtanh d a tab p) s = Verdict.and (commonCheck (.vtanh d a tab p) s) (tabCheck s tab) := rfl
theorem slotCheck_vaddi (d : VDst) (a b : VSrc) (sat : Bool) (p : PReg) (s : State) :
    slotCheck (.vaddi d a b sat p) s = Verdict.and (commonCheck (.vaddi d a b sat p) s) .ok := rfl
theorem slotCheck_vsubi (d : VDst) (a b : VSrc) (sat : Bool) (p : PReg) (s : State) :
    slotCheck (.vsubi d a b sat p) s = Verdict.and (commonCheck (.vsubi d a b sat p) s) .ok := rfl
theorem slotCheck_vmuli (d : VDst) (a b : VSrc) (sat : Bool) (p : PReg) (s : State) :
    slotCheck (.vmuli d a b sat p) s = Verdict.and (commonCheck (.vmuli d a b sat p) s) .ok := rfl
theorem slotCheck_vmulhi (u : Bool) (d : VDst) (a b : VSrc) (p : PReg) (s : State) :
    slotCheck (.vmulhi u d a b p) s = Verdict.and (commonCheck (.vmulhi u d a b p) s) .ok := rfl
theorem slotCheck_vand (d : VDst) (a b : VSrc) (p : PReg) (s : State) :
    slotCheck (.vand d a b p) s = Verdict.and (commonCheck (.vand d a b p) s) .ok := rfl
theorem slotCheck_vor (d : VDst) (a b : VSrc) (p : PReg) (s : State) :
    slotCheck (.vor d a b p) s = Verdict.and (commonCheck (.vor d a b p) s) .ok := rfl
theorem slotCheck_vxor (d : VDst) (a b : VSrc) (p : PReg) (s : State) :
    slotCheck (.vxor d a b p) s = Verdict.and (commonCheck (.vxor d a b p) s) .ok := rfl
theorem slotCheck_vshl (d : VDst) (a b : VSrc) (p : PReg) (s : State) :
    slotCheck (.vshl d a b p) s = Verdict.and (commonCheck (.vshl d a b p) s) .ok := rfl
theorem slotCheck_vshr (d : VDst) (a b : VSrc) (p : PReg) (s : State) :
    slotCheck (.vshr d a b p) s = Verdict.and (commonCheck (.vshr d a b p) s) .ok := rfl
theorem slotCheck_vsar (d : VDst) (a b : VSrc) (p : PReg) (s : State) :
    slotCheck (.vsar d a b p) s = Verdict.and (commonCheck (.vsar d a b p) s) .ok := rfl
theorem slotCheck_vmini (u : Bool) (d : VDst) (a b : VSrc) (p : PReg) (s : State) :
    slotCheck (.vmini u d a b p) s = Verdict.and (commonCheck (.vmini u d a b p) s) .ok := rfl
theorem slotCheck_vmaxi (u : Bool) (d : VDst) (a b : VSrc) (p : PReg) (s : State) :
    slotCheck (.vmaxi u d a b p) s = Verdict.and (commonCheck (.vmaxi u d a b p) s) .ok := rfl
theorem slotCheck_vcmpi (c : ICond) (d : PReg) (a b : VSrc) (p : PReg) (s : State) :
    slotCheck (.vcmpi c d a b p) s = Verdict.and (commonCheck (.vcmpi c d a b p) s) .ok := rfl
theorem slotCheck_vmov (d : VDst) (a : VSrc) (p : PReg) (s : State) :
    slotCheck (.vmov d a p) s = Verdict.and (commonCheck (.vmov d a p) s) .ok := rfl
theorem slotCheck_vli (d : VDst) (imm : BitVec 32) (s : State) :
    slotCheck (.vli d imm) s = Verdict.and (commonCheck (.vli d imm) s) .ok := rfl
theorem slotCheck_vbcs (d : VDst) (sa : SReg) (p : PReg) (s : State) :
    slotCheck (.vbcs d sa p) s = Verdict.and (commonCheck (.vbcs d sa p) s) .ok := rfl
theorem slotCheck_vsel (d : VDst) (a b : VSrc) (pc p : PReg) (s : State) :
    slotCheck (.vsel d a b pc p) s = Verdict.and (commonCheck (.vsel d a b pc p) s) .ok := rfl
theorem slotCheck_vrot (d : VDst) (a : VSrc) (n : BitVec 4) (p : PReg) (s : State) :
    slotCheck (.vrot d a n p) s = Verdict.and (commonCheck (.vrot d a n p) s) .ok := rfl
theorem slotCheck_plog (d : PReg) (sel : PlogSrc) (p : PReg) (s : State) :
    slotCheck (.plog d sel p) s = Verdict.and (commonCheck (.plog d sel p) s) .ok := rfl
theorem slotCheck_epset (sel : EpsetSrc) (s : State) :
    slotCheck (.epset sel) s = Verdict.and (commonCheck (.epset sel) s) .ok := rfl
theorem slotCheck_vcvt (dst src : Fmt) (d : VDst) (a : VSrc) (rnd : Rnd) (sat : Bool) (p : PReg) (s : State) :
    slotCheck (.vcvt dst src d a rnd sat p) s = Verdict.and (commonCheck (.vcvt dst src d a rnd sat p) s) (fmtCheck s
      dst Fmt.cvtDstOk) := rfl
theorem slotCheck_vqnt (dst : Fmt) (d : VDst) (a b : VSrc) (rnd : Rnd) (sat : Bool) (p : PReg) (s : State) :
    slotCheck (.vqnt dst d a b rnd sat p) s = Verdict.and (commonCheck (.vqnt dst d a b rnd sat p) s) (fmtCheck s dst
      Fmt.qntOk) := rfl
theorem slotCheck_vdqn (src : Fmt) (d : VDst) (a b : VSrc) (rnd : Rnd) (sat : Bool) (p : PReg) (s : State) :
    slotCheck (.vdqn src d a b rnd sat p) s = Verdict.and (commonCheck (.vdqn src d a b rnd sat p) s) (fmtCheck s src
      Fmt.cvtDstOk) := rfl
theorem slotCheck_vred (op : RedOp) (d : VDst) (a : VSrc) (rnd : Rnd) (sat : Bool) (p : PReg) (s : State) :
    slotCheck (.vred op d a rnd sat p) s = Verdict.and (commonCheck (.vred op d a rnd sat p) s) .ok := rfl
theorem slotCheck_vperm (d : VDst) (a b : VSrc) (e : BitVec 5) (p : PReg) (s : State) :
    slotCheck (.vperm d a b e p) s = Verdict.and (commonCheck (.vperm d a b e p) s) .ok := rfl
theorem slotCheck_vpld (xa : XSrc) (s : State) :
    slotCheck (.vpld xa) s = Verdict.and (commonCheck (.vpld xa) s) (Verdict.and (waitUnless (!List.any (actives s)
      (patPending s)) .other) (engCheck s fun e => spReadFail s e (BitVec.toNat (Machine.xa s e xa)) 512 16)) := rfl
theorem slotCheck_vtrd (f : Fmt) (d : VDst) (t : Tile) (dir : Dir) (idx : BitVec 4) (g : BitVec 3) (p : PReg) (s :
    State) :
    slotCheck (.vtrd f d t dir idx g p) s = Verdict.and (commonCheck (.vtrd f d t dir idx g p) s) (tileCheck s f t dir idx.toNat g true)
      := rfl
theorem slotCheck_vtwr (f : Fmt) (t : Tile) (a : VSrc) (dir : Dir) (idx : BitVec 4) (g : BitVec 3) (p : PReg) (s :
    State) :
    slotCheck (.vtwr f t a dir idx g p) s = Verdict.and (commonCheck (.vtwr f t a dir idx g p) s) (tileCheck s f t dir idx.toNat g false)
      := rfl
theorem slotCheck_gshf (d : VDst) (a b : VSrc) (fill : Fill) (p : PReg) (s : State) :
    slotCheck (.gshf d a b fill p) s = Verdict.and (commonCheck (.gshf d a b fill p) s) (waitUnless (Gang.netAt
      (curGang s) != Gang.gc (curGang s) + 1) .other) := rfl
theorem slotCheck_gpsh (d : VDst) (a b : VSrc) (p : PReg) (s : State) :
    slotCheck (.gpsh d a b p) s = Verdict.and (commonCheck (.gpsh d a b p) s) (waitUnless (Gang.netAt (curGang s) !=
      Gang.gc (curGang s) + 1) .other) := rfl
theorem slotCheck_gred (op : RedOp) (d : VDst) (a : VSrc) (rnd : Rnd) (sat : Bool) (p : PReg) (s : State) :
    slotCheck (.gred op d a rnd sat p) s = Verdict.and (commonCheck (.gred op d a rnd sat p) s) (waitUnless
      (Gang.netAt (curGang s) != Gang.gc (curGang s) + 1) .other) := rfl
theorem slotCheck_gbcst (d : VDst) (a : VSrc) (n : BitVec 4) (fill : Fill) (p : PReg) (s : State) :
    slotCheck (.gbcst d a n fill p) s = Verdict.and (commonCheck (.gbcst d a n fill p) s) (waitUnless (Gang.netAt
      (curGang s) != Gang.gc (curGang s) + 1) .other) := rfl
theorem slotCheck_gscan (op : RedOp) (ex : Bool) (d : VDst) (a : VSrc) (rnd : Rnd) (sat : Bool) (p : PReg) (s :
    State) :
    slotCheck (.gscan op ex d a rnd sat p) s = Verdict.and (commonCheck (.gscan op ex d a rnd sat p) s) (waitUnless
      (Gang.netAt (curGang s) != Gang.gc (curGang s) + 1) .other) := rfl
theorem slotCheck_mma (fa fb : Fmt) (c : CReg) (a b : MReg) (rb : BitVec 2) (s : State) :
    slotCheck (.mma fa fb c a b rb) s = andAll [commonCheck (.mma fa fb c a b rb) s, waitUnless (decide (tCounter
      (curGang s) (tClass (.mma fa fb c a b rb)) < 63)) .other, engCheck s (tFail (.mma fa fb c a b rb) s)] := rfl
theorem slotCheck_mmag (fa fb : Fmt) (c : CReg) (a : MReg) (x : XReg) (g : Fin 17) (rb : BitVec 2) (s : State) :
    slotCheck (.mmag fa fb c a x g rb) s = andAll [commonCheck (.mmag fa fb c a x g rb) s, waitUnless (decide
      (tCounter (curGang s) (tClass (.mmag fa fb c a x g rb)) < 63)) .other, engCheck s (tFail (.mmag fa fb c a x g
      rb) s)] := rfl
theorem slotCheck_tzero (t : Tile) (s : State) :
    slotCheck (.tzero t) s = andAll [commonCheck (.tzero t) s, waitUnless (decide (tCounter (curGang s) (tClass
      (.tzero t)) < 63)) .other, engCheck s (tFail (.tzero t) s)] := rfl
theorem slotCheck_ttrn (f : Fmt) (td ta : Tile) (dir : Dir) (rot : BitVec 4) (s : State) :
    slotCheck (.ttrn f td ta dir rot) s = andAll [commonCheck (.ttrn f td ta dir rot) s, waitUnless (decide (tCounter
      (curGang s) (tClass (.ttrn f td ta dir rot)) < 63)) .other, engCheck s (tFail (.ttrn f td ta dir rot) s)] := rfl
theorem slotCheck_tdec (fa fb : Fmt) (md ma : MReg) (s : State) :
    slotCheck (.tdec fa fb md ma) s = andAll [commonCheck (.tdec fa fb md ma) s, waitUnless (decide (tCounter
      (curGang s) (tClass (.tdec fa fb md ma)) < 63)) .other, engCheck s (tFail (.tdec fa fb md ma) s)] := rfl
theorem slotCheck_cbld (xa : XReg) (s : State) :
    slotCheck (.cbld xa) s = andAll [commonCheck (.cbld xa) s, waitUnless (decide (tCounter (curGang s) (tClass
      (.cbld xa)) < 63)) .other, engCheck s (tFail (.cbld xa) s)] := rfl
theorem slotCheck_fmtw (xa : XReg) (e : BitVec 4) (s : State) :
    slotCheck (.fmtw xa e) s = andAll [commonCheck (.fmtw xa e) s, waitUnless (decide (tCounter (curGang s) (tClass
      (.fmtw xa e)) < 63)) .other, engCheck s (tFail (.fmtw xa e) s)] := rfl
theorem slotCheck_shset (xa : XReg) (s : State) :
    slotCheck (.shset xa) s = andAll [commonCheck (.shset xa) s, waitUnless (decide (tCounter (curGang s) (tClass
      (.shset xa)) < 63)) .other, engCheck s (tFail (.shset xa) s)] := rfl
theorem slotCheck_acfg (xa xb : XReg) (s : State) :
    slotCheck (.acfg xa xb) s = andAll [commonCheck (.acfg xa xb) s, waitUnless (decide (tCounter (curGang s) (tClass
      (.acfg xa xb)) < 63)) .other, engCheck s (tFail (.acfg xa xb) s)] := rfl
theorem slotCheck_join (fa fb : Fmt) (xd xa xb xo : XReg) (s : State) :
    slotCheck (.join fa fb xd xa xb xo) s = andAll [commonCheck (.join fa fb xd xa xb xo) s, waitUnless (decide
      (tCounter (curGang s) (tClass (.join fa fb xd xa xb xo)) < 63)) .other, engCheck s (tFail (.join fa fb xd xa xb
      xo) s)] := rfl
theorem slotCheck_jins (f : Fmt) (xd xa : XReg) (s : State) :
    slotCheck (.jins f xd xa) s = andAll [commonCheck (.jins f xd xa) s, waitUnless (decide (tCounter (curGang s)
      (tClass (.jins f xd xa)) < 63)) .other, engCheck s (tFail (.jins f xd xa) s)] := rfl
theorem slotCheck_adrn (lay : Layout) (f : Fmt) (xd xa xb : XReg) (s : State) :
    slotCheck (.adrn lay f xd xa xb) s = andAll [commonCheck (.adrn lay f xd xa xb) s, waitUnless (decide (tCounter
      (curGang s) (tClass (.adrn lay f xd xa xb)) < 63)) .other, engCheck s (tFail (.adrn lay f xd xa xb) s)] := rfl
theorem slotCheck_afold (c : CReg) (xa : XReg) (s : State) :
    slotCheck (.afold c xa) s = andAll [commonCheck (.afold c xa) s, waitUnless (decide (tCounter (curGang s) (tClass
      (.afold c xa)) < 63)) .other, engCheck s (tFail (.afold c xa) s)] := rfl
theorem slotCheck_aspl (xd : XReg) (s : State) :
    slotCheck (.aspl xd) s = andAll [commonCheck (.aspl xd) s, waitUnless (decide (tCounter (curGang s) (tClass
      (.aspl xd)) < 63)) .other, engCheck s (tFail (.aspl xd) s)] := rfl
theorem slotCheck_ard (sel : ArdSel) (xd : XReg) (s : State) :
    slotCheck (.ard sel xd) s = andAll [commonCheck (.ard sel xd) s, waitUnless (decide (tCounter (curGang s) (tClass
      (.ard sel xd)) < 63)) .other, engCheck s (tFail (.ard sel xd) s)] := rfl
theorem slotCheck_awr (sel : AwrSel) (s : State) :
    slotCheck (.awr sel) s = andAll [commonCheck (.awr sel) s, waitUnless (decide (tCounter (curGang s) (tClass (.awr
      sel)) < 63)) .other, engCheck s (tFail (.awr sel) s)] := rfl
theorem slotCheck_pred (f : Fmt) (xd xa : XReg) (s : State) :
    slotCheck (.pred f xd xa) s = andAll [commonCheck (.pred f xd xa) s, waitUnless (decide (tCounter (curGang s)
      (tClass (.pred f xd xa)) < 63)) .other, engCheck s (tFail (.pred f xd xa) s)] := rfl
theorem slotCheck_pchk (f : Fmt) (xd xa xe : XReg) (s : State) :
    slotCheck (.pchk f xd xa xe) s = andAll [commonCheck (.pchk f xd xa xe) s, waitUnless (decide (tCounter (curGang
      s) (tClass (.pchk f xd xa xe)) < 63)) .other, engCheck s (tFail (.pchk f xd xa xe) s)] := rfl
theorem slotCheck_ldv (d : VDst) (xa : XSrc) (byp : Bool) (p : PReg) (s : State) :
    slotCheck (.ldv d xa byp p) s = andAll [commonCheck (.ldv d xa byp p) s, waitUnless (!acquirePending s || !hasSpadWord s (.ldv d xa byp p)) .other, .ok, engCheck s (addrFail s (.ldv d xa
      byp p)), apertureCheck s (.ldv d xa byp p), .ok] := rfl
theorem slotCheck_ldm (t : Tile) (xa : XSrc) (dir : Dir) (idx : BitVec 4) (byp : Bool) (p : PReg) (s : State) :
    slotCheck (.ldm t xa dir idx byp p) s = andAll [commonCheck (.ldm t xa dir idx byp p) s, waitUnless (!acquirePending s || !hasSpadWord s (.ldm t xa dir idx byp p)) .other, .ok, engCheck s
      (addrFail s (.ldm t xa dir idx byp p)), apertureCheck s (.ldm t xa dir idx byp p), engCheck s (lineTileFail s (fun e => laneOn s e p) t
      dir (BitVec.toNat idx) false)] := rfl
theorem slotCheck_ldg (d : VDst) (xa : XSrc) (vb : VSrc) (byp : Bool) (p : PReg) (s : State) :
    slotCheck (.ldg d xa vb byp p) s = andAll [commonCheck (.ldg d xa vb byp p) s, waitUnless (!acquirePending s || !hasSpadWord s (.ldg d xa vb byp p)) .other, .ok, engCheck s (addrFail s (.ldg
      d xa vb byp p)), apertureCheck s (.ldg d xa vb byp p), .ok] := rfl
theorem slotCheck_ldmk (m : MReg) (xa xb : XSrc) (rb : BitVec 2) (byp : Bool) (s : State) :
    slotCheck (.ldmk m xa xb rb byp) s = andAll [commonCheck (.ldmk m xa xb rb byp) s, waitUnless (!acquirePending s || !hasSpadWord s (.ldmk m xa xb rb byp)) .other, .ok, engCheck s (addrFail s
      (.ldmk m xa xb rb byp)), apertureCheck s (.ldmk m xa xb rb byp), .ok] := rfl
theorem slotCheck_ldx (d : VDst) (xa xb : XSrc) (byp : Bool) (p : PReg) (s : State) :
    slotCheck (.ldx d xa xb byp p) s = andAll [commonCheck (.ldx d xa xb byp p) s, waitUnless (!acquirePending s || !hasSpadWord s (.ldx d xa xb byp p)) .other, .ok, engCheck s (addrFail s (.ldx
      d xa xb byp p)), apertureCheck s (.ldx d xa xb byp p), .ok] := rfl
theorem slotCheck_ldb (q3 : Bool) (xa : XSrc) (n : BitVec 4) (byp : Bool) (s : State) :
    slotCheck (.ldb q3 xa n byp) s = andAll [commonCheck (.ldb q3 xa n byp) s, waitUnless (!acquirePending s || !hasSpadWord s (.ldb q3 xa n byp)) .other, .ok, engCheck s (addrFail s (.ldb q3
      xa n byp)), apertureCheck s (.ldb q3 xa n byp), waitUnless (ldbRoom s (if q3 = true then 3 else 2)
      (BitVec.toNat n + 1)) .other] := rfl
theorem slotCheck_ldw (src dst : Fmt) (m : MReg) (xa xs : XSrc) (row : BitVec 4) (byp : Bool) (s : State) :
    slotCheck (.ldw src dst m xa xs row byp) s = andAll [commonCheck (.ldw src dst m xa xs row byp) s, waitUnless (!acquirePending s || !hasSpadWord s (.ldw src dst m xa xs row byp)) .other, fmtCheck s src
      fun f => Fmt.ldwSrcOk f && f != Fmt.tab, engCheck s (addrFail s (.ldw src dst m xa xs row byp)), apertureCheck
      s (.ldw src dst m xa xs row byp), engCheck s (ldwFail s src dst (BitVec.toNat row))] := rfl
theorem slotCheck_stv (va : VSrc) (xa : XSrc) (byp : Bool) (p : PReg) (s : State) :
    slotCheck (.stv va xa byp p) s = andAll [commonCheck (.stv va xa byp p) s, waitUnless (!acquirePending s || !hasSpadWord s (.stv va xa byp p)) .other, .ok, engCheck s (addrFail s (.stv va
      xa byp p)), apertureCheck s (.stv va xa byp p), waitUnless (!List.any (actives s) (engAperture s (.stv va xa
      byp p)) || decide (Gang.nstore (curGang s) < 63)) .other] := rfl
theorem slotCheck_stm (t : Tile) (xa : XSrc) (dir : Dir) (idx : BitVec 4) (byp : Bool) (p : PReg) (s : State) :
    slotCheck (.stm t xa dir idx byp p) s = andAll [commonCheck (.stm t xa dir idx byp p) s, waitUnless (!acquirePending s || !hasSpadWord s (.stm t xa dir idx byp p)) .other, .ok, engCheck s
      (addrFail s (.stm t xa dir idx byp p)), apertureCheck s (.stm t xa dir idx byp p), engCheck s (lineTileFail s (fun e => laneOn s e p) t
      dir (BitVec.toNat idx) true)] := rfl
theorem slotCheck_stg (vb : VSrc) (xa : XSrc) (vc : VSrc) (byp : Bool) (p : PReg) (s : State) :
    slotCheck (.stg vb xa vc byp p) s = andAll [commonCheck (.stg vb xa vc byp p) s, waitUnless (!acquirePending s || !hasSpadWord s (.stg vb xa vc byp p)) .other, .ok, engCheck s (addrFail s
      (.stg vb xa vc byp p)), apertureCheck s (.stg vb xa vc byp p), waitUnless (!List.any (actives s) (engAperture s
      (.stg vb xa vc byp p)) || decide (Gang.nstore (curGang s) < 63)) .other] := rfl
theorem slotCheck_stmk (m : MReg) (xa xc : XSrc) (rb : BitVec 2) (byp : Bool) (s : State) :
    slotCheck (.stmk m xa xc rb byp) s = andAll [commonCheck (.stmk m xa xc rb byp) s, waitUnless (!acquirePending s || !hasSpadWord s (.stmk m xa xc rb byp)) .other, .ok, engCheck s (addrFail s
      (.stmk m xa xc rb byp)), apertureCheck s (.stmk m xa xc rb byp), .ok] := rfl
theorem slotCheck_stx (vb : VSrc) (xa xc : XSrc) (byp : Bool) (p : PReg) (s : State) :
    slotCheck (.stx vb xa xc byp p) s = andAll [commonCheck (.stx vb xa xc byp p) s, waitUnless (!acquirePending s || !hasSpadWord s (.stx vb xa xc byp p)) .other, .ok, engCheck s (addrFail s
      (.stx vb xa xc byp p)), apertureCheck s (.stx vb xa xc byp p), waitUnless (!List.any (actives s) (engAperture s
      (.stx vb xa xc byp p)) || decide (Gang.nstore (curGang s) < 63)) .other] := rfl
theorem slotCheck_dset (d : DReg) (n : BitVec 3) (sa : SReg) (s : State) :
    slotCheck (.dset d n sa) s = commonCheck (.dset d n sa) s := rfl
theorem slotCheck_cpy (d : DReg) (sa sb : SReg) (cls : BitVec 2) (bar : Option (BitVec 4)) (s : State) :
    slotCheck (.cpy d sa sb cls bar) s = andAll [commonCheck (.cpy d sa sb cls bar) s, copyCauses (.cpy d sa sb cls
      bar) CopyOp.cpy s, copyRoom s] := rfl
theorem slotCheck_cpyg (d : DReg) (sa : SReg) (mask : Mask) (cls : BitVec 2) (bar : Option (BitVec 4)) (s : State) :
    slotCheck (.cpyg d sa mask cls bar) s = andAll [commonCheck (.cpyg d sa mask cls bar) s, copyCauses (.cpyg d sa
      mask cls bar) CopyOp.cpyg s, copyRoom s] := rfl
theorem slotCheck_cpsh_waiting (d : DReg) (sa sb : SReg) (cls : BitVec 2) (bar : Option (BitVec 4)) (s : State) :
    slotCheck (.cpsh d sa sb none cls bar) s = andAll [commonCheck (.cpsh d sa sb none cls bar) s,
      copyCauses (.cpsh d sa sb none cls bar) CopyOp.cpsh s, copyRoom s] := rfl
theorem slotCheck_cpsh_reporting (d : DReg) (sa sb nb : SReg) (cls : BitVec 2) (bar : Option (BitVec 4)) (s : State) :
    slotCheck (.cpsh d sa sb (some nb) cls bar) s = andAll [commonCheck (.cpsh d sa sb (some nb) cls bar) s,
      copyCauses (.cpsh d sa sb (some nb) cls bar) CopyOp.cpsh s, waitUnless (queueFull s || decide (Gang.ncopy (curGang s) < 63)) .copy] := rfl
theorem slotCheck_cmc (d : DReg) (sa sb : SReg) (mask : Mask) (cls : BitVec 2) (bar : Option (BitVec 4)) (s : State) :
    slotCheck (.cmc d sa sb mask cls bar) s = andAll [commonCheck (.cmc d sa sb mask cls bar) s, copyCauses (.cmc d
      sa sb mask cls bar) CopyOp.cmc s, copyRoom s] :=
      rfl
theorem slotCheck_cprf (d : DReg) (cls : BitVec 2) (bar : Option (BitVec 4)) (s : State) :
    slotCheck (.cprf d cls bar) s = andAll [commonCheck (.cprf d cls bar) s, copyCauses (.cprf d cls bar) CopyOp.cprf
      s, copyRoom s] := rfl
theorem slotCheck_cfls (d : DReg) (cls : BitVec 2) (bar : Option (BitVec 4)) (s : State) :
    slotCheck (.cfls d cls bar) s = andAll [commonCheck (.cfls d cls bar) s, copyCauses (.cfls d cls bar) CopyOp.cfls
      s, copyRoom s] := rfl
theorem slotCheck_cinv (d : DReg) (cls : BitVec 2) (bar : Option (BitVec 4)) (s : State) :
    slotCheck (.cinv d cls bar) s = andAll [commonCheck (.cinv d cls bar) s, copyCauses (.cinv d cls bar) CopyOp.cinv
      s, copyRoom s] := rfl
theorem slotCheck_cfil (d : DReg) (sa sb : SReg) (cls : BitVec 2) (bar : Option (BitVec 4)) (s : State) :
    slotCheck (.cfil d sa sb cls bar) s = andAll [commonCheck (.cfil d sa sb cls bar) s, copyCauses (.cfil d sa sb
      cls bar) CopyOp.cfil s, copyRoom s] := rfl
theorem slotCheck_wait (ts tj tc tt : BitVec 6) (s : State) :
    slotCheck (.wait ts tj tc tt) s = if thymeScopeBad (.wait ts tj tc tt) = true then trapOf 1 else Verdict.and
      (commonCheck (.wait ts tj tc tt) s) (Verdict.and (waitUnless (under (Gang.nstore (curGang s)) ts && under
      (Gang.njoin (curGang s)) tj && under (Gang.ntile (curGang s)) tt) .wait) (waitUnless (under (Gang.ncopy
      (curGang s)) tc) .copy)) := rfl
theorem slotCheck_waitr (c : Ctr) (sa : SReg) (s : State) :
    slotCheck (.waitr c sa) s = if thymeScopeBad (.waitr c sa) = true then trapOf 1 else Verdict.and (commonCheck
      (.waitr c sa) s) (waitUnless (decide (ctrValue (curGang s) c ≤ min (BitVec.toNat (sv s sa)) 63)) (if c =
      Ctr.copy then .copy else .wait)) := rfl
theorem slotCheck_bari (b : BitVec 4) (sa : SReg) (s : State) :
    slotCheck (.bari b sa) s = if thymeScopeBad (.bari b sa) = true then trapOf 1 else Verdict.and (commonCheck
      (.bari b sa) s) .ok := rfl
theorem slotCheck_bara (b : BitVec 4) (s : State) :
    slotCheck (.bara b) s = if thymeScopeBad (.bara b) = true then trapOf 1 else Verdict.and (commonCheck (.bara b)
      s) (relCheck s) := rfl
theorem slotCheck_barw (b : BitVec 4) (s : State) :
    slotCheck (.barw b) s = if thymeScopeBad (.barw b) = true then trapOf 1 else Verdict.and (commonCheck (.barw b)
      s) (barwCheck (BitVec.toNat b) s) := rfl
theorem slotCheck_barx (b : BitVec 4) (s : State) :
    slotCheck (.barx b) s = if thymeScopeBad (.barx b) = true then trapOf 1 else Verdict.and (commonCheck (.barx b)
      s) (barxCheck (BitVec.toNat b) s) := rfl
theorem slotCheck_syna (sc : Sys2Proof.Scope) (ch : BitVec 6) (s : State) :
    slotCheck (.syna sc ch) s = if thymeScopeBad (.syna sc ch) = true then trapOf 1 else Verdict.and (commonCheck
      (.syna sc ch) s) (Verdict.and (thymeCheck sc (BitVec.toNat ch) s) (Verdict.and (relCheck s) (waitUnless
      (!arrivedOpen s (BitVec.toNat ch) (Scope.isPkg sc)) (.synw (BitVec.toNat ch))))) := rfl
theorem slotCheck_synw (sc : Sys2Proof.Scope) (ch : BitVec 6) (s : State) :
    slotCheck (.synw sc ch) s = if thymeScopeBad (.synw sc ch) = true then trapOf 1 else Verdict.and (commonCheck
      (.synw sc ch) s) (Verdict.and (thymeCheck sc (BitVec.toNat ch) s) (waitUnless (!synwPending s (BitVec.toNat ch)
      (Scope.isPkg sc)) (.synw (BitVec.toNat ch)))) := rfl
theorem slotCheck_sbc (sc : Sys2Proof.Scope) (ch : BitVec 6) (sa : SReg) (s : State) :
    slotCheck (.sbc sc ch sa) s = if thymeScopeBad (.sbc sc ch sa) = true then trapOf 1 else Verdict.and (commonCheck
      (.sbc sc ch sa) s) (thymeCheck sc (BitVec.toNat ch) s) := rfl
theorem slotCheck_sbcRd (sc : Sys2Proof.Scope) (ch : BitVec 6) (sd : SReg) (s : State) :
    slotCheck (.sbcRd sc ch sd) s = if thymeScopeBad (.sbcRd sc ch sd) = true then trapOf 1 else Verdict.and
      (commonCheck (.sbcRd sc ch sd) s) (thymeCheck sc (BitVec.toNat ch) s) := rfl
theorem slotCheck_sred (op : SredOp) (sc : Sys2Proof.Scope) (ch : BitVec 6) (sd sa : SReg) (s : State) :
    slotCheck (.sred op sc ch sd sa) s = if thymeScopeBad (.sred op sc ch sd sa) = true then trapOf 1 else
      Verdict.and (commonCheck (.sred op sc ch sd sa) s) (Verdict.and (thymeCheck sc (BitVec.toNat ch) s)
      (Verdict.and (relCheck s) (waitUnless (!arrivedOpen s (BitVec.toNat ch) (Scope.isPkg sc)) (.synw (BitVec.toNat
      ch))))) := rfl
theorem slotCheck_fence (sc : Sys2Proof.Scope) (s : State) :
    slotCheck (.fence sc) s = if thymeScopeBad (.fence sc) = true then trapOf 1 else Verdict.and (commonCheck (.fence
      sc) s) (relCheck s) := rfl
theorem slotCheck_acq (sc : Sys2Proof.Scope) (s : State) :
    slotCheck (.acq sc) s = if thymeScopeBad (.acq sc) = true then trapOf 1 else Verdict.and (commonCheck (.acq sc)
      s) .ok := rfl
theorem slotCheck_rel (sc : Sys2Proof.Scope) (s : State) :
    slotCheck (.rel sc) s = if thymeScopeBad (.rel sc) = true then trapOf 1 else Verdict.and (commonCheck (.rel sc)
      s) (relCheck s) := rfl
theorem slotCheck_acqr (sd sa : SReg) (s : State) :
    slotCheck (.acqr sd sa) s = if thymeScopeBad (.acqr sd sa) = true then trapOf 1 else Verdict.and (commonCheck
      (.acqr sd sa) s) (accessVerdict s (BitVec.toNat (sv s sa)) 4 1) := rfl
theorem slotCheck_time (cyc : Bool) (sd : SReg) (s : State) :
    slotCheck (.time cyc sd) s = if thymeScopeBad (.time cyc sd) = true then trapOf 1 else Verdict.and (commonCheck
      (.time cyc sd) s) .ok := rfl
theorem slotCheck_ret (s : State) :
    slotCheck (.ret) s = Verdict.and (commonCheck .ret s) (targetCheck (BitVec.setWidth 64 (Path.lnk (curPath s))))
      := rfl
theorem slotCheck_bkpt (s : State) :
    slotCheck (.bkpt) s = Verdict.and (commonCheck .bkpt s) (trapOf 12) := rfl
theorem slotCheck_exit (s : State) :
    slotCheck (.exit) s = Verdict.and (commonCheck .exit s) .ok := rfl
theorem slotCheck_gend (s : State) :
    slotCheck (.gend) s = Verdict.and (commonCheck .gend s) (waitUnless (!govSpilled s (curGang s) (Cur.path
      (State.cur s))) .other) := rfl
theorem slotCheck_gsplit (s : State) :
    slotCheck (.gsplit) s = Verdict.and (commonCheck .gsplit s) .ok := rfl
theorem slotCheck_yield (s : State) :
    slotCheck (.yield) s = Verdict.and (commonCheck .yield s) .ok := rfl
theorem slotCheck_fencei (s : State) :
    slotCheck (.fencei) s = Verdict.and (commonCheck .fencei s) .ok := rfl
theorem slotCheck_vpldSwap (s : State) :
    slotCheck (.vpldSwap) s = Verdict.and (commonCheck .vpldSwap s) (waitUnless (!List.any (actives s) (patPending
      s)) .other) := rfl
theorem slotCheck_aclr (s : State) :
    slotCheck (.aclr) s = andAll [commonCheck .aclr s, waitUnless (decide (tCounter (curGang s) (tClass .aclr) < 63))
      .other, engCheck s (tFail .aclr s)] := rfl

end Sys2Proof.Machine
end

