-- ==== Sys2Proof/Laws/Memory.lean ====
section
/-! SUPPORT. Every memory operation keeps memory in its canonical form, and the keys, the place in the tick and the
tick; reset memory has the form (08 R198–R205, 10 R242; 19 R401). -/

namespace Sys2Proof.Machine

/-- What a memory operation keeps: the canonical form of memory, the keys, the tick and the place in it. -/
def MemKept (s t : State) : Prop :=
  (Memory.wf s.mem = true → Memory.wf t.mem = true) ∧ t.keys = s.keys ∧ t.tick = s.tick ∧ t.sub = s.sub

theorem MemKept.refl (s : State) : MemKept s s := ⟨id, rfl, rfl, rfl⟩
theorem MemKept.trans {s t u : State} (a : MemKept s t) (b : MemKept t u) : MemKept s u :=
  ⟨fun h => b.1 (a.1 h), b.2.1.trans a.2.1, b.2.2.1.trans a.2.2.1, b.2.2.2.trans a.2.2.2⟩
/-- What keeps the invariant: such an operation does. -/
theorem MemKept.inv {s t : State} (a : MemKept s t) (h : Inv s) : Inv t :=
  ⟨a.1 h.1, fun d => by rw [a.2.1]; exact h.2.1 d, by rw [a.2.2.2]; exact h.2.2⟩
/-- A change of other fields. -/
theorem MemKept.of_fields {s t : State} (m : t.mem = s.mem) (k : t.keys = s.keys) (i : t.tick = s.tick) (j : t.sub = s.sub) : MemKept s t :=
  ⟨fun h => by rw [m]; exact h, k, i, j⟩
theorem MemKept.foldl {α : Type} (f : State → α → State) (h : ∀ s x, MemKept s (f s x)) (xs : List α) (s : State) :
    MemKept s (xs.foldl f s) := by
  induction xs generalizing s with
  | nil => exact .refl s
  | cons x xs ih => exact (h s x).trans (ih (f s x))

theorem reset_mem_wf : Memory.wf State.reset.mem = true := rfl

theorem memPutSector_kept (s : State) (sec : Nat) (v : BitVec 256) : MemKept s (memPutSector s sec v) :=
  ⟨fun h => spWf_spSetList 0 _ s.mem _ h, rfl, rfl, rfl⟩
theorem areaWrite_kept (s : State) (pa : Nat) (bs : List Byte) : MemKept s (areaWrite s pa bs) :=
  ⟨fun h => spWf_spSetList 0 bs s.mem pa h, rfl, rfl, rfl⟩
theorem areaClear_kept (s : State) (pa len : Nat) : MemKept s (areaClear s pa len) :=
  ⟨fun h => spWf_spClear 0 s.mem pa len h, rfl, rfl, rfl⟩
theorem setMemBad_kept (s : State) (sec : Nat) (b : Bool) : MemKept s (setMemBad s sec b) := .of_fields rfl rfl rfl rfl
theorem slPut_kept (s : State) (sec slice : Nat) (x : SlSector) : MemKept s (slPut s sec slice x) := .of_fields rfl rfl rfl rfl
theorem slDrop_kept (s : State) (sec slice : Nat) : MemKept s (slDrop s sec slice) := .of_fields rfl rfl rfl rfl
theorem dropReplicas_kept (s : State) (line : Nat) : MemKept s (dropReplicas s line) := .of_fields rfl rfl rfl rfl
theorem dropTag_kept (s : State) (sec slice : Nat) : MemKept s (dropTag s sec slice) := .of_fields rfl rfl rfl rfl
theorem drawFree_kept (s : State) : MemKept s (drawFree s).2 := .of_fields rfl rfl rfl rfl
theorem spendFlit_kept (pa cls : Nat) (s : State) : MemKept s (spendFlit pa cls s) := by
  unfold spendFlit; dsimp only; split <;> exact .of_fields rfl rfl rfl rfl
theorem devSet_kept (s : State) (a : Nat) (v : DWord) : MemKept s (devSet s a v) := .of_fields rfl rfl rfl rfl
theorem modGang_kept (s : State) (g : Nat) (f : Gang → Gang) : MemKept s (modGang s g f) := .of_fields rfl rfl rfl rfl
theorem raiseIrq_kept (s : State) (i : Irq) : MemKept s (raiseIrq s i) := .of_fields rfl rfl rfl rfl

theorem writeBack_kept (s : State) (sec slice : Nat) : MemKept s (writeBack s sec slice) := by
  unfold writeBack
  split
  · split
    · exact (memPutSector_kept s sec _).trans ((setMemBad_kept _ sec _).trans (slPut_kept _ sec slice _))
    · split
      · exact setMemBad_kept s sec true
      · exact .refl s
  · exact .refl s
theorem evictLine_kept (s : State) (line slice : Nat) : MemKept s (evictLine s line slice) :=
  .foldl _ (fun s q => (writeBack_kept s q slice).trans (slDrop_kept _ q slice)) _ s
theorem rekey_kept (s : State) (sec slice key : Nat) : MemKept s (rekey s sec slice key) := by
  unfold rekey; split
  · exact evictLine_kept s _ slice
  · exact .refl s
theorem makeRoom_kept (s : State) (slice line : Nat) : MemKept s (makeRoom s slice line) := by
  unfold makeRoom
  dsimp only
  split
  · exact .refl s
  · split
    · exact (drawFree_kept s).trans (evictLine_kept _ _ slice)
    · exact drawFree_kept s
theorem slFill_kept (s : State) (sec slice : Nat) (x : SlSector) : MemKept s (slFill s sec slice x) :=
  (makeRoom_kept s slice _).trans (slPut_kept _ sec slice x)
theorem slRead_kept (s : State) (slice sec key cls : Nat) (byp : Bool) : MemKept s (slRead s slice sec key cls byp).2.2 := by
  unfold slRead
  split
  · exact .refl s
  · dsimp only
    split
    · exact rekey_kept s sec slice key
    · split
      · exact rekey_kept s sec slice key
      · exact (rekey_kept s sec slice key).trans (slFill_kept _ sec slice _)
theorem slWrite_kept (s : State) (slice sec off len v key cls : Nat) (byp : Bool) :
    MemKept s (slWrite s slice sec off len v key cls byp) := by
  have base : MemKept s (rekey (dropReplicas s (sec / 8)) sec slice key) := (dropReplicas_kept s _).trans (rekey_kept _ sec slice key)
  unfold slWrite
  dsimp only
  split
  · split
    · exact dropReplicas_kept s _
    · exact (dropReplicas_kept s _).trans ((memPutSector_kept _ sec _).trans (setMemBad_kept _ sec _))
  · split
    · split
      · exact base
      · exact base.trans (slPut_kept _ sec slice _)
    · split
      · split
        · exact base
        · exact base.trans ((memPutSector_kept _ sec _).trans (setMemBad_kept _ sec _))
      · split <;> exact base.trans (slFill_kept _ sec slice _)
theorem areaPut_kept (s : State) (pa len v : Nat) : MemKept s (areaPut s pa len v) := slWrite_kept ..

theorem markBad_kept (s : State) (sec slice : Nat) : MemKept s (markBad s sec slice) := by
  unfold markBad; split
  · exact slPut_kept ..
  · exact setMemBad_kept ..
theorem publishOne_kept (s : State) (p : Priv) : MemKept s (publishOne s p) := by
  have h := (MemKept.of_fields rfl rfl rfl rfl : MemKept s { s with priv := s.priv.filter (fun q => q != p) }).trans
    (slWrite_kept _ p.slice p.sector 0 32 p.data.toNat p.key p.cls p.byp)
  unfold publishOne; dsimp only; split
  · exact h.trans (markBad_kept ..)
  · exact h
theorem publishWhere_kept (s : State) (f : Priv → Bool) : MemKept s (publishWhere s f) := .foldl _ publishOne_kept _ s
theorem publishTeam_kept (s : State) (team : Nat) : MemKept s (publishTeam s team) := publishWhere_kept ..
theorem publishCovered_kept (s : State) (team : Nat) : MemKept s (publishCovered s team) := publishWhere_kept ..
theorem publishSector_kept (s : State) (sec slice : Nat) : MemKept s (publishSector s sec slice) := publishWhere_kept ..
theorem evictTag_kept (s : State) (slice : Nat) : MemKept s (evictTag s slice) := by
  unfold evictTag; split
  · exact (publishTeam_kept s _).trans (.of_fields rfl rfl rfl rfl)
  · exact .refl s
theorem recordTag_kept (s : State) (sec slice : Nat) (team : Option Nat) : MemKept s (recordTag s sec slice team) := by
  unfold recordTag; split
  · exact dropTag_kept s sec slice
  · dsimp only
    split
    · exact (dropTag_kept s sec slice).trans ((evictTag_kept _ slice).trans (.of_fields rfl rfl rfl rfl))
    · exact (dropTag_kept s sec slice).trans (.of_fields rfl rfl rfl rfl)
theorem homeReadAt_kept (s : State) (team : Option Nat) (pa len key cls : Nat) (byp : Bool) :
    MemKept s (homeReadAt s team pa len key cls byp).2.2 := by
  unfold homeReadAt; dsimp only; split
  · split
    · exact slRead_kept ..
    · exact .refl s
  · exact slRead_kept ..
theorem homeWriteAt_kept (s : State) (tag : Option Nat) (pa len v key cls : Nat) (byp : Bool) :
    MemKept s (homeWriteAt s tag pa len v key cls byp) :=
  (publishSector_kept s _ _).trans ((recordTag_kept _ _ _ tag).trans (slWrite_kept ..))
theorem remoteAcquire_kept (s : State) (pa : Nat) : MemKept s (remoteAcquire s pa) := by
  unfold remoteAcquire; dsimp only; split
  · exact (publishTeam_kept s _).trans (dropTag_kept ..)
  · exact .refl s
theorem putPriv_kept (s : State) (f : Priv → Bool) (slice : Nat) (x : Priv) :
    let r := { s with priv := s.priv.filter f }
    let u := if 4096 ≤ (r.priv.filter (fun p => p.slice == slice)).length then
        (match r.priv.find? (fun p => p.slice == slice) with | some p => publishOne r p | none => r) else r
    MemKept s { u with priv := u.priv ++ [x] } := by
  dsimp only
  split
  · split
    · exact (MemKept.of_fields rfl rfl rfl rfl : MemKept s { s with priv := s.priv.filter f }).trans
        ((publishOne_kept _ _).trans (.of_fields rfl rfl rfl rfl))
    · exact .of_fields rfl rfl rfl rfl
  · exact .of_fields rfl rfl rfl rfl
theorem copyWriteAt_kept (s : State) (team cmd pa len v key cls : Nat) (byp : Bool) :
    MemKept s (copyWriteAt s team cmd pa len v key cls byp) := by
  unfold copyWriteAt
  dsimp only
  have pub := publishWhere_kept s (fun p => p.sector == pa / 32 && p.slice == homeSlice s pa && p.team != team)
  generalize publishWhere s (fun p => p.sector == pa / 32 && p.slice == homeSlice s pa && p.team != team) = u at pub ⊢
  split
  · exact pub.trans ((dropTag_kept u _ _).trans (slWrite_kept ..))
  · cases privOf u (pa / 32) (homeSlice s pa) team with
    | some p =>
      dsimp only
      split
      · exact pub
      · exact pub.trans (putPriv_kept u _ _ _)
    | none =>
      dsimp only
      by_cases h : len = 32
      · simp only [h, if_true, Bool.false_and, Bool.false_eq_true, if_false]
        exact pub.trans (putPriv_kept _ _ _ _)
      · have rd := pub.trans (slRead_kept u (homeSlice s pa) (pa / 32) key cls byp)
        simp only [h, if_false]
        split
        · exact rd
        · exact rd.trans (putPriv_kept _ _ _ _)

/-- A placed bundle: memory keeps its form. -/
theorem placeWord_kept (pa : Nat) (v : DWord) (s : State) : MemKept s (placeWord pa v s) :=
  ⟨fun h => spWf_spSetList 0 _ s.mem pa h, rfl, rfl, rfl⟩

end Sys2Proof.Machine
end

