-- ==== Sys2Proof/Tests/Slice0.lean ====
section
/-! SUPPORT. Tests: ill-formed terms that the well-formedness check refuses, words written out from the encodings of the
manual, single steps with expected values from the manual, and a state that meets the hypotheses of each statement. -/

namespace Sys2Proof.Tests

set_option Elab.async false

open Sys2Proof Sys2Proof.Machine

/-! Ill-formed terms, one for each check. -/

theorem test_wf_votes_refuse_lane : ∀ i, i ∈ [
    Instr.gif .eq false (.spec 1) (.reg 0) 0, .gif .eq true (.reg 0) (.spec 1) 0, .gany .eq 0 (.spec 1) (.reg 0),
    .gall .ne 0 (.reg 0) (.spec 1), .gcnt .lt 0 (.spec 1) (.reg 0), .gmsk (.cond .ge (.reg 0) (.spec 1)) 0,
    .goff (.cond .ltu (.spec 1) (.reg 0))] → wf i = false := by decide +kernel
theorem test_wf_index_refuses_lane : ∀ i, i ∈ [
    Instr.xmov .zero (.x (.spec 1)), .xadd .zero (.reg 0) (.src (.spec 1)), .xsub .zero (.spec 1) (.imm 0), .xmul .zero (.spec 1) (.imm 0),
    .xand .zero (.spec 1) (.imm 0), .xxor .zero (.spec 1) (.imm 0), .xshl .zero (.spec 1) (.imm 0), .xshr .zero (.reg 0) (.src (.spec 1)),
    .xpopc .zero (.spec 1), .xldc .w0 .zero (.spec 1), .xpfx .zero (.reg 0) (.spec 1), .xsel .zero (.reg 0) (.reg 0) (.spec 1),
    .xadv .s8 .zero (.spec 1) (.imm 0), .vpld (.spec 1)] → wf i = false := by decide +kernel
theorem test_wf_xhash_range : wf (.xhash 3 .zero (.reg 0)) = false ∧ wf (.xhash 13 .zero (.reg 0)) = false ∧
    wf (.xhash 0 .zero (.spec 1)) = false ∧ wf (.xhash 4 .zero (.reg 0)) = true ∧ wf (.xhash 12 .zero (.reg 0)) = true := by decide +kernel
theorem test_wf_csr_read_only : ∀ c, c ∈ [Csr.cyc, .roff, .rgn, .ctx, .stkd, .spare, .pdecl, .peff] → wf (.csrw c 0) = false := by
  decide +kernel
theorem test_wf_vector_forms : ∀ i, i ∈ [
    Instr.epset (.set (.queue 4)), .epset (.and (.queue 0)), .vcvt .lq2 .f32 .zero (.reg 0) .rne false 0,
    .vcvt .f32 .tab .zero (.reg 0) .rne false 0, .vcvt .f32 .lq2 .zero (.reg 0) .rne false 0, .vqnt .e8m0 .zero (.reg 0) (.reg 0) .rne false 0,
    .vqnt .lq2 .zero (.reg 0) (.reg 0) .rne false 0, .vdqn .lq2 .zero (.reg 0) (.reg 0) .rne false 0, .vred .min .zero (.reg 0) .rtz false 0,
    .vred .umax .zero (.reg 0) .rne true 0, .gred .xor .zero (.reg 0) .rup false 0, .gscan .imin true .zero (.reg 0) .rne true 0,
    .vtrd .bf16 .zero (.c 0) .row 0 0 0, .vtrd .f32 .zero (.m 0) .row 0 1 0, .vtwr .e4m3 (.m 0) (.reg 0) .col 0 4 0,
    .vtwr .h4 (.c 31) (.reg 0) .col 0 0 0] → wf i = false := by decide +kernel
theorem test_wf_tensor_forms : ∀ i, i ∈ [
    Instr.mma .f32 .f32 0 0 0 0, .mma .bf16 .f16 0 0 0 0, .mmag .h4 .e4m3 0 0 0 0 0, .ttrn .bf16 (.c 0) (.m 0) .row 0,
    .ttrn .bf16 (.m 0) (.c 0) .row 0, .ttrn .f32 (.m 0) (.m 0) .col 1, .tdec .e4m3 .e4m3 0 0, .tdec .lq2 .e5m2 0 0, .join .i8 .f32 0 1 2 3,
    .join .f32 .h4 0 1 2 3, .join .f32 .f32 0 0 2 3, .join .f32 .f32 0 1 0 3, .join .f32 .f32 0 1 2 0, .join .f32 .f32 0 1 1 3,
    .join .f32 .f32 0 1 2 1, .join .f32 .f32 0 1 2 2, .jins .i32 0 1, .adrn .rm .e4m3 0 1 2, .adrn .tup .f32 0 1 2, .pred .f16 0 1,
    .pchk .f16 0 1 2, .pchk .f32 2 1 2] → wf i = false := by decide +kernel
theorem test_wf_memory_forms : ∀ i, i ∈ [
    Instr.ldv .zero (.spec 1) false 0, .ldm (.m 0) (.spec 1) .row 0 false 0, .ldg .zero (.spec 1) (.reg 0) false 0,
    .ldmk 0 (.reg 0) (.spec 1) 0 false, .ldx .zero (.reg 0) (.spec 1) false 0, .ldb false (.spec 1) 0 false, .ldb true (.queue 3) 0 false,
    .ldw .i8 .bf16 0 (.reg 0) (.reg 0) 0 false, .ldw .f32 .f32 0 (.reg 0) (.reg 0) 0 false, .ldw .f32 .bf16 0 (.spec 1) (.reg 0) 0 false,
    .ldw .f32 .bf16 0 (.reg 0) (.spec 1) 0 false, .stv (.reg 0) (.spec 1) false 0, .stm (.m 0) (.spec 1) .row 0 false 0,
    .stg (.reg 0) (.spec 1) (.reg 0) false 0, .stmk 0 (.reg 0) (.spec 1) 0 false, .stx (.reg 0) (.spec 1) (.reg 0) false 0] → wf i = false := by
  decide +kernel

/-! Words written out from the encodings (02 R39–R43; 03 R81–R83), field by field. -/

/-- Format A of the S and X slots: opcode, dst, opa, opb, opc, fn. -/
def wordA (op dst opa opb opc fn : Nat) : BitVec 64 :=
  BitVec.ofNat 64 (op + dst * 2 ^ 8 + opa * 2 ^ 14 + opb * 2 ^ 20 + opc * 2 ^ 26 + fn * 2 ^ 32)
/-- Format A of the V, L and W slots: fn (5 bits), sat or fn[5], rnd or hint, fmt, pred beside it. -/
def wordV (op dst opa opb opc fn sat rnd fmt pred : Nat) : BitVec 64 :=
  wordA op dst opa opb opc (fn + sat * 2 ^ 5 + rnd * 2 ^ 6 + fmt * 2 ^ 8 + pred * 2 ^ 13)
/-- Format I: opcode, dst, opa, imm. -/
def wordI (op dst opa imm : Nat) : BitVec 64 := BitVec.ofNat 64 (op + dst * 2 ^ 8 + opa * 2 ^ 14 + imm * 2 ^ 20)
/-- Format J: opcode, dst, imm. -/
def wordJ (op dst imm : Nat) : BitVec 64 := BitVec.ofNat 64 (op + dst * 2 ^ 8 + imm * 2 ^ 14)
/-- Format B: opcode, opa, opb, cond, offset. -/
def wordB (op opa opb cond off : Nat) : BitVec 64 :=
  BitVec.ofNat 64 (op + opa * 2 ^ 8 + opb * 2 ^ 14 + cond * 2 ^ 20 + off * 2 ^ 24)
/-- Format T: opcode, dst, opa, opb, opc, the directions byte, rotd, rota, rotc, fmta, fmtb. -/
def wordT (op dst opa opb opc dirs rotd rota rotc fa fb : Nat) : BitVec 64 :=
  BitVec.ofNat 64 (op + dst * 2 ^ 8 + opa * 2 ^ 14 + opb * 2 ^ 20 + opc * 2 ^ 26 + dirs * 2 ^ 32 + rotd * 2 ^ 40 + rota * 2 ^ 44
    + rotc * 2 ^ 52 + fa * 2 ^ 56 + fb * 2 ^ 60)
/-- Format C: opcode, desc, opa, opb, opc, bidx, bar, nb, cls, fn, mask. -/
def wordC (op desc opa opb opc bidx bar nb cls fn mask : Nat) : BitVec 64 :=
  BitVec.ofNat 64 (op + desc * 2 ^ 8 + opa * 2 ^ 14 + opb * 2 ^ 20 + opc * 2 ^ 26 + bidx * 2 ^ 32 + bar * 2 ^ 36 + nb * 2 ^ 37
    + cls * 2 ^ 38 + fn * 2 ^ 40 + mask * 2 ^ 48)
/-- Format YA: opcode, chan, opa, opb, fn, scope. -/
def wordY (op chan opa opb fn scope : Nat) : BitVec 64 :=
  BitVec.ofNat 64 (op + chan * 2 ^ 8 + opa * 2 ^ 14 + opb * 2 ^ 20 + fn * 2 ^ 26 + scope * 2 ^ 29)

/-- The word reads as the instruction in its slot, and the encoder gives the word back. -/
def reads (k : SlotKind) (x : BitVec 64 × Instr) : Bool :=
  (match decodeSlot k true x.1 with | .ok j => j == x.2 | .error _ => false) && encode x.2 == some (k, x.1)

theorem test_decode_s_arithmetic : [
    (wordA 0x01 1 2 3 0 0, Instr.add 1 2 3), (wordA 0x02 63 0 32 0 0, .sub 63 0 32), (wordA 0x03 1 2 3 0 0, .and 1 2 3),
    (wordA 0x04 1 2 3 0 0, .or 1 2 3), (wordA 0x05 1 2 3 0 0, .xor 1 2 3), (wordA 0x06 1 2 3 0 0, .andn 1 2 3),
    (wordA 0x07 1 2 3 0 0, .shl 1 2 3), (wordA 0x08 1 2 3 0 0, .shr 1 2 3), (wordA 0x09 1 2 3 0 0, .sar 1 2 3),
    (wordA 0x0A 1 2 3 0 1, .min true 1 2 3), (wordA 0x0B 1 2 3 0 0, .max false 1 2 3), (wordA 0x0C 1 2 3 0 4, .cmp .ltu 1 2 3),
    (wordA 0x0D 1 2 3 4 0, .sel 1 2 3 4), (wordA 0x0E 1 2 0 0 0, .popc 1 2), (wordA 0x0F 1 2 0 0 0, .clz 1 2),
    (wordA 0x10 1 2 3 0 0, .mul 1 2 3), (wordA 0x11 1 2 3 0 1, .mulh true 1 2 3), (wordA 0x12 1 2 3 0 0, .div false 1 2 3),
    (wordA 0x13 1 2 3 0 1, .rem true 1 2 3), (wordI 0x18 4 5 0xFFFFFF8, .addi 4 5 0xFFFFFF8), (wordJ 0x19 23 0xFF, .li 23 0xFF),
    (wordJ 0x1A 23 0xFFFFFFFF, .lih 23 0xFFFFFFFF)].all (reads .s) = true := by decide +kernel
theorem test_decode_s_control : [
    (wordB 0x20 1 2 5 0xFFFFFF, Instr.br .geu 1 2 0xFFFFFF), (wordB 0x21 0 0 0 0x800000, .jmp 0x800000), (wordA 0x22 0 7 0 0 0, .jmpr 7),
    (wordB 0x23 0 0 0 9, .call 9), (wordA 0x24 0 0 0 0 0, .ret), (wordB 0x25 0 0 3 0xFFFFFE, .loop 3 0xFFFFFE), (wordI 0x26 0 0 0xBEEF, .trap 0xBEEF),
    (wordA 0x27 0 0 0 0 0, .exit), (0x000020AB4530, .gif .lt true (.reg 5) (.spec 5) 0x20), (wordB 0x31 0 0 0 4, .gelse 4),
    (wordA 0x32 0 0 0 0 0, .gend), (wordA 0x33 0 1 2 0 3, .goff (.cond .ge (.reg 1) (.reg 2))), (wordA 0x33 0 0 0 0 8, .goff .all),
    (wordA 0x34 9 1 32 0 1, .gany .ne 9 (.reg 1) (.queue 0)), (wordA 0x35 9 1 42 0 2, .gall .lt 9 (.reg 1) (.spec 2)),
    (wordA 0x36 9 1 2 0 0, .gcnt .eq 9 (.reg 1) (.reg 2)), (wordA 0x37 9 1 2 0 5, .gmsk (.cond .geu (.reg 1) (.reg 2)) 9),
    (wordA 0x37 9 0 0 0 8, .gmsk .path 9), (wordA 0x37 9 0 0 0 16, .gmsk .act 9), (wordA 0x37 9 0 0 0 24, .gmsk .ret 9),
    (wordB 0x38 0 0 0 0, .gsplit), (wordA 0x40 0 1 2 0 0, .enq 1 2), (wordA 0x41 0 1 0 0 0, .recd 1), (wordA 0x42 0 0 0 0 0, .yield),
    (wordA 0x43 0 1 0 0 0, .prio 1)].all (reads .s) = true := by decide +kernel
theorem test_decode_s_system : [
    (wordA 0x44 5 0 0 0 0, Instr.qid .team 5), (wordA 0x44 5 0 0 0 1, .qid .nteam 5), (wordA 0x44 5 0 0 0 2, .qid .gang 5),
    (wordA 0x44 5 0 0 0 3, .qid .vdie 5), (wordA 0x44 5 0 0 0 4, .qid .loc 5), (0x000001200650, .csrr 6 .rgn),
    (wordI 0x50 6 0 8, .csrr 6 .abase), (wordI 0x50 6 0 0x31, .csrr 6 .peff), (wordI 0x50 6 0 0x11, .csrr 6 .roff), (wordI 0x51 0 2 1, .csrw (.lc 1) 2),
    (wordI 0x51 0 2 4, .csrw .lnk 2), (wordA 0x52 5 6 0 0 0, .qtop (.gangs 6) 5), (wordA 0x52 5 0 0 0 1, .qtop .dies 5),
    (wordA 0x52 5 0 0 0 2, .qtop .diam 5), (wordA 0x53 5 6 7 0 0, .qdie 5 6 7), (wordA 0x54 0 0 0 0 0, .fencei), (wordA 0x55 0 0 0 0 0, .bkpt),
    (wordI 0x60 1 2 (3 * 2 ^ 26 + 8), .lds .d 1 2 8), (wordI 0x61 1 2 0x3FFFFFF, .sts .b 1 2 0x3FFFFFF),
    (wordA 0x62 1 2 3 0 (8 + 16 + 32), .amo .swap true 1 2 3), (wordA 0x62 1 2 3 0 32, .amo .add false 1 2 3),
    (wordA 0x63 1 2 3 4 48, .cas true 1 2 3 4)].all (reads .s) = true := by decide +kernel
theorem test_decode_x : [
    (wordJ 0x01 3 0xDEADBEEF, Instr.xli (.reg 3) 0xDEADBEEF), (wordA 0x02 3 4 0 0 0, .xmov (.reg 3) (.x (.reg 4))),
    (wordA 0x02 3 63 0 0 1, .xmov (.reg 3) (.s 63)), (wordA 0x03 2 2 3 0 0, .xadd (.reg 2) (.reg 2) (.src (.reg 3))),
    (wordA 0x04 2 2 63 0 1, .xsub (.reg 2) (.reg 2) (.imm 63)), (wordA 0x05 40 2 45 0 0, .xmul .zero (.reg 2) (.src (.spec 5))),
    (wordA 0x06 2 2 3 0 0, .xand (.reg 2) (.reg 2) (.src (.reg 3))), (wordA 0x07 2 2 3 0 0, .xxor (.reg 2) (.reg 2) (.src (.reg 3))),
    (wordA 0x08 2 2 31 0 1, .xshl (.reg 2) (.reg 2) (.imm 31)), (wordA 0x09 2 2 3 0 0, .xshr (.reg 2) (.reg 2) (.src (.reg 3))),
    (wordA 0x0A 2 33 0 0 0, .xpopc (.reg 2) (.queue 1)), (wordA 0x0B 2 3 4 0 0, .xpfx (.reg 2) (.reg 3) (.reg 4)),
    (wordA 0x10 2 3 4 0 (1 + 2 + 1 * 4 + 2 * 16), .xcmpa true true .s4 .s16 3 4 (.reg 2)), (wordA 0x11 2 3 0 0 1, .xldc .row (.reg 2) (.reg 3)),
    (wordA 0x12 2 3 7 0 (2 + 4), .xadv .s16 (.reg 2) (.reg 3) (.imm 7)), (wordA 0x13 2 3 0 0 12, .xhash 12 (.reg 2) (.reg 3)),
    (wordA 0x14 2 3 4 5 0, .xsel (.reg 2) (.reg 3) (.reg 4) (.reg 5))].all (reads .x) = true := by decide +kernel
theorem test_decode_v_float : [
    (wordV 0x01 5 6 7 0 0 1 1 15 3, Instr.vaddf (.reg 5) (.reg 6) (.reg 7) true .rtz true 3),
    (wordV 0x02 5 6 7 0 0 0 2 0 0, .vsubf (.reg 5) (.reg 6) (.reg 7) false .rdn false 0),
    (wordV 0x03 5 6 7 0 0 0 3 0 0, .vmulf (.reg 5) (.reg 6) (.reg 7) false .rup false 0),
    (wordV 0x04 5 6 7 31 0 0 0 0 7, .vfmaf (.reg 5) (.reg 6) (.reg 7) (.reg 31) false .rne false 7),
    (wordV 0x05 5 6 7 0 0 0 0 0 1, .vminf (.reg 5) (.reg 6) (.reg 7) false 1), (wordV 0x06 40 6 7 0 0 0 0 15 1, .vmaxf .zero (.reg 6) (.reg 7) true 1),
    (wordV 0x07 5 6 7 0 6 0 0 0 1, .vcmpf .uno 5 (.reg 6) (.reg 7) false 1), (wordV 0x08 5 39 0 0 0 0 0 0 1, .vrcp (.reg 5) (.queue 7) false 1),
    (wordV 0x09 5 6 0 0 0 0 0 0 1, .vrsq (.reg 5) (.reg 6) false 1), (wordV 0x0A 5 6 0 0 0 0 0 0 1, .vex2 (.reg 5) (.reg 6) false 1),
    (wordV 0x0B 5 6 0 0 0 0 0 0 1, .vlg2 (.reg 5) (.reg 6) false 1), (wordV 0x0C 5 41 0 0 0 0 0 0 1, .vtanh (.reg 5) (.spec 1) false 1)].all (reads .v)
    = true := by decide +kernel
theorem test_decode_v_integer : [
    (wordV 0x10 5 6 7 0 0 1 0 0 1, Instr.vaddi (.reg 5) (.reg 6) (.reg 7) true 1), (wordV 0x11 5 6 7 0 0 0 0 0 1, .vsubi (.reg 5) (.reg 6) (.reg 7) false 1),
    (wordV 0x12 5 6 7 0 0 1 0 0 1, .vmuli (.reg 5) (.reg 6) (.reg 7) true 1), (wordV 0x13 5 6 7 0 1 0 0 0 1, .vmulhi true (.reg 5) (.reg 6) (.reg 7) 1),
    (wordV 0x14 5 6 7 0 0 0 0 0 1, .vand (.reg 5) (.reg 6) (.reg 7) 1), (wordV 0x15 5 6 7 0 0 0 0 0 1, .vor (.reg 5) (.reg 6) (.reg 7) 1),
    (wordV 0x16 5 6 7 0 0 0 0 0 1, .vxor (.reg 5) (.reg 6) (.reg 7) 1), (wordV 0x17 5 6 7 0 0 0 0 0 1, .vshl (.reg 5) (.reg 6) (.reg 7) 1),
    (wordV 0x18 5 6 7 0 0 0 0 0 1, .vshr (.reg 5) (.reg 6) (.reg 7) 1), (wordV 0x19 5 6 7 0 0 0 0 0 1, .vsar (.reg 5) (.reg 6) (.reg 7) 1),
    (wordV 0x1A 5 6 7 0 1 0 0 0 1, .vmini true (.reg 5) (.reg 6) (.reg 7) 1), (wordV 0x1B 5 6 7 0 0 0 0 0 1, .vmaxi false (.reg 5) (.reg 6) (.reg 7) 1),
    (wordV 0x1C 5 6 7 0 9 0 0 0 1, .vcmpi .leu 5 (.reg 6) (.reg 7) 1), (wordV 0x20 5 6 0 0 0 0 0 0 1, .vmov (.reg 5) (.reg 6) 1),
    (wordJ 0x21 5 0x3F800000, .vli (.reg 5) 0x3F800000), (wordV 0x22 5 63 0 0 0 0 0 0 1, .vbcs (.reg 5) 63 1),
    (wordV 0x23 5 6 7 2 0 0 0 0 1, .vsel (.reg 5) (.reg 6) (.reg 7) 2 1), (wordV 0x2A 5 6 0 0 15 0 0 0 1, .vrot (.reg 5) (.reg 6) 15 1)].all (reads .v)
    = true := by decide +kernel
theorem test_decode_v_other : [
    (wordV 0x24 5 6 0 0 9 1 2 3 1, Instr.vcvt .e4m3 .e8m0 (.reg 5) (.reg 6) .rdn true 1),
    (wordV 0x25 5 6 7 0 0 1 0 5 1, .vqnt .i8 (.reg 5) (.reg 6) (.reg 7) .rne true 1), (wordV 0x26 5 6 7 0 0 0 3 7 1, .vdqn .h4 (.reg 5) (.reg 6) (.reg 7) .rup false 1),
    (wordV 0x27 5 6 0 0 10 0 0 0 1, .vred .xor (.reg 5) (.reg 6) .rne false 1), (wordV 0x28 5 6 7 0 31 0 0 0 1, .vperm (.reg 5) (.reg 6) (.reg 7) 31 1),
    (wordV 0x29 0 4 0 0 0 0 0 0 0, .vpld (.reg 4)), (wordV 0x29 0 0 0 0 1 0 0 0 0, .vpldSwap),
    (wordV 0x2B 5 3 9 0 (1 + 1 * 4) 0 0 1 1, .vtrd .bf16 (.reg 5) (.m 3) .col 9 1 1), (wordV 0x2C 39 6 9 0 2 0 0 0 1, .vtwr .f32 (.c 31) (.reg 6) .diag 9 0 1),
    (wordV 0x2D 5 6 7 0 3 0 0 0 1, .plog 5 (.bin .andn 6 7) 1), (wordV 0x2D 5 6 0 0 4 0 0 0 1, .plog 5 (.not 6) 1),
    (wordV 0x2D 5 6 0 0 5 0 0 0 1, .plog 5 (.mov 6) 1), (wordV 0x2D 5 30 0 0 6 0 0 0 1, .plog 5 (.fromv (.reg 30)) 1),
    (wordV 0x2E 0 6 0 0 0 0 0 0 0, .epset (.set (.reg 6))), (wordV 0x2E 0 6 0 0 1 0 0 0 0, .epset (.and (.reg 6))), (wordV 0x2E 0 0 0 0 2 0 0 0 0, .epset .all),
    (wordV 0x30 5 6 7 8 1 0 0 0 1, .gshf (.reg 5) (.reg 6) (.reg 7) (.s 8) 1), (wordV 0x31 5 6 7 0 0 0 0 0 1, .gpsh (.reg 5) (.reg 6) (.reg 7) 1),
    (wordV 0x32 5 6 0 0 0 1 1 0 1, .gred .add (.reg 5) (.reg 6) .rtz true 1), (wordV 0x33 5 6 0 63 (2 * 13) 0 0 0 1, .gbcst (.reg 5) (.reg 6) 13 (.imm 63) 1),
    (wordV 0x34 5 6 0 0 (16 + 3) 1 0 0 1, .gscan .iadd true (.reg 5) (.reg 6) .rne true 1)].all (reads .v) = true := by decide +kernel
theorem test_decode_t : [
    (wordT 0x01 10 2 3 0 0 0 0 3 3 4, Instr.mma .e4m3 .e5m2 2 2 3 3), (wordT 0x02 39 7 55 16 0 0 0 1 7 7, .mmag .h4 .h4 31 7 15 16 1),
    (wordT 0x03 39 0 0 0 0 0 0 0 0 0, .tzero (.c 31)), (wordT 0x04 1 2 0 0 (2 * 4) 0 9 0 1 0, .ttrn .bf16 (.m 1) (.m 2) .diag 9),
    (wordT 0x05 1 2 0 0 0 0 0 0 8 3, .tdec .lq2 .e4m3 1 2), (wordT 0x06 0 47 0 0 0 0 0 0 0 0, .cbld 7), (wordT 0x07 0 48 15 0 0 0 0 0 0 0, .fmtw 8 15),
    (wordT 0x08 0 40 0 0 0 0 0 0 0 0, .shset 0), (wordT 0x10 0 41 42 0 0 0 0 0 0 0, .acfg 1 2), (wordT 0x11 0 0 0 0 0 0 0 0 0 0, .aclr),
    (wordT 0x12 40 41 42 43 0 0 0 0 0 1, .join .f32 .bf16 0 1 2 3), (wordT 0x13 40 41 0 0 0 0 0 0 15 0, .jins .tab 0 1),
    (wordT 0x14 40 41 42 0 0 0 3 0 2 0, .adrn .blk .f16 0 1 2), (wordT 0x14 40 41 0 0 0 0 0 0 0 0, .adrn .tup .f32 0 1 0),
    (wordT 0x15 8 55 0 0 0 0 0 0 0 0, .afold 0 15), (wordT 0x16 44 0 0 0 0 0 0 0 0 0, .aspl 4), (wordT 0x17 44 45 0 0 0 0 0 0 0 0, .ard (.key 5) 4),
    (wordT 0x17 44 0 0 0 0 7 0 0 0 0, .ard .sover 4), (wordT 0x17 44 0 0 0 0 1 0 0 0 0, .ard .st 4), (wordT 0x18 0 44 45 0 0 0 0 0 0 0, .awr (.key 4 5)),
    (wordT 0x18 0 44 0 0 0 0 5 0 0 0, .awr (.org 4)), (wordT 0x20 40 41 0 0 0 0 0 0 1 0, .pred .bf16 0 1), (wordT 0x21 40 41 0 43 0 0 0 0 0 0, .pchk .f32 0 1 3)].all
    (reads .t) = true := by decide +kernel
theorem test_decode_l_w : [
    (wordV 0x01 9 2 0 0 0 0 1 0 5, Instr.ldv (.reg 9) (.reg 2) true 5), (wordV 0x02 8 2 0 0 (16 + 5) 0 0 0 5, .ldm (.c 0) (.reg 2) .col 5 false 5),
    (wordV 0x03 9 2 31 0 0 0 0 0 5, .ldg (.reg 9) (.reg 2) (.reg 31) false 5), (wordV 0x04 7 2 3 0 3 0 0 0 0, .ldmk 7 (.reg 2) (.reg 3) 3 false),
    (wordV 0x05 40 2 3 0 0 0 1 0 0, .ldx .zero (.reg 2) (.reg 3) true 0), (wordV 0x06 0 2 0 0 (1 + 15 * 2) 0 0 0 0, .ldb true (.reg 2) 15 false),
    (wordV 0x07 7 2 3 14 3 0 0 8 0, .ldw .lq2 .e4m3 7 (.reg 2) (.reg 3) 14 false)].all (reads .l) = true ∧
  [ (wordV 0x01 0 2 9 0 0 0 1 0 5, Instr.stv (.reg 9) (.reg 2) true 5), (wordV 0x02 0 2 39 0 5 1 0 0 0, .stm (.c 31) (.reg 2) .diag 5 false 0),
    (wordV 0x03 0 2 9 31 0 0 0 0 5, .stg (.reg 9) (.reg 2) (.reg 31) false 5), (wordV 0x04 0 2 7 3 2 0 0 0 0, .stmk 7 (.reg 2) (.reg 3) 2 false),
    (wordV 0x05 0 2 9 3 0 0 0 0 5, .stx (.reg 9) (.reg 2) (.reg 3) false 5)].all (reads .w) = true := by decide +kernel
theorem test_decode_c : [
    (wordC 0x01 7 9 0 0 0 0 0 0 7 0, Instr.dset 7 7 9), (wordC 0x02 3 4 5 0 6 1 0 2 0 0, .cpy 3 4 5 2 (some 6)),
    (wordC 0x03 3 4 0 0 0 0 0 0 0 0x8001, .cpyg 3 4 0x8001 0 none), (wordC 0x04 3 4 5 6 0 0 1 0 0 0, .cpsh 3 4 5 (some 6) 0 none),
    (wordC 0x04 3 4 5 0 0 0 0 0 0 0, .cpsh 3 4 5 none 0 none), (wordC 0x05 3 4 5 0 0 0 0 1 0 0xFFFF, .cmc 3 4 5 0xFFFF 1 none),
    (wordC 0x06 3 0 0 0 0 0 0 3 0 0, .cprf 3 3 none), (wordC 0x07 3 0 0 0 0 1 0 0 0 0, .cfls 3 0 (some 0)), (wordC 0x08 3 0 0 0 15 1 0 0 0 0, .cinv 3 0 (some 15)),
    (wordC 0x09 3 4 5 0 0 0 0 0 0 0, .cfil 3 4 5 0 none)].all (reads .c) = true := by decide +kernel
theorem test_decode_y : [
    (0xFFF03F01, Instr.wait 63 63 0 63), (wordY 0x02 0 5 0 4 0, .waitr .store 5), (wordY 0x03 15 5 0 0 0, .bari 15 5), (wordY 0x04 3 0 0 0 0, .bara 3),
    (wordY 0x05 3 0 0 0 0, .barw 3), (wordY 0x06 3 0 0 0 0, .barx 3), (wordY 0x07 63 0 0 0 4, .syna .package 63), (wordY 0x08 1 0 0 0 3, .synw .die 1),
    (wordY 0x09 2 5 0 1 4, .sbc .package 2 5), (wordY 0x09 2 0 6 0 3, .sbcRd .die 2 6), (wordY 0x0A 2 5 6 2 3, .sred .max .die 2 6 5),
    (wordY 0x0B 0 0 0 0 0, .fence .engine), (wordY 0x0C 0 0 0 0 1, .acq .gang), (wordY 0x0D 0 0 0 0 2, .rel .team), (wordY 0x0E 0 5 6 0 4, .acqr 6 5),
    (wordY 0x0F 0 0 6 1 0, .time true 6)].all (reads .y) = true := by decide +kernel
/-- The first bundle of the example of 02 R37: header 0x00060925 is a delay of 3, a pop of q2, and the slots S, V0, L, Y. -/
theorem test_decode_header : bundleLen 0x00060925 = 26 ∧
    decodeBundle [0x00, 0x00, 0x0A, 0x00, 0, 0, 0, 0] = .ok (⟨5, 0, none, none, none, none, none, none, none, none, none⟩, 8) := ⟨by decide +kernel, rfl⟩
/-- What a slot may not hold, and its cause (02 R44–R47, R54, R62). -/
theorem test_decode_refuses :
    decodeSlot .s true 0 = .error .unassignedOpcode ∧ decodeSlot .s true (wordA 0x01 1 2 3 1 0) = .error .reservedField ∧
    decodeSlot .x true (wordA 0x03 41 2 3 0 0) = .error .specialDestination ∧ decodeSlot .x true (wordA 0x03 2 41 3 0 0) = .error .reservedOperand ∧
    decodeSlot .v true (wordV 0x20 32 6 0 0 0 0 0 0 0) = .error .queueDestination ∧ DecErr.queueDestination.cause = 0x06 ∧
    decodeSlot .v false (wordV 0x31 5 6 7 0 0 0 0 0 1) = .error .unassignedOpcode ∧ decodeSlot .l true (wordV 0x01 9 2 0 0 0 0 2 0 5) = .error .reservedHint ∧
    decodeSlot .t true (wordT 0x01 40 2 3 0 0 0 0 0 1 1) = .error .operandClass ∧
    decodeSlot .t true (wordT 0x01 8 2 3 0 0 0 0 0 1 2) = .error .illegalCombination ∧ DecErr.illegalCombination.cause = 0x02 :=
  ⟨rfl, rfl, rfl, rfl, rfl, rfl, rfl, rfl, rfl, rfl, rfl⟩


/-! States for the single steps and the witnesses. -/

/-- A bundle of one S-slot instruction. -/
def bundleS (i : Instr) : Bundle := ⟨0, 0, some i, none, none, none, none, none, none, none, none⟩
/-- Gang 0 at the issue of a bundle of 10 bytes on path A: the module handed off, one context, one team of one gang. -/
def at0 (f : Gang → Gang) : State :=
  setCur (modGang (modDie (State.reset.withFetchWord 32 0x0D) 0 (fun D => { D with enabled := 900 })) 0 f) 0 .A (bundleS .exit) 10
/-- s4 and s5 hold two values. -/
def s45 (a b : DWord) : State := at0 (fun G => setS 4 a (setS 5 b G))
/-- Engine e's x1 holds e, its x2 the value given. -/
def x12 (v : Word) : State :=
  at0 (fun G => (List.range 16).foldl (fun G e => setEng G e (setXE 1 (BitVec.ofNat 32 e) (setXE 2 v (getEng G e)))) G)
def isNext (o : Host.Outcome State Fault Refusal) : Bool := match o with | .next _ => true | .fault _ | .refused _ => false

/-! Witnesses: the S slot. -/

theorem witness_readable_scalar : ∀ i, i ∈ [
    Instr.add 4 5 6, .sub 4 5 6, .and 1 2 3, .or 1 2 3, .xor 0 0 0, .andn 63 63 63, .shl 1 4 5, .shr 1 4 5, .sar 1 4 5, .min true 1 4 5,
    .max false 1 4 5, .cmp .geu 1 4 5, .sel 1 2 3 4, .popc 1 4, .clz 1 4, .mul 1 4 5, .mulh false 1 4 5, .addi 4 4 0xFFFFFFF, .li 1 0, .lih 1 7,
    .div true 1 4 5, .rem false 1 4 5] → Readable i (s45 7 64) := by simp only [Readable]; decide +kernel
theorem witness_divider_free : Readable (.div true 1 4 5) (s45 7 0) ∧ divFree (s45 7 0) ≤ (curGang (s45 7 0)).gc := by
  simp only [Readable]; decide +kernel
theorem witness_divider_busy : Readable (.rem true 1 4 5) (at0 (fun G => { G with div := 1 })) ∧
    (curGang (at0 (fun G => { G with div := 1 }))).gc < divFree (at0 (fun G => { G with div := 1 })) := by
  simp only [Readable]; decide +kernel
theorem witness_scalar_values : ∃ a b : DWord, b ≠ 0 ∧ ¬(a = 0x8000000000000000 ∧ b = 0xFFFFFFFFFFFFFFFF) ∧ 0 ≤ a.toInt ∧ a ≠ 0 :=
  ⟨1, 0xFFFFFFFFFFFFFFFF, by decide +kernel⟩
theorem witness_transfers : (∀ i, i ∈ [Instr.br .eq 4 5 2, .jmp 0x800000, .call 1, .ret, .loop 0 1] → Readable i (s45 6 6)) ∧
    condHolds .eq (sv (s45 6 6) 4) (sv (s45 6 6) 5) = true ∧ condHolds .ne (sv (s45 6 6) 4) (sv (s45 6 6) 5) = false ∧
    (curPath (s45 6 6)).lnk.toNat % 2 = 0 ∧ spGet 0 (curGang (s45 6 6)).lc 0 = 0 := by simp only [Readable]; decide +kernel
theorem witness_loop_taken : Readable (.loop 3 1) (at0 (fun G => { G with lc := [(3, 1)] })) ∧
    spGet 0 (curGang (at0 (fun G => { G with lc := [(3, 1)] }))).lc 3 ≠ 0 := by simp only [Readable]; decide +kernel
/-- The highest even address of 52 bits. -/
theorem witness_jmpr : Readable (.jmpr 4) (s45 0xFFFFFFFFFFFFE 0) ∧ (sv (s45 0xFFFFFFFFFFFFE 0) 4).toNat < 2 ^ 52 ∧
    (sv (s45 0xFFFFFFFFFFFFE 0) 4).toNat % 2 = 0 := by simp only [Readable]; decide +kernel
theorem witness_transfer_eligibility : (curPath (s45 1 1)).live = true ∧
    ∀ i, i ∈ [Instr.br .eq 4 5 2, .loop 0 1, .jmp 0, .jmpr 63, .call 0, .ret] → isNext (exec i (atSlot 0 true (beginIssue (s45 1 1)))) = true := by
  decide +kernel
/-- The instruction cache of the pair lists nothing, so the path's fetch misses. -/
def coldState : State := { State.reset.withFetchWord 32 0x0D with pairs := [] }
theorem witness_miss : (getPath (getGang coldState 0) .A).elig ≤ (getGang coldState 0).gc ∧ pathFaulted coldState 0 .A = false ∧
    (getPath (getGang coldState 0) .A).pc.getLsbD 0 = false ∧ fetchPath coldState 0 .A = .miss 0x100000 := by decide +kernel
theorem witness_jmpr_beyond : (s45 0x10000000000000 0).cur.go = false ∧ Readable (.jmpr 4) (s45 0x10000000000000 0) ∧
    2 ^ 52 ≤ (sv (s45 0x10000000000000 0) 4).toNat := by simp only [Readable]; decide +kernel
theorem witness_odd_targets : Readable (.jmpr 4) (s45 0xFFFFFFFFFFFFF 0) ∧ (sv (s45 0xFFFFFFFFFFFFF 0) 4).toNat < 2 ^ 52 ∧
    (sv (s45 0xFFFFFFFFFFFFF 0) 4).toNat % 2 = 1 ∧ Readable .ret (at0 (fun G => { G with a := { G.a with lnk := 1 } })) ∧
    (curPath (at0 (fun G => { G with a := { G.a with lnk := 1 } }))).lnk.toNat % 2 = 1 := by simp only [Readable]; decide +kernel
theorem witness_trap_and_bkpt : (at0 id).cur.go = false ∧ Readable (.trap 0xFFFF) (at0 id) ∧ Readable .bkpt (at0 id) := by
  simp only [Readable]; decide +kernel
/-- Path A at an issue, where the path given has trapped. -/
def trappedBy (p : PathSlot) : State := at0 (fun G => { G with cause := some ⟨3, 0, 0, 0, 0, 0, 0, false, p, none⟩ })
theorem witness_trap_latched : (curGang (at0 id)).cause = none ∧ (curGang (at0 id)).stopReq ≠ some .trap ∧
    (curGang (trappedBy .A)).cause.map (·.path) = some .A ∧ (curGang (trappedBy .B)).cause.map (·.path) = some .B ∧
    (trappedBy .B).cur.path = .A := by decide +kernel
theorem witness_votes : ∀ i, i ∈ [
    Instr.exit, .goff .all, .goff (.cond .eq (.reg 0) (.reg 1)), .gany .lt 1 (.spec 2) (.reg 1), .gall .lt 1 (.spec 2) (.reg 1),
    .gcnt .ltu 1 (.spec 2) (.reg 1), .gmsk (.cond .eq (.reg 0) (.reg 1)) 1, .gmsk .path 1, .gmsk .act 1, .gmsk .ret 1] → Readable i (x12 3) := by
  simp only [Readable]; decide +kernel
/-- GIF with every engine true, with none true, and with engine 0 alone true. -/
theorem witness_gif : Readable (.gif .eq false (.reg 0) (.reg 0) 4) (at0 id) ∧ gifF .eq (.reg 0) (.reg 0) (at0 id) = 0 ∧
    Readable (.gif .ne true (.reg 0) (.reg 0) 4) (at0 id) ∧ gifF .ne (.reg 0) (.reg 0) (at0 id) ≠ 0 ∧ gifT .ne (.reg 0) (.reg 0) (at0 id) = 0 ∧
    Readable (.gif .eq true (.spec 2) (.reg 0) 4) (at0 id) ∧ gifF .eq (.spec 2) (.reg 0) (at0 id) ≠ 0 ∧ gifT .eq (.spec 2) (.reg 0) (at0 id) ≠ 0 ∧
    stackDepth (curGang (at0 id)) < 136 ∧ (getPath (curGang (at0 id)) (otherSlot (at0 id).cur.path)).live = false := by
  simp only [Readable]; decide +kernel
/-- The same with path B live and one place left on the stack, and with none left. -/
def deepGif (n : Nat) : State := at0 (fun G => { G with b := { G.b with live := true }, stack := List.replicate 8 0, spilled := n })
theorem witness_gif_deep : ∀ n, n ∈ [127, 128] → Readable (.gif .eq true (.spec 2) (.reg 0) 4) (deepGif n) ∧ (deepGif n).cur.go = false ∧
    gifF .eq (.spec 2) (.reg 0) (deepGif n) ≠ 0 ∧ gifT .eq (.spec 2) (.reg 0) (deepGif n) ≠ 0 ∧
    (getPath (curGang (deepGif n)) (otherSlot (deepGif n).cur.path)).live = true ∧ stackDepth (curGang (deepGif n)) = 8 + n := by
  simp only [Readable]; decide +kernel
theorem witness_reconverge_bare : (∀ i, i ∈ [Instr.gsplit, .gelse 8, .gend] → Readable i (at0 id)) ∧
    govIdx (curGang (at0 id)) (at0 id).cur.path = none ∧ govSpilled (at0 id) (curGang (at0 id)) (at0 id).cur.path = false := by
  simp only [Readable]; decide +kernel
/-- A governing entry with its reconvergence or its divergence address at the bundle, deferred or not, and how the path entered. -/
def govAt (e : StkEnt) (how : Entering) : State :=
  at0 (fun G => { G with stack := [entBitsOf e], a := { G.a with entering := how } })
def govCase (x : Entering × Bool × VAddr) : State :=
  govAt ⟨x.2.2, x.2.2, 1, 2, false, false, false, false, false, false, x.2.1⟩ x.1
theorem witness_reconverge : ∀ x, x ∈ [
    (Entering.none, false, (0x100000 : VAddr)), (.none, true, 0x100000), (.none, false, 0x100040), (.none, true, 0x100040), (.uniform, false, 0x100000),
    (.diverged, true, 0x100000)] →
    Readable (.gelse 8) (govCase x) ∧ Readable .gend (govCase x) ∧ govIdx (curGang (govCase x)) (govCase x).cur.path = some 0 ∧
    govSpilled (govCase x) (curGang (govCase x)) (govCase x).cur.path = false ∧ (govCase x).cur.entering = x.1 ∧
    (govEnt (curGang (govCase x)) (govCase x).cur.path).map (fun y => (y.deferred, y.phaseElse, y.rpc == (govCase x).cur.pc, y.dpc == (govCase x).cur.pc))
      = some (x.2.1, false, x.2.2 == 0x100000, x.2.2 == 0x100000) := by simp only [Readable]; decide +kernel
theorem witness_identity : (gangTeam (at0 id) (at0 id).cur.gang).isSome = true ∧
    (∀ i, i ∈ [Instr.qid .loc 1, .qtop .dies 1, .qtop .diam 1, .qtop (.gangs 5) 1, .qdie 1 5 5, .csrr 1 .rgn] → Readable i (s45 0x100 0)) ∧
    vdieArgOk (s45 0x100 0) (sv (s45 0x100 0) 5) = true ∧ vdieArgOk (s45 0x100 0) (sv (s45 0x100 0) 4) = false ∧
    (gangTeam (s45 0x100 0) (s45 0x100 0).cur.gang).isSome = true ∧ (s45 0x100 0).cur.go = false ∧ placedTeam.gangs.length ≠ 2 ∧
    vdOf (at0 id) placedTeam.ctx (gangDie (at0 id).cur.gang) = some 0 := by simp only [Readable]; decide +kernel
theorem witness_identity_registers : (gangTeam (modTeam (at0 id) 0 (fun T => { T with gangs := [0, 1] })) 0).map (·.gangs.length) = some 2 ∧
    ∀ i, i ∈ [Instr.qid .team 1, .qid .nteam 1, .qid .vdie 1, .qid .gang 1, .csrr 1 (.lc 3), .csrr 1 .lnk, .csrr 1 .abase, .csrr 1 .cyc,
      .csrr 1 .roff, .csrr 1 .ctx, .csrr 1 .stkd, .csrr 1 .spare, .csrr 1 .pdecl, .csrr 1 .peff] → Readable i (at0 id) := by
  simp only [Readable]; decide +kernel
theorem witness_control_writes : (∀ i, i ∈ [Instr.csrw (.lc 3) 4, .csrw .lnk 4, .csrw .abase 4, .prio 4, .yield, .fencei] → Readable i (s45 16 0)) ∧
    (curGang (s45 16 0)).team = some 0 ∧ getTeam (s45 16 0) 0 = some placedTeam ∧ yieldChoice (s45 16 0) 0 placedTeam = none ∧
    (curPath (s45 16 0)).live = true := by simp only [Readable]; decide +kernel
/-- A second team, parked on the same gang and ready. -/
def twoTeams : State :=
  let s := at0 id
  { s with teams := [(0, placedTeam), (1, { placedTeam with run := .parked, slot := 1, peff := 1, readySince := some 0, saved := [(0, getGang s 0)] })] }
theorem witness_yield_switches : Readable .yield twoTeams ∧ (curGang twoTeams).team = some 0 ∧ getTeam twoTeams 0 = some placedTeam ∧
    (yieldChoice twoTeams 0 placedTeam).isSome = true := by simp only [Readable]; decide +kernel
/-- The context has the 16 banks of its die. -/
def withBanks (s : State) : State := devSet s (ctxBlock 0 + 0x100) (1 + 0xFFFF * 2 ^ 48)
theorem witness_enqueue : Readable (.enq 4 5) (withBanks (s45 0x200000 15)) ∧ (gangTeam (withBanks (s45 0x200000 15)) 0).isSome = true ∧
    (withBanks (s45 0x200000 15)).cur.gang = 0 ∧ relReady (curGang (withBanks (s45 0x200000 15))) .A = true ∧
    (withBanks (s45 0x200000 15)).cur.path = .A ∧ (sv (withBanks (s45 0x200000 15)) 4).toNat % 64 = 0 ∧
    (sv (withBanks (s45 0x200000 15)) 4).toNat < 2 ^ 52 ∧ accessVerdict (withBanks (s45 0x200000 15)) (sv (withBanks (s45 0x200000 15)) 4).toNat 64 1 = .ok ∧
    enqSelOk (withBanks (s45 0x200000 15)) (sv (withBanks (s45 0x200000 15)) 5) = true ∧ slotCheck (.enq 4 5) (withBanks (s45 0x200000 15)) = .ok := by
  simp only [Readable]; decide +kernel
/-- A private version that an outstanding copy command has made. -/
theorem witness_release : (doRelease .package { at0 id with
      priv := [⟨0, 0x10000, 0, 0, 0, 0, false, false, [7]⟩], teams := [(0, { placedTeam with copies := [⟨7, 0, .A, 0, .cpy, 0, 0, 0, 0, 0, 1, 0, none, none,
        true, 0, [], none, [], [], false, false, 0, []⟩] })] }).priv.length = 1 := by decide +kernel
theorem witness_rec : Readable (.recd 4) (withBanks (s45 0xFFF 0)) ∧ (gangTeam (withBanks (s45 0xFFF 0)) 0).isSome = true ∧
    relReady (curGang (withBanks (s45 0xFFF 0))) .A = true ∧ recRefOk (withBanks (s45 0xFFF 0)) (sv (withBanks (s45 0xFFF 0)) 4) = true ∧
    dbits (sv (withBanks (s45 0xFFF 0)) 4) 11 0 ≠ 0 ∧ slotCheck (.recd 4) (withBanks (s45 0xFFF 0)) = .ok := by simp only [Readable]; decide +kernel
theorem witness_rec_of_tag_zero : Readable (.recd 4) (withBanks (s45 0 0)) ∧ (gangTeam (withBanks (s45 0 0)) 0).isSome = true ∧
    relReady (curGang (withBanks (s45 0 0))) .A = true ∧ recRefOk (withBanks (s45 0 0)) (sv (withBanks (s45 0 0)) 4) = true ∧
    dbits (sv (withBanks (s45 0 0)) 4) 11 0 = 0 := by simp only [Readable]; decide +kernel
theorem witness_sequencer_memory :
    Readable (.lds .d 1 4 0) (s45 0x200000 0) ∧ accessVerdict (s45 0x200000 0) (seqVa (s45 0x200000 0) 4 0) 8 1 = .ok ∧
    Readable (.sts .b 1 4 1) (s45 0x200000 0) ∧ accessVerdict (s45 0x200000 0) (seqVa (s45 0x200000 0) 4 1) 1 2 = .ok ∧
    (curGang (s45 0x200000 0)).nstore < 63 ∧ Readable (.amo .smin true 1 4 5) (s45 0x200000 0) ∧ Readable (.cas false 1 4 5 6) (s45 0x200000 0) ∧
    accessVerdict (s45 0x200000 0) (sv (s45 0x200000 0) 4).toNat 8 3 = .ok ∧ accessVerdict (s45 0x200000 0) (sv (s45 0x200000 0) 4).toNat 4 3 = .ok := by
  simp only [Readable]; decide +kernel
theorem witness_address_traps : (s45 0xFFFFFFFFFFFFF 0).cur.go = false ∧ Readable (.lds .b 1 4 1) (s45 0xFFFFFFFFFFFFF 0) ∧
    2 ^ 52 ≤ seqVa (s45 0xFFFFFFFFFFFFF 0) 4 1 ∧ Readable (.lds .h 1 4 0) (s45 0xFFFFFFFFFFFFF 0) ∧ seqVa (s45 0xFFFFFFFFFFFFF 0) 4 0 < 2 ^ 52 ∧
    seqVa (s45 0xFFFFFFFFFFFFF 0) 4 0 % sizeBytes .h ≠ 0 ∧ Readable (.sts .h 1 4 0) (s45 0xFFFFFFFFFFFFF 0) ∧
    (curGang (s45 0xFFFFFFFFFFFFF 0)).nstore < 63 ∧ Readable (.amo .add false 1 4 5) (s45 0xFFFFFFFFFFFFF 0) ∧
    Readable (.cas true 1 4 5 6) (s45 0xFFFFFFFFFFFFF 0) ∧ (sv (s45 0xFFFFFFFFFFFFF 0) 4).toNat % rmwBytes false ≠ 0 ∧
    (sv (s45 0xFFFFFFFFFFFFF 0) 4).toNat % rmwBytes true ≠ 0 ∧ Readable (.sts .b 1 4 1) (s45 0xFFFFFFFFFFFFF 0) := by
  simp only [Readable]; decide +kernel
theorem witness_beyond_52_bits : (s45 0x10000000000000 0).cur.go = false ∧ 2 ^ 52 ≤ (sv (s45 0x10000000000000 0) 4).toNat ∧
    Readable (.amo .add false 1 4 5) (s45 0x10000000000000 0) ∧ Readable (.cas true 1 4 5 6) (s45 0x10000000000000 0) := by
  simp only [Readable]; decide +kernel

/-! Witnesses: the X, V and T slots. -/

theorem witness_index_arithmetic : ∀ i, i ∈ [
    Instr.xli (.reg 15) 7, .xmov .zero (.x (.reg 1)), .xmov (.reg 3) (.s 4), .xadd (.reg 3) (.reg 1) (.src (.reg 2)), .xsub (.reg 3) (.reg 1) (.imm 63),
    .xmul (.reg 3) (.reg 1) (.src (.spec 7)), .xand (.reg 3) (.reg 1) (.imm 0), .xxor (.reg 3) (.reg 1) (.src (.reg 2)), .xshl (.reg 3) (.reg 1) (.imm 32),
    .xshr (.reg 3) (.reg 1) (.src (.reg 2)), .xpopc (.reg 3) (.reg 1), .xpfx (.reg 3) (.reg 1) (.reg 2), .xsel (.reg 3) (.reg 1) (.reg 2) (.reg 0),
    .xadv .s16 (.reg 3) (.reg 1) (.imm 1), .xhash 12 (.reg 3) (.reg 1), .xhash 0 (.reg 3) (.reg 1)] → Readable i (x12 32) := by
  simp only [Readable]; decide +kernel
/-- The last word of the scratchpad of 131,072 bytes, and the first word after it. -/
theorem witness_index_scratchpad : (∀ i, i ∈ [Instr.xldc .w0 (.reg 3) (.reg 2), .xldc .w1 (.reg 3) (.reg 0), .xldc .col .zero (.reg 2), .xldc .row (.reg 3) (.reg 2),
      .xcmpa true false .s8 .s16 2 2 (.reg 3), .xcmpa false true .s4 .s4 0 0 .zero] → Readable i (x12 0x1FFFC)) ∧
    (∀ e, e ∈ actives (x12 0x1FFFC) → WordReadable (x12 0x1FFFC) e (xa (x12 0x1FFFC) e (.reg 2)) ∧
      WordReadable (x12 0x1FFFC) e (xa (x12 0x1FFFC) e (.reg 0) + 4) ∧ WordReadable (x12 0x1FFFC) e (xv (x12 0x1FFFC) e 2) ∧
      WordReadable (x12 0x1FFFC) e (xv (x12 0x1FFFC) e 0)) := by
  simp only [Readable, WordReadable]; decide +kernel
theorem witness_index_outside : 15 ∈ actives (x12 0x20000) ∧ Readable (.xldc .w0 (.reg 3) (.reg 2)) (x12 0x20000) ∧ (x12 0x20000).cur.go = false ∧
    (curWin (x12 0x20000)).len < (xa (x12 0x20000) 15 (.reg 2)).toNat + 4 := by simp only [Readable]; decide +kernel

theorem witness_vector_float : TabIsF32 true (at0 id) ∧ ∀ i, i ∈ [
    Instr.vaddf (.reg 1) (.reg 2) (.reg 3) true .rne true 7, .vsubf .zero (.reg 2) (.reg 3) false .rtz false 0, .vmulf (.reg 1) (.spec 1) (.reg 3) false .rdn false 0,
    .vfmaf (.reg 1) (.reg 2) (.reg 3) (.reg 31) false .rup true 0, .vminf (.reg 1) (.reg 2) (.reg 3) false 0, .vmaxf (.reg 1) (.reg 2) (.reg 3) true 0,
    .vcmpf .uno 1 (.reg 2) (.reg 3) false 0, .vrcp (.reg 1) (.reg 2) false 0, .vrsq (.reg 1) (.reg 2) false 0, .vex2 (.reg 1) (.reg 2) false 0,
    .vlg2 (.reg 1) (.reg 2) false 0, .vtanh (.reg 1) (.reg 2) true 0] → Readable i (at0 id) := by simp only [Readable, TabIsF32]; decide +kernel
/-- NaNs, infinities, zeros, and 1, −1, 1/4, 128, −150 and 2^−126 as exact values. -/
theorem witness_lane_corners : (f32v 0x7FC00001).isNan = true ∧ (f32v 0xFF800001).isNan = true ∧ (f32v 0x7F800000).isInf = true ∧
    (f32v 0x80000000).isZero = true ∧ [(0x3F800000 : Word), 0xBF800000, 0x3E800000, 0x43000000, 0xC3160000, 0x00800000].all isFin32 = true ∧
    f32v 0x3F800000 = .fin false 8388608 (-23) ∧ f32v 0xBF800000 = .fin true 8388608 (-23) ∧ f32v 0x3E800000 = .fin false 8388608 (-25) ∧
    f32v 0x43000000 = .fin false 8388608 (-16) ∧ f32v 0xC3160000 = .fin true 9830400 (-16) ∧ f32v 0x00800000 = .fin false 8388608 (-149) := by
  decide +kernel
theorem witness_vector_integer : ∀ i, i ∈ [
    Instr.vaddi (.reg 1) (.reg 2) (.reg 3) true 1, .vsubi (.reg 1) (.reg 2) (.reg 3) false 1, .vmuli (.reg 1) (.reg 2) (.reg 3) true 1,
    .vmulhi true (.reg 1) (.reg 2) (.reg 3) 1, .vand (.reg 1) (.reg 2) (.reg 3) 1, .vor (.reg 1) (.reg 2) (.reg 3) 1, .vxor (.reg 1) (.reg 2) (.reg 3) 1,
    .vshl (.reg 1) (.reg 2) (.reg 3) 1, .vshr (.reg 1) (.reg 2) (.reg 3) 1, .vsar (.reg 1) (.reg 2) (.reg 3) 1, .vmini true (.reg 1) (.reg 2) (.reg 3) 1,
    .vmaxi false (.reg 1) (.reg 2) (.reg 3) 1, .vcmpi .gtu 1 (.reg 2) (.reg 3) 1, .vmov (.reg 1) (.spec 1) 1, .vli (.reg 31) 5, .vbcs (.reg 1) 63 1,
    .vsel (.reg 1) (.reg 2) (.reg 3) 4 1, .vrot (.reg 1) (.reg 2) 15 1] → Readable i (at0 id) := by simp only [Readable]; decide +kernel
theorem witness_predicates_and_conversions : (∀ i, i ∈ [
    Instr.plog 1 (.bin .andn 2 3) 0, .plog 1 (.not 2) 7, .plog 0 (.mov 2) 0, .plog 1 (.fromv (.reg 1)) 0, .epset .all, .epset (.set (.reg 1)), .epset (.and (.reg 1)),
    .vcvt .tab .e8m0 (.reg 1) (.reg 2) .rne true 0, .vqnt .h4 (.reg 1) (.reg 2) (.reg 3) .rne true 0, .vdqn .i8 (.reg 1) (.reg 2) (.reg 3) .rup false 0,
    .vred .add (.reg 1) (.reg 2) .rne true 1] → Readable i (at0 id)) ∧ fmtCheck (at0 id) .tab Fmt.cvtDstOk = .ok ∧ fmtCheck (at0 id) .h4 Fmt.qntOk = .ok ∧
    fmtCheck (at0 id) .i8 Fmt.cvtDstOk = .ok := by simp only [Readable]; decide +kernel
/-- The highest tile the team's accumulator file holds is c7; the pattern table of 512 bytes ends with the scratchpad. -/
theorem witness_tiles_of_vectors : (∀ i, i ∈ [
    Instr.vperm (.reg 1) (.reg 2) (.reg 3) 31 0, .vpld (.reg 2), .vpldSwap, .vtrd .f32 (.reg 1) (.c 7) .diag 15 0 0, .vtwr .h4 (.m 7) (.reg 1) .col 15 7 1,
    .vtwr .tab (.m 0) (.reg 1) .row 0 0 1] → Readable i (x12 0x1FE00)) ∧
    (∀ e, e ∈ actives (x12 0x1FE00) → patPending (x12 0x1FE00) e = false ∧ spReadFail (x12 0x1FE00) e (xa (x12 0x1FE00) e (.reg 2)).toNat 512 16 = none) ∧
    tileCheck (x12 0x1FE00) .f32 (.c 7) .diag 15 0 true = .ok ∧ tileCheck (x12 0x1FE00) .h4 (.m 7) .col 15 7 false = .ok ∧
    tileCheck (x12 0x1FE00) .tab (.m 0) .row 0 0 false = .ok := by
  simp only [Readable]; decide +kernel
theorem witness_cross_engine : (curGang (at0 id)).netAt ≠ (curGang (at0 id)).gc + 1 ∧ ∀ i, i ∈ [
    Instr.gshf (.reg 1) (.reg 2) (.reg 3) (.s 4) 1, .gbcst (.reg 1) (.reg 2) 15 (.imm 63) 1, .gred .umax (.reg 1) (.reg 2) .rne false 1,
    .gscan .add true (.reg 1) (.reg 2) .rup true 1, .gpsh .zero (.reg 2) (.reg 3) 1, .gpsh (.reg 31) (.reg 2) (.reg 3) 1] → Readable i (at0 id) := by
  simp only [Readable]; decide +kernel

/-- Every engine: a keyed table of 16 slots above four dense tiles, a region of 16 by 16 elements in x5, and descriptors for
PRED at 0x100 (width 32, one expert, rank 32) and PCHK at 0x200 (width 64, one expert). -/
def tState : State :=
  at0 (fun G => (List.range 16).foldl (fun G e =>
    modHw (setEng G e { getEng G e with cfgA := 0x404, x := [(1, 16), (2, 0x404), (5, 0x00100010), (6, 0x100), (7, 0x200)] }) e
      (fun H => { H with spad := [(0x100 + 20, 32), (0x100 + 22, 32), (0x100 + 24, 1), (0x200 + 20, 64), (0x200 + 24, 1)] })) G)
theorem witness_tensor_tile : ∀ i, i ∈ [
    Instr.mma .bf16 .bf16 3 7 7 3, .mma .e4m3 .lq2 0 0 0 0, .mmag .h4 .h4 0 1 3 16 0, .mmag .f16 .f16 0 1 3 0 3, .tzero (.c 3), .tzero (.m 0),
    .ttrn .bf16 (.m 1) (.m 2) .diag 15, .tdec .lq2 .e4m3 1 2, .cbld 3, .fmtw 3 15, .shset 2] → TReady i tState := by
  simp only [TReady, Readable]; decide +kernel
theorem witness_tensor_keyed : ∀ i, i ∈ [
    Instr.acfg 2 3, .aclr, .join .f32 .bf16 0 1 3 4, .jins .f32 0 1, .adrn .tup .f32 0 3 0, .adrn .blk .f32 0 3 5, .afold 3 2, .aspl 0, .ard (.key 1) 4, .ard .sover 4,
    .awr (.key 4 5), .awr (.org 4), .pred .f32 0 6, .pchk .f32 0 7 4] → TReady i tState := by simp only [TReady, Readable]; decide +kernel
/-- The view of a T instruction in engine 0. -/
def viewT (i : Instr) : TView := viewOf tState 0 (mkTOp i tState 0) 0
theorem witness_tile_results :
    (viewT (.mma .bf16 .bf16 0 1 2 3)).o.ins = .mma .bf16 .bf16 0 1 2 3 ∧ 16 * 3 + 15 < (viewT (.mma .bf16 .bf16 0 1 2 3)).o.rows ∧
    15 < (viewT (.mma .bf16 .bf16 0 1 2 3)).o.cols ∧ accBadAt (viewT (.mma .bf16 .bf16 0 1 2 3)) 0 15 15 = false ∧
    tabScales (viewT (.mma .bf16 .bf16 0 1 2 3)).o.ins = false ∧ 0 < min 32 (viewT (.mma .bf16 .bf16 0 1 2 3)).o.k ∧
    macK (viewT (.mma .bf16 .bf16 0 1 2 3)).o.fa (viewT (.mma .bf16 .bf16 0 1 2 3)).o.fb = some 32 ∧ (viewT (.tzero (.m 7))).o.ins = .tzero (.m 7) ∧
    (viewT (.ttrn .h4 (.m 1) (.m 2) .col 0)).o.ins = .ttrn .h4 (.m 1) (.m 2) .col 0 ∧ (viewT (.tdec .lq2 .e4m3 1 2)).o.ins = .tdec .lq2 .e4m3 1 2 := by
  decide +kernel

/-- The groups of an MMAG: one that covers rows 0 to 15, its B rows at 0x400. -/
def groupView : TView :=
  let v := viewT (.mmag .bf16 .bf16 0 1 3 1 0)
  { v with o := { v.o with tbl := [0x400 + 16 * 2 ^ 48, 0x400 + 16 * 2 ^ 40, 0x400 + 16 * 2 ^ 32] } }
theorem witness_groups : groupView.o.ins = .mmag .bf16 .bf16 0 1 3 1 0 ∧ 15 < groupView.o.cols ∧ 15 < groupView.o.rows ∧
    accBadAt groupView 0 15 15 = false ∧ tabScales groupView.o.ins = false ∧ macK groupView.o.fa groupView.o.fb = some 32 ∧
    0 < min 32 groupView.o.k ∧ (groupView.o.tbl.filter (fun t => (grpRows groupView.o.rows 0 t).contains 15)) ≠ [] ∧
    groupView.o.tbl.all (fun t => !tvBad groupView (grpAddr t + 64 * 15) 64) = true := by decide +kernel
/-- The table of engine 0: 16 slots, one probe, a ring of one entry; key 5 in its slot, or the slot vacated. -/
def tableEng : Engine := { getEng (getGang tState 0) 0 with cfgB := 2 ^ 17 + 0x800 }
def tableHw (k : Option KSlot) : EngineHw :=
  match k with
  | some k => putSlot (gangWin tState 0) (hashKey 5 16) k (getHw (getGang tState 0) 0)
  | none => getHw (getGang tState 0) 0
theorem witness_table : ktN tableEng (gangWin tState 0) = 16 ∧ ktP tableEng = 1 ∧
    probe tableEng (tableHw none) (gangWin tState 0) 5 = .at (hashKey 5 16) ∧
    probe tableEng (tableHw (some .vacated)) (gangWin tState 0) 5 = .at (hashKey 5 16) ∧
    probe tableEng (tableHw (some (.occ 5 7))) (gangWin tState 0) 5 = .hit (hashKey 5 16) 7 ∧
    probe tableEng (tableHw (some (.occ 6 7))) (gangWin tState 0) 5 = .ring ∧ tableEng.spillCount < ringLen tableEng ∧
    ringLen { tableEng with spillCount := 1 } ≤ ({ tableEng with spillCount := 1 } : Engine).spillCount ∧ (tableHw none).spadBad = [] ∧
    probeBad tableEng (tableHw none) (gangWin tState 0) 5 = false := by decide +kernel
/-- Tuples: that at 0x114 has row and column 32, that at 0x400 row and column 0, and the window ends at 0x20000. -/
def joinAt (a b ga gb : Nat) : JoinRun := ⟨a, b, ga, gb, 0, 1, [], none, false, 0, 0, 0, [], false, false, none, false⟩
theorem witness_join : (∀ a, a ∈ [0x114, 0x400, 0x20000] → tupleBad (viewT (.join .f32 .bf16 0 1 3 4)) a = false) ∧
    (joinAt 0x400 0x400 0 0).next < (joinAt 0x400 0x400 0 0).total ∧ (joinAt 0x400 0x114 1 1).next < 1 * 1 ∧
    [(0 : Word), 0x00200020].all (mayForm (tvEng (viewT (.jins .f32 0 1))) (viewT (.jins .f32 0 1)).W 0
      (singly (tvEng (viewT (.jins .f32 0 1))) (joinAt 0x400 0x114 1 1))) = true ∧
    (∀ x, x ∈ [(0x400, 0), (0x114, 32), (0x20000, 0xFFFF)] → nbits (tupleAt (viewT (.join .f32 .bf16 0 1 3 4)) x.1).1.toNat 15 0 = x.2 ∧
      nbits (tupleAt (viewT (.join .f32 .bf16 0 1 3 4)) x.1).1.toNat 31 16 = x.2) := by decide +kernel
/-- The table holds key 5, which no error has met. -/
def tableView (i : Instr) (xa xb : Word) : TView :=
  let s := modGang tState 0 (fun G => modHw (setEng G 0 tableEng) 0 (fun _ => tableHw (some (.occ 5 7))))
  viewOf s 0 { mkTOp i tState 0 with xa := xa, xb := xb } 0
theorem witness_table_reads : tableBad (tableEng) (tableHw (some (.occ 5 7))) (gangWin tState 0) = false ∧
    occupied (tableHw (some (.occ 5 7))) (gangWin tState 0) = [(hashKey 5 16, 5, 7)] ∧
    (∀ lay, lay ∈ [Layout.rm, .cm, .blk, .tup] → (tableView (.adrn lay .f32 0 3 5) 0x400 0x00100010).o.ins = .adrn lay .f32 0 3 5) ∧
    (tableView (.adrn .rm .f32 0 3 5) 0x400 0x00100010).o.fa = .f32 ∧ keyRow 5 = 0 ∧ keyCol 5 = 5 ∧
    slotBad tableEng (tableHw (some (.occ 5 7))) (gangWin tState 0) (hashKey 5 16) = false ∧
    accBadAt (tableView (.afold 0 3) 0 0) 0 0 5 = false ∧
    (∀ sel, sel ∈ [ArdSel.key 1, .st, .occ, .cfg, .spl, .org, .sres, .sover] → ardBad tableEng (tableHw (some (.occ 5 7))) (gangWin tState 0) sel 5 = false) ∧
    probeBad (tvEng (tableView (.awr (.key 4 5)) 5 1)) (tvHw (tableView (.awr (.key 4 5)) 5 1)) (tableView (.awr (.key 4 5)) 5 1).W 5 = false ∧
    probe (tvEng (tableView (.awr (.key 4 5)) 5 1)) (tvHw (tableView (.awr (.key 4 5)) 5 1)) (tableView (.awr (.key 4 5)) 5 1).W 5
      = .hit (hashKey 5 16) 7 := by decide +kernel
theorem witness_sage :
    (let v := viewT (.pred .f32 0 6)
     let d := descOf v.o.tbl
     (∀ c, c < sgRk d → colBad v d c = false) ∧ ∀ i, i < sgNe d → scoreBad v d i = false) ∧
    (let v := viewT (.pchk .f32 0 7 4)
     let d := descOf v.o.tbl
     (∀ b, b < sgD d / 64 → blockBad v d b = false) ∧ ∀ i, i < sgNe d → boundBad v d i = false) ∧
    (viewT (.pred .f32 0 6)).o.ins = .pred .f32 0 6 ∧ (viewT (.pchk .f32 0 7 4)).o.ins = .pchk .f32 0 7 4 := by decide +kernel

theorem witness_hash_of_the_table : Readable (.xhash 0 (.reg 3) (.reg 1)) tState ∧
    ∀ e, e ∈ actives tState → cfgN (curWin tState).acc (cfgWord (curGang tState) e).1 ≠ 0 := by
  simp only [Readable]; decide +kernel

/-! Witnesses: the L, W and C slots. -/

/-- Engine 15 alone: x1 is an address whose 1,024 bytes end with the scratchpad, x2 a stride, x3 an address in the device
aperture, whose base is 0x200000. -/
def lwState : State :=
  at0 (fun G => setEng { G with abase := 0x200000, a := { G.a with mask := 0x8000 } } 15
    { getEng G 15 with x := [(1, 0x1FC00), (2, 64), (3, 0x80000040)] })
theorem witness_loads : ∀ i, i ∈ [
    Instr.ldv (.reg 1) (.reg 1) false 1, .ldv (.reg 1) (.reg 3) true 0, .ldg (.reg 1) (.reg 3) (.reg 0) false 0, .ldg .zero (.reg 1) (.reg 0) false 0,
    .ldx (.reg 1) (.reg 1) (.reg 2) false 0, .ldx (.reg 1) (.reg 3) (.reg 2) false 0, .ldm (.c 7) (.reg 1) .col 15 false 3, .ldm (.m 0) (.reg 1) .diag 0 false 0,
    .ldmk 7 (.reg 1) (.reg 2) 0 false, .ldmk 7 (.reg 1) (.reg 2) 3 true, .ldb true (.reg 1) 15 false, .ldb false (.reg 1) 0 false,
    .ldw .bf16 .e4m3 7 (.reg 1) (.reg 0) 15 false, .ldw .h4 .h4 0 (.reg 1) (.reg 0) 0 false] → Readable i lwState ∧ AddressesOk i lwState := by
  simp only [Readable, AddressesOk]; decide +kernel
theorem witness_loads_beside : (∀ e, e ∈ actives lwState → lineTileFail lwState (fun e => laneOn lwState e 3) (.c 7) .col 15 false e = none) ∧ ldbRoom lwState 3 16 = true ∧
    ldbRoom lwState 2 1 = true ∧ fmtCheck lwState .bf16 (fun f => Fmt.ldwSrcOk f && f != .tab) = .ok ∧
    (∀ e, e ∈ actives lwState → ldwFail lwState .bf16 .e4m3 15 e = none) ∧
    (∀ e, e ∈ actives lwState → engAperture lwState (.ldv (.reg 1) (.reg 1) false 1) e = false) := by decide +kernel
theorem witness_stores : (curGang lwState).nstore < 63 ∧ (∀ e, e ∈ actives lwState → lineTileFail lwState (fun e => laneOn lwState e 3) (.c 7) .row 15 true e = none) ∧
    (∀ e, e ∈ actives lwState → engAperture lwState (.stv (.reg 1) (.reg 1) false 0) e = false) ∧ ∀ i, i ∈ [
    Instr.stv (.reg 1) (.reg 1) false 1, .stv (.reg 1) (.reg 3) true 0, .stg (.reg 1) (.reg 3) (.reg 0) false 0, .stx (.reg 1) (.reg 1) (.reg 2) false 0,
    .stm (.c 7) (.reg 1) .row 15 false 3, .stmk 7 (.reg 1) (.reg 2) 3 false] → Readable i lwState ∧ AddressesOk i lwState := by
  simp only [Readable, AddressesOk]; decide +kernel

/-- d0: 64 bytes from device memory to a scratchpad, d1: the other way, in two rows; s6 holds 1 row. -/
def copyState : State :=
  at0 (fun G => setS 6 1 { G with d := [
    (0, BitVec.ofNat 256 (0x200000 + 2 ^ 60 * 2 ^ 64 + 64 * 2 ^ 128 + 1 * 2 ^ 160)),
    (1, BitVec.ofNat 256 (2 ^ 60 + 0x200000 * 2 ^ 64 + 64 * 2 ^ 128 + 2 * 2 ^ 160 + 64 * 2 ^ 192 + 64 * 2 ^ 224))] })
theorem witness_copies : (∀ x, x ∈ [
      (Instr.cpy 0 0 0 2 (some 15), CopyOp.cpy), (.cpyg 0 6 0xFFFF 0 none, .cpyg), (.cpsh 1 0 0 none 0 none, .cpsh), (.cpsh 1 0 0 (some 9) 0 none, .cpsh),
      (.cmc 0 0 0 1 3 none, .cmc), (.cprf 0 0 none, .cprf), (.cfls 1 0 none, .cfls), (.cinv 1 0 none, .cinv), (.cfil 0 6 0 0 none, .cfil)] →
      CopyReady x.1 x.2 copyState) ∧ Readable (.dset 7 7 6) copyState ∧ (curGang copyState).team.isSome = true := by
  simp only [CopyReady, Readable]; decide +kernel
/-- A DSET whose word waits for one bundle more, or for none. -/
theorem witness_dset : ∀ n, n ∈ [0, 1] → (curGang (at0 (fun G => { G with gc := 5, dsets := [⟨.A, 7, 3, 9, 4, n⟩] }))).dsets = [⟨.A, 7, (3 : BitVec 3).toNat, 9, 4, n⟩] ∧
    (at0 (fun G => { G with gc := 5, dsets := [⟨.A, 7, 3, 9, 4, n⟩] })).cur.path = .A ∧
    4 < (curGang (at0 (fun G => { G with gc := 5, dsets := [⟨.A, 7, 3, 9, 4, n⟩] }))).gc := by decide +kernel
/-- The team's queue holds 32 commands that have not started. -/
def fullCopies : State :=
  modTeam copyState 0 (fun T => { T with copies := (List.range 32).map (fun n =>
    ⟨n, 0, .A, n, .cprf, 0, 0, 0, 0, 0, 0, 0, none, none, false, 0, [], none, [], [], false, false, 0, []⟩) })
theorem witness_copy_queue_full : Readable (.cpsh 1 0 0 (some 9) 0 none) fullCopies ∧
    copyCauses (.cpsh 1 0 0 (some 9) 0 none) .cpsh fullCopies = .ok ∧ queueFull fullCopies = true := by simp only [Readable]; decide +kernel

/-! Witnesses: the Y slot. -/

theorem witness_waits : (∀ i, i ∈ [Instr.wait 0 63 0 63, .waitr .store 0, .time false 5, .time true 5] → Readable i (at0 id)) ∧ (curGang (at0 id)).nstore ≤ 0 ∧
    ctrValue (curGang (at0 id)) .store ≤ min (sv (at0 id) 0).toNat 63 ∧
    (0 : BitVec 6).toNat < (curGang (at0 (fun G => { G with nstore := 1 }))).nstore ∧
    (∀ k, k < 8 → (0x84 : BitVec 8).getLsbD k = true → queueWait (at0 (fun G => { G with q7 := [1], eng := G.eng.map (fun e => (e.1, { e.2 with q2 := [5] })) })) k = false) := by
  simp only [Readable]; decide +kernel
/-- Barrier 3 of the team, and what path A knows of it. -/
def barState (x : Barrier) (f : Path → Path) : State :=
  modTeam (at0 (fun G => { G with a := f G.a })) 0 (fun T => setBar T 3 x)
theorem witness_barriers :
    (∀ x, x ∈ [(⟨0, 0, 0, false, []⟩ : Barrier), ⟨1, 0, 5, false, []⟩] → (curGang (barState x id)).team = some 0 ∧
      (getTeam (barState x id) 0).isSome = true ∧ Readable (.bari 3 4) (barState x id) ∧ teamBar (barState x id) 0 3 = x ∧
      relReady (curGang (barState x id)) (barState x id).cur.path = true ∧ (curPath (barState x id)).barOpen = none ∧
      (curPath (barState x id)).barx = false ∧ (barState x id).cur.go = false) := by simp only [Readable]; decide +kernel
theorem witness_barrier_waits :
    (curPath (barState ⟨2, 1, 5, false, []⟩ (fun P => { P with barOpen := some (3, 5), barResume := some 0, barx := true }))).barResume = some 0 ∧
    (0 : Nat) ≤ nowCyc (barState ⟨2, 1, 5, false, []⟩ (fun P => { P with barOpen := some (3, 5), barResume := some 0, barx := true })) ∧
    (curPath (barState ⟨2, 1, 5, false, []⟩ (fun P => { P with barOpen := some (3, 5), barResume := some 0, barx := true }))).barx = true ∧
    spFind (curPath (barState ⟨2, 1, 5, false, []⟩ (fun P => { P with barPhase := [(3, 5)] }))).barPhase 3 = some 5 ∧
    spFind (curPath (barState ⟨2, 1, 5, false, []⟩ (fun P => { P with barPhase := [(3, 4)] }))).barPhase 3 = some 4 ∧
    phaseOver (teamBar (barState ⟨2, 1, 5, false, []⟩ id) 0 3) 4 = none := by decide +kernel
theorem witness_barrier_phases :
    getTeam (barState ⟨2, 1, 5, false, []⟩ (fun P => { P with barOpen := some (3, 5) })) 0 ≠ none ∧
    teamBar (barState ⟨2, 1, 5, false, []⟩ id) 0 3 = ⟨2, 1, 5, false, []⟩ ∧
    (getGang (barState ⟨2, 1, 5, false, []⟩ (fun P => { P with barOpen := some (3, 5) })) 0).team = some 0 ∧
    (getPath (getGang (barState ⟨2, 1, 5, false, []⟩ (fun P => { P with barOpen := some (3, 5) })) 0) .A).barOpen = some (3, 5) := by decide +kernel
theorem witness_release_and_acquire : relReady (curGang (at0 id)) (at0 id).cur.path = true ∧
    relReady (curGang (at0 (fun G => { G with nstore := 1 }))) .A = false ∧ Readable (.acqr 5 4) (s45 0x200000 0) ∧
    accessVerdict (s45 0x200000 0) (sv (s45 0x200000 0) 4).toNat 4 1 = .ok := by simp only [Readable]; decide +kernel

/-- Channel 63 belongs to the team's grid at die scope, channel 0 at package scope, channel 1 at die scope to another grid. -/
def thymeState : State :=
  devSet (devSet (devSet (at0 id) (ctxBlock 0 + 0x800 + 16 * 63) (1 + 2 ^ 32)) (ctxBlock 0 + 0x800) (1 + 2 ^ 15 + 2 ^ 32))
    (ctxBlock 0 + 0x800 + 16) (1 + 2 * 2 ^ 32)
theorem witness_thyme : (gangTeam thymeState thymeState.cur.gang).isSome = true ∧ thymeCheck .die 63 thymeState = .ok ∧ thymeCheck .package 0 thymeState = .ok ∧
    relReady (curGang thymeState) thymeState.cur.path = true ∧ arrivedOpen thymeState 63 false = false ∧ arrivedOpen thymeState 0 true = false ∧
    synwPending thymeState 63 false = false ∧
    ∀ i, i ∈ [Instr.sbc .die 63 4, .sbcRd .package 0 5, .sred .or .die 63 5 4] → Readable i thymeState := by simp only [Readable]; decide +kernel
theorem witness_thyme_refused : thymeState.cur.go = false ∧ (chGiven thymeState 0 62 = false) ∧ chGrid thymeState 0 1 ≠ gridNo placedTeam.recId ∧
    gangTeam thymeState thymeState.cur.gang = some placedTeam ∧ chPkg thymeState 0 0 ≠ Scope.isPkg .die ∧ arrivedOpen thymeState 62 false = false ∧
    synwPending thymeState 62 false = false ∧ ∀ i, i ∈ [Instr.sbc .die 62 4, .sbcRd .die 1 5, .sred .or .die 0 5 4] → Readable i thymeState := by
  simp only [Readable]; decide +kernel
/-- A round with arrivals of two operators, and one without a value. -/
def twoRounds (w : Option (SredOp × Word)) : Round := ⟨0, 0, 0, [⟨0, 0, some .A, some (.add, 1)⟩, ⟨0, 1, some .A, w⟩], [], [], none, 0⟩
theorem witness_rounds : (twoRounds none).arrs.Perm (twoRounds none).arrs ∧
    (⟨0, 0, some .A, some (.add, 1)⟩ : Arrive) ∈ (twoRounds (some (.max, 1))).arrs ∧ (⟨0, 1, some .A, some (.max, 1)⟩ : Arrive) ∈ (twoRounds (some (.max, 1))).arrs ∧
    SredOp.add ≠ .max ∧ (∀ a, a ∈ ({ twoRounds none with arrs := [⟨0, 1, some .A, none⟩] } : Round).arrs → a.val = none) :=
  ⟨List.Perm.refl _, by decide +kernel⟩

/-! Witnesses: the steps of a gang beside its bundles. -/

def accAt (op : AccOp) (done : Bool) : Acc := ⟨0x200000, 0x200000, 32, 0, 0, false, op, 0, none, 0, 0, done, 0, false⟩
def ldsTxn : Txn := ⟨1, .A, .lds 5 8 0x200000, [accAt .read true, { accAt .read true with va := 0x200020, pa := 0x200020 }], none, 0, [], 0, 0, 0x60, 0⟩
def rmwTxn : Txn := ⟨2, .A, .rmw 5 4, [accAt (.amo .add 1) true], none, 0, [], 0, 0, 0x62, 0⟩
def stsTxn : Txn := ⟨3, .A, .sts, [accAt (.write 7) true], none, 0, [], 0, 0, 0x61, 0⟩
def apTxn : Txn := ⟨4, .A, .apLoad (.reg 1) 0 0, [accAt .read true], some 0, 0, [], 0, 0, 1, 6⟩
def retState : State :=
  at0 (fun G => { G with
    nstore := 1, fresh := 8, latch := [(3, 9)], txns := [ldsTxn, rmwTxn, stsTxn, apTxn], flight := [⟨0, .A, .s 8 5, none, 0⟩]
    ilks := [⟨10, .A, false, false, 1, 5, .at 0 7⟩, ⟨11, .A, false, false, 2, 6, .sbc 3⟩, ⟨12, .A, true, false, 3, 7, .mem 2⟩] })
/-- A later interlocked result has already been written to s5 in this gang cycle. -/
def lateState : State := modGang retState 0 (fun G => { G with wrote := [(5, 9)] })
theorem witness_returns : landDue (getGang retState 0) = true ∧ findIlk (getGang retState 0) 10 = some ⟨10, .A, false, false, 1, 5, .at 0 7⟩ ∧ (getGang retState 0).wrote = [] ∧
    findIlk (getGang lateState 0) 10 = some ⟨10, .A, false, false, 1, 5, .at 0 7⟩ ∧ (getGang lateState 0).wrote = [(5, 9)] ∧ ¬ 9 ≤ 1 ∧ 0 ≤ (getGang retState 0).gc ∧
    findIlk (getGang retState 0) 11 = some ⟨11, .A, false, false, 2, 6, .sbc 3⟩ ∧ (getGang retState 0).fresh.getLsbD 3 = true ∧
    findIlk (getGang retState 0) 12 = some ⟨12, .A, true, false, 3, 7, .mem 2⟩ ∧ findTxn (getGang retState 0) 2 = some rmwTxn ∧ findTxn (getGang retState 0) 1 = some ldsTxn ∧
    oldestStore (getGang retState 0) = some stsTxn ∧ storeDone stsTxn = true ∧ findTxn (getGang retState 0) 4 = some apTxn ∧
    stsPending (getGang (at0 (fun G => { G with txns := [{ stsTxn with accs := [accAt (.write 7) false] }, ldsTxn] })) 0) (0x200000 / 64) = true ∧
    stsPending (getGang (at0 (fun G => { G with txns := [ldsTxn] })) 0) (0x200000 / 64) = false := by decide +kernel
theorem witness_fetch : fetchReady coldState 0 .A = true ∧ gangTeam coldState 0 = some placedTeam ∧ fetchTarget coldState 0 .A = some 0x100000 ∧
    (match unitTr coldState 0 0 0x100000 with
     | (.ok pa key cls _ _, es) => populated coldState pa && !(readUnit (noteReader (gangDie 0) pa cls (cacheWalk coldState es)) (gangDie 0) (pa / 64 * 64) key cls).2.1
     | _ => false) = true := by decide +kernel
theorem witness_landing : (getGang (at0 (fun G => { G with flight := [⟨0, .A, .s 8 5, none, 0⟩] })) 0).frozen = 0 ∧
    (getGang (at0 (fun G => { G with flight := [⟨0, .A, .s 8 5, none, 0⟩] })) 0).run = .run ∧
    (getGang (at0 (fun G => { G with flight := [⟨0, .A, .s 8 5, none, 0⟩] })) 0).flight = [⟨0, .A, .s 8 5, none, 0⟩] := by decide +kernel
/-- Two results of one gang cycle for v1, and an engine whose accumulators and scratchpad are sound. -/
def twoLandings : State := at0 (fun G => { G with flight := [⟨0, .A, .v 1 [(3, 0x00FF, 5)], none, 0⟩, ⟨0, .A, .v 1 [(3, 0x000F, 7)], none, 0⟩] })
theorem witness_two_landings : landsNow (getGang twoLandings 0) = true ∧
    (getGang twoLandings 0).flight = [⟨0, .A, .v 1 [(3, 0x00FF, 5)], none, 0⟩, ⟨0, .A, .v 1 [(3, 0x000F, 7)], none, 0⟩] ∧
    (0 : Nat) ≤ (getGang twoLandings 0).gc ∧ (getHw (getGang twoLandings 0) 3).accBad = [] ∧ (getHw (getGang twoLandings 0) 3).spadBad = [] ∧
    ([(0, (5 : Word)), (4, 6)] : List (Nat × Word)).Pairwise (fun x y => x.1 + 4 ≤ y.1 ∨ y.1 + 4 ≤ x.1) ∧
    16 * 4 * (7 + 1) ≤ 512 := by decide +kernel
/-- T instructions of engine 0: one that may begin, one that is over, one with an index to push, one with a placement. -/
def opOf (i : Instr) (f : TOp → TOp) : State := modGang tState 0 (fun G => { G with gc := 100, tops := [f (mkTOp i tState 0)] })
theorem witness_tensor_begin : beginReady (opOf (.tzero (.m 0)) id) 0 0 0 = true ∧ (findOp (getGang (opOf (.tzero (.m 0)) id) 0) 0 0).isSome = true ∧
    tClass (.tzero (.m 0)) = .tile := by decide +kernel
theorem witness_tensor_end : endReady (opOf (.tzero (.m 0)) (fun o => { o with begun := true, done := some 100, out := some [] })) 0 0 0 = true := by decide +kernel
def pushOp : TOp := { mkTOp (.pred .f32 0 6) tState 0 with begun := true, pushes := [(100, 7)] }
theorem witness_tensor_push : (getGang (opOf (.pred .f32 0 6) (fun _ => pushOp)) 0).tops.find? (pushReady (opOf (.pred .f32 0 6) (fun _ => pushOp)) 0 0) = some pushOp ∧
    pushOp.pushes = [(100, 7)] ∧ sageQueue pushOp < 4 := by decide +kernel
def placeJoin : JoinRun := ⟨0, 0, 0, 0, 0, 0, [⟨5, 0, .fin false 1 0, 100⟩], none, false, 0, 0, 0, [], false, false, none, false⟩
def placeOp : TOp := { mkTOp (.jins .f32 0 1) tState 0 with begun := true, join := some placeJoin }
theorem witness_tensor_place : ∃ bank, bank < 16 ∧ placeReady (opOf (.jins .f32 0 1) (fun _ => placeOp)) 0 0 bank = true ∧
    placingOp (getGang (opOf (.jins .f32 0 1) (fun _ => placeOp)) 0) 0 = some placeOp ∧
    bankPend (viewOf (opOf (.jins .f32 0 1) (fun _ => placeOp)) 0 placeOp 0) placeJoin bank = some ⟨5, 0, .fin false 1 0, 100⟩ ∧
    probeBad (getEng (getGang tState 0) 0) (getHw (getGang tState 0) 0) (gangWin tState 0) 5 = false ∧
    (placeEntry (gangWin tState 0) 5 (.fin false 1 0) (getEng (getGang tState 0) 0) (getHw (getGang tState 0) 0)).1 = .placed := by decide +kernel
/-- Copies of the team: a CPY of 64 bytes from device memory to device memory, a CPY to a queue, and a CPYG. -/
def copyOf (op : CopyOp) (desc : Nat) (started : Bool) (off : Nat) : Copy :=
  ⟨0, 0, .A, 0, op, BitVec.ofNat 256 desc, 0, 0, 0, 0xFFFF, 1, 0, none, none, started, off, [], none, [], [], false, false, 0, []⟩
def memCopy : Nat := 0x200000 + 0x300000 * 2 ^ 64 + 64 * 2 ^ 128 + 1 * 2 ^ 160
def queueCopy : Nat := 0x200000 + (2 * 2 ^ 60) * 2 ^ 64 + 64 * 2 ^ 128 + 1 * 2 ^ 160
def spadCopy : Nat := 0x200000 + 2 ^ 60 * 2 ^ 64 + 64 * 2 ^ 128 + 1 * 2 ^ 160
def copying (c : Copy) : State :=
  let s := modGang (at0 id) 0 (fun G => { G with ncopy := 1, eng := G.eng.map (fun e => (e.1, { e.2 with q0 := [3] })) })
  modTeam { s with sub := 1 } 0 (fun T => { T with copies := [c] })
def copyTeam (c : Copy) : Team := { placedTeam with copies := [c] }
theorem witness_copy_start : getTeam (copying (copyOf .cpy memCopy false 0)) 0 = some (copyTeam (copyOf .cpy memCopy false 0)) ∧
    startReady (copying (copyOf .cpy memCopy false 0)) (copyTeam (copyOf .cpy memCopy false 0)) = true ∧
    queueHead (copyTeam (copyOf .cpy memCopy false 0)) = some (copyOf .cpy memCopy false 0) ∧
    mateOf (copyTeam (copyOf .cpy memCopy false 0)) (copyOf .cpy memCopy false 0) = none := by decide +kernel
theorem witness_copy_piece : findCopy (copyTeam (copyOf .cpy memCopy true 0)) 0 = some (copyOf .cpy memCopy true 0) ∧
    pieceReady (copying (copyOf .cpy memCopy true 0)) (copyTeam (copyOf .cpy memCopy true 0)) (copyOf .cpy memCopy true 0) 0 = true ∧
    pieceWouldStop (copying (copyOf .cpy memCopy true 0)) 0 (copyTeam (copyOf .cpy memCopy true 0)) (copyOf .cpy memCopy true 0) 0 = false ∧
    windowMissing (copying (copyOf .cpy memCopy true 0)) (copyTeam (copyOf .cpy memCopy true 0)) (copyOf .cpy memCopy true 0) = false ∧
    (movePiece (copying (copyOf .cpy memCopy true 0)) 0 (copyTeam (copyOf .cpy memCopy true 0)) (copyOf .cpy memCopy true 0) 0
      (pieceLen (copyOf .cpy memCopy true 0) 0)).1.isSome = true := by decide +kernel
theorem witness_copy_complete : ∀ b, b ∈ [none, some 15] →
    completeReady (copying { copyOf .cpy memCopy true 64 with bar := b }) (copyTeam { copyOf .cpy memCopy true 64 with bar := b })
      { copyOf .cpy memCopy true 64 with bar := b } = true := by decide +kernel
theorem witness_copy_falls : (getGang (copying { copyOf .cpy memCopy true 64 with finished := true }) 0).team = some 0 ∧
    oldestCopy (copyTeam { copyOf .cpy memCopy true 64 with finished := true }) 0 = some { copyOf .cpy memCopy true 64 with finished := true } ∧
    copyWorks (copying { copyOf .cpy memCopy true 64 with finished := true }) (copyTeam { copyOf .cpy memCopy true 64 with finished := true })
      { copyOf .cpy memCopy true 64 with finished := true } = true := by decide +kernel
theorem witness_copy_to_queue : qPushReady (copying (copyOf .cpy queueCopy true 60)) (copyTeam (copyOf .cpy queueCopy true 60)) (copyOf .cpy queueCopy true 60) = true ∧
    queueRoom (copying (copyOf .cpy queueCopy true 60)) (copyTeam (copyOf .cpy queueCopy true 60)) (copyOf .cpy queueCopy true 60) = true ∧
    windowMissing (copying (copyOf .cpy queueCopy true 60)) (copyTeam (copyOf .cpy queueCopy true 60)) (copyOf .cpy queueCopy true 60) = false ∧
    (wordPieces 0 (copyTeam (copyOf .cpy queueCopy true 60)) (copyOf .cpy queueCopy true 60) 4 60 4
      (modCopy (copying (copyOf .cpy queueCopy true 60)) 0 0 (fun c => { c with held := none })) []).1.isSome = true := by decide +kernel
theorem witness_copy_takes : takeReady (copying (copyOf .cpyg spadCopy true 0)) (copyTeam (copyOf .cpyg spadCopy true 0)) (copyOf .cpyg spadCopy true 0) 15 = true ∧
    (getEng (getGang (copying (copyOf .cpyg spadCopy true 0)) 0) 15).q0 = [3] := by decide +kernel

/-! Witnesses: device memory and errors. -/

theorem witness_home_access : (31 : Nat) < 32 ∧ 31 + 1 ≤ 32 ∧ (slRead (at0 id) 31 5 0 0 true).2.1 = false ∧
    (∀ q, q ∈ lineSectors (5 / 8) → slGet (at0 id) q 31 = none) := by decide +kernel
/-- A read, and a write of an STS, of gang 0 not yet performed. -/
def memState : State :=
  let s := at0 (fun G => { G with txns := [{ ldsTxn with accs := [accAt .read false] }, { stsTxn with accs := [{ accAt (.write 7) false with pa := 0x300000 }] }] })
  { s with left := [⟨0, 0, 0, 0, 5, 0, [], 0, accAt (.amo .add 1) false⟩], sl := [(slKey 0x2000 3, ⟨false, 0, 5, false, 0⟩)] }
theorem witness_home_events :
    findTxn (getGang memState 0) 1 = some { ldsTxn with accs := [accAt .read false] } ∧ accReady memState 0 { ldsTxn with accs := [accAt .read false] } 0 = true ∧
    storeClass ldsTxn.kind = false ∧ findTxn (getGang memState 0) 3 = some { stsTxn with accs := [{ accAt (.write 7) false with pa := 0x300000 }] } ∧
    accReady memState 0 { stsTxn with accs := [{ accAt (.write 7) false with pa := 0x300000 }] } 0 = true ∧ leftReady memState 0 = true ∧
    isWindow 0x200000 = false ∧ populated memState 0x200000 = true := by decide +kernel
theorem witness_lines : linePresent memState 0x400 3 = true ∧ (∃ slice, slice < 20 ∧
    replicaReady { memState with sl := [(slKey 0x2000 (homeSlice memState (256 * 0x400)), ⟨false, 0, 5, false, 1⟩)],
                                 readers := (List.range 20).map (fun d => (0x400, d)) } slice 0x400 = true) := by decide +kernel
/-- A set with room, a line that is there, and a set whose 16 ways other lines hold. -/
def fullSet : State := { at0 id with sl := (List.range 16).map (fun n => (slKey (8 * 4096 * 4096 * (n + 1)) 3, ⟨false, 0, 5, false, 0⟩)) }
theorem witness_home_frame : (setLines (at0 id) 3 0).length < slWays (at0 id) 3 (homeBank 0) ∧ linePresent memState 0x400 3 = true ∧
    (∀ q, q ∈ lineSectors 0 → slGet fullSet q 3 = none) ∧ (setLines fullSet 3 0).filter (· != 0) ≠ [] := by decide +kernel
/-- The module with its control cores started. -/
def coresUp : State := { at0 id with mgmt := { (at0 id).mgmt with coresEdies := 15 } }
theorem witness_cores : anyCore coresUp = true ∧ coreRuns coresUp 63 = true := by decide +kernel
/-- An aperture load of three lanes, two of them in one sector. -/
def laneTxn : Txn := ⟨4, .A, .apLoad (.reg 1) 0 0, [{ accAt .read false with len := 4 }, { accAt .read false with len := 4, pa := 0x200004, lane := 1 },
  { accAt .read false with len := 4, pa := 0x200020, lane := 2 }], some 0, 0, [], 0, 0, 1, 6⟩
theorem witness_with_access : withAcc { ldsTxn with accs := [accAt .read false] } 0 (accAt .read false) = [0] ∧
    withAcc laneTxn 0 { accAt .read false with len := 4 } = [0, 1] ∧
    accReady (at0 (fun G => { G with txns := [laneTxn] })) 0 laneTxn 0 = true := by decide +kernel
theorem witness_sites : siteThere (at0 id) (.near 0 0) = true ∧ siteThere (at0 id) (.near 1 0) = false ∧
    (∃ e, e < 4 ∧ siteThere (at0 id) (.far e 0 (farBase / 32)) = true) := by decide +kernel
theorem witness_links : linkThere 0 = true ∧ linkThere 66 = true ∧ linkThere 67 = true ∧ linkThere 78 = true ∧ linkThere 79 = false ∧
    (at0 id).mgmt.side = 2 := by decide +kernel
theorem witness_unit_window : 3 ≤ windowCount { State.reset with units := [((gangUnit 0).site * 2 ^ 24 + (gangUnit 0).uclass * 2 ^ 16 + (gangUnit 0).uidx,
    ⟨[0, 0, 0], false, []⟩)] } (gangUnit 0) := by decide +kernel

/-! Witnesses: gangs, Thyme and Barista. -/

theorem witness_freezes : ∀ n, n ∈ [0, 1] → (getGang (at0 (fun G => { G with frozen := 1, freezes := n })) 0).frozen = 1 ∧
    (getGang (at0 (fun G => { G with frozen := 1, freezes := n })) 0).freezes = n := by decide +kernel
def aCause : Cause := ⟨0x0F, 0, 0x100000, 1, 0, 0, 4, true, .A, none⟩
theorem witness_gang_stops :
    deferredReady (getGang (at0 (fun G => { G with defCause := some aCause })) 0) = true ∧
    captureReady (at0 (fun G => { G with run := .stopped .preempt })) 0 (fun r => r == .preempt || r == .halt) = true ∧
    captureReady (at0 (fun G => { G with run := .stopped .trap, cause := some aCause })) 0 (· == .trap) = true ∧
    captureReady (at0 (fun G => { G with run := .stopped .partner })) 0 (· == .partner) = true ∧
    captureReady (at0 (fun G => { G with run := .stopped .switch })) 0 (· == .switch) = true := by decide +kernel
/-- Gang 0 stopped by a trap, with values in s5, s63, lc3 and v2 of engine 15; it is not the lower gang of its team. -/
def trapState : State :=
  at0 (fun G => setEng { G with run := .stopped .trap, cause := some aCause, s := [(5, 7), (63, 8)], lc := [(3, 9)] } 15 { getEng G 15 with v := [(2, 6)] })
/-- The fields of its image that are not 0. -/
def imageFields : List Field := (gangFields trapState 0 .trap 0 0).filter (fun f => f.2.2 != 0)
theorem witness_image : imageFields.Pairwise (fun x y => x.1 + x.2.1 ≤ y.1 ∨ y.1 + y.2.1 ≤ x.1) ∧
    ∀ f, f ∈ imageFields → f.2.2 < 2 ^ (8 * f.2.1) ∧ f.1 + f.2.1 ≤ 0x60000 := by decide +kernel
theorem witness_trap_capture : captureReady trapState 0 (· == .trap) = true ∧ (getGang trapState 0).team = some 0 ∧
    getTeam trapState 0 = some placedTeam ∧ (getGang trapState 0).txns = [] ∧ trapState.priv = [] ∧
    savePa trapState 0 placedTeam.slot % 2 ^ 16 = 0 ∧ (∀ x, x ∈ (getGang trapState 0).s → x.1 < 64) ∧
    (∀ x, x ∈ (getGang trapState 0).lc → x.1 < 4) ∧ ((getGang trapState 0).s.map (·.1)).Nodup := by decide +kernel
/-- An area that nothing has written reads as zeros. -/
theorem area_of_zeros (i : Nat) : areaByte trapState (savePa trapState 0 placedTeam.slot + i) = 0 := by
  have low : ∀ c, c ∈ trapState.mem → c.1 < 0x400000 := by decide +kernel
  have pa : savePa trapState 0 placedTeam.slot = 0x400000 := by decide +kernel
  have none : spFind trapState.mem (savePa trapState 0 placedTeam.slot + i) = none := by
    rw [spFind, List.lookup_eq_none_iff, pa]
    exact fun c h => by have := low c h; simp; omega
  show spGet 0 trapState.mem _ = 0
  rw [spGet, none]; rfl
theorem rd_of_zeros (off len : Nat) : rd ⟨trapState, savePa trapState 0 placedTeam.slot⟩ off len = 0 := by
  have zeros : ∀ n, leNat (List.replicate n (0 : Byte)) = 0 := fun n => by
    induction n with
    | zero => rfl
    | succ n ih => simp [List.replicate_succ, leNat]; exact ih
  have h : (fun i => areaByte trapState (savePa trapState 0 placedTeam.slot + off + i)) = fun _ => (0 : Byte) :=
    funext fun i => by rw [Nat.add_assoc]; exact area_of_zeros _
  show leNat ((List.range len).map fun i => areaByte trapState (savePa trapState 0 placedTeam.slot + off + i)) = 0
  rw [h, List.map_const', List.length_range, zeros]
theorem witness_resume : ∀ upper, areaRsv ⟨trapState, savePa trapState 0 placedTeam.slot⟩ upper = false := by
  simp [areaRsv, rd_of_zeros, nbits]
theorem witness_resume_sound : areaBad trapState (savePa trapState 0 placedTeam.slot) 0x60000 = false := by
  have h : ∀ i, slGet trapState i = fun _ => none := fun _ => rfl
  have m : trapState.memBad = [] := by rfl
  simp [areaBad, h, m]
/-- Gangs 0 and 1 are a team of two, and gang 1 has met a trap. -/
def partners : State :=
  let s := modTeam (at0 id) 0 (fun T => { T with gangs := [0, 1] })
  modGang s 1 (fun _ => { getGang s 0 with cause := some aCause })
theorem witness_partner : captureReady partners 0 (· == .partner) = false ∧ partnerAsks partners 0 = true := by decide +kernel
/-- Path B asks for the spare of its pair, or has it handed over. -/
def spareState : State :=
  let s := at0 (fun G => { G with spareReq := true, b := { G.a with mask := 1 } })
  { s with tick := 1 }
theorem witness_spare : spareWinner spareState 0 = some 0 ∧ handoverDue (getGang (at0 (fun G => { G with handoverEnd := some 0 })) 0) = true := by decide +kernel
theorem witness_resolve_and_finish :
    resolveReady (getGang (at0 (fun G => { G with gc := 1, a := { G.a with resolveAt := some 0 } })) 0) .A = true ∧
    finishReady (getGang (at0 (fun G => { G with run := .finishing })) 0) = true := by decide +kernel
theorem witness_commands_to_gangs : (getGang (at0 id) (gangAt 0 0)).run = .run ∧ (getGang (at0 id) (gangAt 0 0)).stopReq = none ∧
    (getGang (at0 (fun G => { G with run := .halted })) (gangAt 0 960)).run = .halted := by decide +kernel
theorem witness_watchdog : watchdogReady (devSet (at0 (fun G => { G with gc := 65536, idleCount := 65535 })) (dieWin 0 + 0x11008) 16) 0 = true ∧
    (getGang (devSet (at0 (fun G => { G with gc := 65536, idleCount := 65535 })) (dieWin 0 + 0x11008) 16) 0).cause = none := by decide +kernel
/-- A round, a broadcast and a signal whose time has come, and a barrier whose phase is due. -/
def dueState : State :=
  { modTeam (at0 (fun G => { G with a := { G.a with hold := .barrier, barOpen := some (3, 5), barResume := some 0 } })) 0 (fun T => setBar T 3 ⟨1, 1, 5, true, []⟩) with
    rounds := [⟨0, 63, 0, [⟨0, 0, some .A, none⟩], [(0, 0)], [(0, 0)], some 0, 0⟩], sbcs := [⟨0, 63, 0, 7, 0, 0⟩], signals := [⟨[0], 0⟩], sub := 3 }
theorem witness_thyme_events : (roundDue dueState 0 63 0).isSome = true ∧ (sbcDue dueState 0 63 0).isSome = true ∧ (signalDue dueState).isSome = true ∧
    (teamBar dueState 0 3).due = true ∧ (getTeam dueState 0).map (·.gangs) = some [0] ∧ (getGang dueState 0).team = some 0 ∧ (getGang dueState 0).run = .run ∧
    (getGang dueState 0).frozen = 0 ∧ waiterDue dueState 3 (getPath (getGang dueState 0) .A) = true ∧ dueState.sub = 3 := by decide +kernel
/-- A GRID of one team at 0x100000 with a footprint of 4 KiB, and an OPER. -/
def gridBits : Nat := 1 + 0x100000 * 2 ^ 128 + 4096 * 2 ^ 192 + 1 * 2 ^ 352
def recOf (bits : Nat) : Rec := ⟨0, BitVec.ofNat 512 bits, .ready, 0, 0, 0, 0, 0, 0, [], [], 0⟩
/-- Bank 0 of G-die 0 belongs to the context, and holds what is given. -/
def bankState (f : Bank → Bank) : State :=
  { modBank (devSet (withBanks (at0 id)) (dieWin 0 + 0x40) (2 ^ 12)) 0 0 f with tick := 1 }
theorem witness_records : ∀ x, x ∈ [(gridBits, 0), (gridBits + 2 ^ 8, 0), (0, 1), (gridBits + 2 ^ 20, 2), (gridBits + 2 ^ 128, 5)] →
    nextArrival (bankState (fun B => { B with arr := [⟨BitVec.ofNat 512 x.1, none, none, []⟩] })) 0 0 = some (0, ⟨BitVec.ofNat 512 x.1, none, none, []⟩) ∧
    rejectCode (bankState (fun B => { B with arr := [⟨BitVec.ofNat 512 x.1, none, none, []⟩] })) 0 0 0 (BitVec.ofNat 512 x.1) = x.2 := by decide +kernel
/-- A bank without an owner rejects. -/
def ownerless : State := modBank (at0 id) 0 3 (fun B => { B with arr := [⟨BitVec.ofNat 512 gridBits, none, none, []⟩] })
theorem witness_bank_without_owner : bankOwner (devSet ownerless (dieWin 0 + 0x3040) 0) 0 3 = none ∧
    nextArrival (devSet ownerless (dieWin 0 + 0x3040) 0) 0 3 = some (0, ⟨BitVec.ofNat 512 gridBits, none, none, []⟩) ∧
    rejectCode (devSet ownerless (dieWin 0 + 0x3040) 0) 0 3 0 (BitVec.ofNat 512 gridBits) ≠ 0 := by decide +kernel
theorem witness_ring_and_tags : overflowReady (bankState (fun B => { B with ring := [recOf gridBits] })) 0 0 = true ∧
    oldestRec (bankAt (bankState (fun B => { B with ring := [recOf gridBits] })) 0 0).ring = some (recOf gridBits) ∧
    ringBad (bankState (fun B => { B with ring := [recOf gridBits] })) 0 0 (recOf gridBits) = false ∧
    ringBad { bankState (fun B => { B with ring := [recOf gridBits] }) with memBad := [ringSlot (bankState (fun B => { B with ring := [recOf gridBits] })) 0 0 (recOf gridBits).place / 32] }
      0 0 (recOf gridBits) = true ∧
    ((bankAt (bankState (fun B => { B with decs := [⟨7, 1, 0, none, some 3⟩] })) 0 0).decs.find? (fun x => x.tag == 7 && x.amount == 1
      && decReady (bankState (fun B => { B with decs := [⟨7, 1, 0, none, some 3⟩] })) x)) = some ⟨7, 1, 0, none, some 3⟩ := by decide +kernel
/-- The GRID pinned to gang 5. -/
def pinnedRec : Rec := { recOf (gridBits + 2 ^ 8) with pins := [5] }
def pinnedState : State := bankState (fun B => { B with recs := [pinnedRec] })
theorem witness_dispatch : (getDie pinnedState 0).lastSel + 4 ≤ nowCyc pinnedState ∧ bestRec 1 (dispatchList pinnedState 0) = some (0, pinnedRec) ∧
    (grantRecord pinnedState 0 0 pinnedRec).isSome = true := by decide +kernel
def admittedState : State := { modTeam (at0 (fun G => { G with team := none, run := .idle })) 0 (fun T => { T with run := .admitted }) with tick := 5 }
theorem witness_team_start : getTeam admittedState 0 = some { placedTeam with run := .admitted } ∧ startReadyTeam admittedState { placedTeam with run := .admitted } = true ∧
    (∀ g, g ∈ ({ placedTeam with run := .admitted } : Team).gangs → gangIdle admittedState g = true ∧ (getGang admittedState g).incoming = none) ∧
    (readArgs placedTeam.die placedTeam.ctx (placedTeam.gangs.flatMap (fun g => (argAddrs { placedTeam with run := .admitted }
      (gangIndex { placedTeam with run := .admitted } g)).2)) admittedState).1.absent = [] ∧
    (readArgs placedTeam.die placedTeam.ctx (placedTeam.gangs.flatMap (fun g => (argAddrs { placedTeam with run := .admitted }
      (gangIndex { placedTeam with run := .admitted } g)).2)) admittedState).1.ends = none := by decide +kernel
/-- The second team of `twoTeams` where the gang is idle, where the first has stalled on a wait, and where its quantum is over. -/
def idleTwo : State := modGang twoTeams 0 (fun G => { G with team := none, run := .idle })
def stalledTwo : State := modGang twoTeams 0 (fun G => { G with gc := 65, a := { G.a with hold := .wait } })
theorem witness_switches : captureReady idleTwo 0 (· == .switch) = false ∧ gangIdle idleTwo 0 = true ∧ (getGang idleTwo 0).frozen = 0 ∧ idleChoice idleTwo 0 = some 1 ∧
    (switchChoice stalledTwo 0 (fun U _ => stalledTeam stalledTwo U)).isSome = true ∧
    (switchChoice { twoTeams with tick := 65536 } 0 (quantumDue { twoTeams with tick := 65536 })).isSome = true := by decide +kernel
/-- An OPER waits on virtual die 0, and virtual die 1 is two hops away. -/
def migrateState (die : Nat) : State :=
  { modDie (devSet (bankState (fun B => { B with recs := [recOf (2 + 0x100000 * 2 ^ 128 + 4096 * 2 ^ 192)] })) (ctxBlock 0 + 0x110)
      (BitVec.ofNat 64 (1 + die * 2 ^ 8 + 2 ^ 48))) die (fun D => { D with enabled := 850 }) with tick := 64 }
theorem witness_migration : ∃ die, die < 20 ∧ migrateReady (migrateState die) 0 die = true ∧
    (migrant (migrateState die) 0 die).isSome = true ∧ roomBank (migrateState die) 0 die = some 0 ∧ 0 ≠ die ∧
    (bankAt (migrateState die) 0 0).ring = [] := by decide +kernel
/-- The escape wait is below 4,096. -/
theorem witness_fabric : escapeReady { at0 id with pkts := [⟨5, false, 0, 5, none, 4096, false, 0, 0⟩] } 5 = true := by
  have h : escapeWait < 4096 := by unfold escapeWait; split <;> omega
  simp [escapeReady, h]
theorem witness_ageing : (∀ x, x ∈ (at0 id).gangs → switchChoice (ageAll (at0 id)) x.1 (prioDue (ageAll (at0 id))) = none) ∧
    refillReady { at0 id with budget := [(0, 1)] } = true := by decide +kernel

/-! Witnesses: contexts and the management controller. -/

/-- Context 0 is free, its descriptor good, or without a die. -/
def freshContext (valid : Bool) : State :=
  let s := devSet (modDie { State.reset with dev := [] } 0 (fun D => { D with enabled := 850 })) (ctxBlock 0 + 32) (10 * 2 ^ 24 + 6 * 2 ^ 32 + 64 * 2 ^ 48)
  if valid then devSet s (ctxBlock 0 + 0x100) 1 else s
theorem witness_activation : ctxState (freshContext true) 0 = 0 ∧ activationOk (freshContext true) 0 = true := by
  have no : ∀ h, h ∈ List.range 64 → chGiven (freshContext true) 0 h = false := by decide +kernel
  have ch : channelsFree (freshContext true) 0 = true :=
    List.all_eq_true.mpr fun _ _ => List.all_eq_true.mpr fun h hh => by rw [no h hh]; rfl
  refine ⟨by decide +kernel, ?_⟩
  unfold activationOk
  rw [ch]
  decide +kernel
theorem witness_activation_refused : ctxState (freshContext false) 0 = 0 ∧ activationOk (freshContext false) 0 = false ∧ ctxState (at0 id) 0 = 1 ∧
    ctxState (at0 id) 4095 = 0 := by decide +kernel
theorem witness_unmap : unmapOf (at0 id) 0 = none ∧ unmapBad 0xFFF0000000000000 = false ∧
    unmapOf { at0 id with unmaps := [⟨0, 0, 16, 1, []⟩], tick := 1024 } 0 = some ⟨0, 0, 16, 1, []⟩ ∧
    unmapReady { at0 id with unmaps := [⟨0, 0, 16, 1, []⟩], tick := 1024 } 0 = true := by decide +kernel
theorem witness_faults : fbState (devSet (at0 id) (fbAddr 19 31) 1) 19 31 = 1 ∧ (getDie (devSet (at0 id) (fbAddr 19 31) 1) 19).waits = [] := by decide +kernel
/-- Inbound window 0 gives module 0 read and write of one page at 0x300000. -/
def windowState : State := devSet (devSet (at0 id) iwinBase (7 + 2 ^ 48)) (iwinBase + 8) (0x30 * 2 ^ 16)
def aPiece (op : PieceOp) (off : BitVec 48) : RemotePiece := ⟨0, 0, off, 32, op, List.replicate 32 7⟩
theorem witness_pieces : (∀ op, op ∈ [PieceOp.read, .write] → pieceAllowed windowState (aPiece op 0xFFE0) = true) ∧
    pieceAllowed windowState (aPiece .write 0xFFE1) = false ∧
    dbits (devGet windowState (iwinBase + 8)) 47 16 * 2 ^ 16 + (aPiece .write 0xFFE0).off.toNat = 0x30FFE0 ∧ 0x30FFE0 % 32 + (aPiece .write 0xFFE0).len ≤ 32 ∧
    isWindow 0x30FFE0 = false ∧ populated windowState 0x30FFE0 = true := by decide +kernel
theorem witness_device_register : (0xF00030000000 : BitVec 48).toNat % 8 = 0 ∧ devBase + 0x30000000 ≤ (0xF00030000000 : BitVec 48).toNat ∧
    (0xF000300001F8 : BitVec 48).toNat < devBase + 0x30000200 := by decide +kernel
theorem witness_management : mgmtIdle State.reset = true ∧ mgmtIdle (at0 id) = false ∧ (at0 id).mgmt.side = 2 ∧
    ({ State.reset with mgmt := { Mgmt.off with retry := true } } : State).mgmt.retry = true ∧
    inStep { State.reset with mgmt := { Mgmt.off with side := 1, step := 4 } } = true ∧
    ({ at0 id with mgmt := { (at0 id).mgmt with side := 3 } } : State).mgmt.grace ≤ (at0 id).tick ∧ (at0 id).mgmt.restart = none ∧
    dbits (devGet State.reset (mgmtReg 0x20)) 15 0 < 4201 := by decide +kernel

/-! Witnesses: frames, the step and its invariant. -/

theorem witness_frames : registerForm (.lih 63 0) = true ∧ isNext (exec (.lih 63 0) (at0 id)) = true ∧ storeForm (.stv (.reg 1) (.reg 1) false 0) = true ∧
    slotCheck (.stv (.reg 1) (.reg 1) false 0) lwState = .ok ∧ isNext (exec (.stv (.reg 1) (.reg 1) false 0) lwState) = true := by decide +kernel
theorem witness_encode : wf (.pchk .bf16 15 14 0) = true ∧ (encode (.pchk .bf16 15 14 0)).isSome = true := by decide +kernel
/-- The placed state has no step due: path A has the chance, and its bytes are a bundle of one REL. -/
def relState : State := State.reset.withFetchWord 32 0x8000000D
theorem witness_step : dueEvents relState = [] ∧ relState.inputs = [] ∧ relState.served = true ∧ nextPath relState = some (0, .A) ∧
    chance (beginTry 0 .A relState) 0 .A = .bundle ⟨0, 0, none, none, none, none, none, none, none, none, some (.rel .package)⟩ 8 ∧
    encodingTrap ⟨0, 0, none, none, none, none, none, none, none, none, some (.rel .package)⟩
      (setCur (earlyWrites (beginTry 0 .A relState) 0) 0 .A ⟨0, 0, none, none, none, none, none, none, none, none, some (.rel .package)⟩ 8) = none ∧
    plan ⟨0, 0, none, none, none, none, none, none, none, none, some (.rel .package)⟩
      (setCur (earlyWrites (beginTry 0 .A relState) 0) 0 .A ⟨0, 0, none, none, none, none, none, none, none, none, some (.rel .package)⟩ 8) = .go := by decide +kernel
theorem witness_invariant : Inv relState ∧ isNext (step relState) = true :=
  ⟨⟨by unfold MemOk; decide +kernel, fun d => by show spGet 0 [] _ = 0; rfl, by decide +kernel⟩, by decide +kernel⟩
theorem witness_headers : 60 ≤ (List.replicate 64 (0xFF : Byte)).length ∧
    (BitVec.ofNat 32 (leNat ((List.replicate 64 (0xFF : Byte)).take 4))).extractLsb' 23 9 ≠ 0 ∧
    (BitVec.ofNat 32 (leNat (([0, 0, 0, 0, 1] ++ List.replicate 59 (0 : Byte)).take 4))).extractLsb' 23 9 = 0 ∧
    (BitVec.ofNat 32 (leNat (([0, 0, 0, 0, 1] ++ List.replicate 59 (0 : Byte)).take 4))).setWidth 9 = (0 : BitVec 9) ∧
    leNat ((([0, 0, 0, 0, 1] ++ List.replicate 59 (0 : Byte)).drop 4).take 4) ≠ 0 := by decide +kernel
theorem witness_unassigned : ∀ x, x ∈ [
    (SlotKind.s, false, 0), (.s, true, 0x64), (.x, false, 0x0C), (.x, false, 0x15), (.v, false, 0x30), (.v, true, 0x2F), (.v, true, 0x35), (.t, false, 0x09),
    (.t, false, 0x22), (.l, false, 0x08), (.w, false, 0x06), (.c, false, 0x0A), (.y, false, 0x10), (.y, true, 0xFF)] → unassignedIn x.1 x.2.1 x.2.2 = true := by
  decide +kernel

/-! Witnesses: results of operations at their ends. -/

/-- The lower gang of the placed team, a member of its round, with a path A that runs, and frozen; and the same team saved. -/
def memberState : State := { thymeState with
  rounds := [⟨0, 63, 0, [⟨0, 0, some .A, none⟩], [(0, 0)], [(0, 0)], some 0, 0⟩], sbcs := [⟨0, 63, 0, 7, 0, 0⟩, ⟨0, 63, 0, 8, 1, 0⟩] }
theorem witness_thyme_members : (∃ r, roundDue memberState 0 63 0 = some r ∧ r.members.Nodup ∧ (0, 0) ∈ r.members) ∧
    stillMember memberState 0 (chGrid memberState 0 63) (0, 0) = true ∧ (getGang memberState 0).team = some 0 ∧ landsNow (getGang memberState 0) = true ∧
    landsNow (getGang (modGang memberState 0 (fun G => { G with frozen := 5 })) 0) = false ∧ hearers memberState 0 63 0 = [(0, 0)] ∧
    (sbcDue memberState 0 63 0).map (·.v) = some 7 := by decide +kernel
/-- Its team switched out: the gang holds no team. -/
def savedMember : State := modTeam (modGang memberState 0 (fun G => { G with team := none, run := .idle })) 0 (fun T =>
  { T with run := .parked, saved := [(0, getGang memberState 0)] })
theorem witness_thyme_saved : (getGang savedMember 0).team ≠ some 0 ∧ stillMember savedMember 0 (chGrid savedMember 0 63) (0, 0) = true ∧
    ((getTeam savedMember 0).bind (fun T => spFind T.saved 0)).isSome = true ∧ (getGang dueState 0).heldThyme = [] := by decide +kernel
theorem witness_signals : (∃ x, signalDue dueState = some x ∧ 0 ∈ x.teams) ∧ (getTeam dueState 0).map (·.gangs) = some [0] ∧
    (getGang dueState 0).team = some 0 ∧ (getGang dueState 0).stopReq = none ∧ (getGang dueState 0).run = .run ∧
    (getGang (modGang dueState 0 (fun G => { G with stopReq := some .halt })) 0).stopReq = some .halt ∧
    (getGang (modGang dueState 0 (fun G => { G with run := .halted })) 0).run = .halted := by decide +kernel
/-- A round open on channel 63, of another gang's arrival. -/
def openState : State := { thymeState with rounds := [⟨0, 63, 0, [⟨1, 1, some .A, none⟩], [], [], none, 5⟩] }
theorem witness_arrivals :
    (let v := forceLoads thymeState.cur.gang thymeState.cur.path (doRelease .die thymeState)
     (gangTeam v thymeState.cur.gang).isSome = true ∧ v.cur = thymeState.cur ∧ curTeamNo v = curTeamNo thymeState ∧ openRound v 0 63 0 = none) ∧
    (let v := forceLoads openState.cur.gang openState.cur.path (doRelease .die openState)
     (gangTeam v openState.cur.gang).isSome = true ∧ v.cur = openState.cur ∧ curTeamNo v = curTeamNo openState ∧
      (openRound v 0 63 0).map (·.num) = some 5 ∧ ∀ q, q ∈ v.rounds → q.due = none) := by decide +kernel

/-- T operations that end: with what they computed at their begin, and without; a drained slot; and x results that land. -/
def doneOp (i : Instr) (ws : List TWr) : State := opOf i (fun o => { o with begun := true, done := some 100, out := some ws })
theorem witness_tensor_results :
    (∀ x, x ∈ [(Instr.tzero (.m 0), [TWr.mrow 0 0 0]), (.ard .occ 4, [.x 4 7]), (.adrn .tup .f32 0 3 0, [.spad 0x400 [1, 2], .vacate [3], .x 0 1]),
        (.aclr, [.clearKeyed]), (.awr (.org 4), [.origin 5])] → endReady (doneOp x.1 x.2) 0 0 0 = true ∧
      (findOp (getGang (doneOp x.1 x.2) 0) 0 0).map (fun o => (o.out, o.hits.isEmpty)) = some (some x.2, true) ∧
      (getHw (getGang (doneOp x.1 x.2) 0) 0).accBad = [] ∧ (getHw (getGang (doneOp x.1 x.2) 0) 0).spadBad = [] ∧
      (getHw (getGang (doneOp x.1 x.2) 0) 0).slots = []) ∧
    endReady (opOf (.tzero (.m 0)) (fun o => { o with begun := true, done := some 100 })) 0 0 0 = true ∧
    (findOp (getGang (opOf (.tzero (.m 0)) (fun o => { o with begun := true, done := some 100 })) 0) 0 0).map (fun o =>
      (o.out, o.hits.isEmpty, (opResult (viewOf (opOf (.tzero (.m 0)) (fun o => { o with begun := true, done := some 100 })) 0 o (Config.freeNat
        (opOf (.tzero (.m 0)) (fun o => { o with begun := true, done := some 100 })).free))).2))
      = some (none, true, false) ∧
    ((getGang (doneOp (.ard .occ 4) [.x 4 7]) 0).tops.filter (fun q => q.begun && pushesFit (getGang (doneOp (.ard .occ 4) [.x 4 7]) 0) q
      && q.done == some (getGang (doneOp (.ard .occ 4) [.x 4 7]) 0).gc)).map (·.out) = [some [.x 4 7]] ∧
    beginReady (opOf (.pred .f32 0 6) id) 0 0 0 = true ∧ (findOp (getGang (opOf (.pred .f32 0 6) id) 0) 0 0).map (fun o =>
      (tClass o.ins, ((sageResult (viewOf (opOf (.pred .f32 0 6) id) 0 o (Config.freeNat (opOf (.pred .f32 0 6) id).free)) 100).run.map (·.bad))))
        = some (.pred, some false) := by decide +kernel

/-- LDS with its line in the L1 and without, STS beside that line, and an AMO: where the access goes. -/
def l1State : State := modGang (s45 0x200000 7) 0 (fun G => { G with l1 := [⟨0x200000 / 64, 0, 5⟩] })
theorem witness_sequencer_access : (accessTr l1State (seqVa l1State 4 0) 1).1.map (fun x => (x.1, decide (x.2.2.1 < 2))) = some (0x200000, true) ∧
    acquirePending l1State = false ∧ atomicPending l1State 0x200000 = false ∧ (l1Find (curGang l1State) 0x200000).isSome = true ∧
    (l1Find (curGang (s45 0x200000 7)) 0x200000).isSome = false ∧ (accessTr (s45 0x200000 7) (seqVa (s45 0x200000 7) 4 0) 1).1.isSome = true ∧
    (accessTr l1State (seqVa l1State 4 0) 2).1.isSome = true ∧ 0x200000 % 64 + 8 ≤ 64 ∧ (accessTr l1State 0x200000 3).1.isSome = true := by
  decide +kernel
/-- An AMO and a CAS of gang 0 that may be performed: the word at their address reads 0. -/
def rmwState (op : AccOp) : State := at0 (fun G => { G with txns := [{ rmwTxn with accs := [{ accAt op false with len := 8 }] }] })
theorem witness_rmw_at_home : ∀ op, op ∈ [AccOp.amo .smin 1, .cas 7 0, .cas 7 1] →
    findTxn (getGang (rmwState op) 0) 2 = some { rmwTxn with accs := [{ accAt op false with len := 8 }] } ∧
    accReady (rmwState op) 0 { rmwTxn with accs := [{ accAt op false with len := 8 }] } 0 = true ∧
    (let u := publishSector (spendFlit 0x200000 0 (rmwState op)) (0x200000 / 32) (homeSlice (rmwState op) 0x200000)
     (homeReadAt u none 0x200000 8 0 0 true).1 = 0 ∧ (homeReadAt u none 0x200000 8 0 0 true).2.1 = false) := by decide +kernel
theorem witness_aperture : (∃ e, e ∈ actives lwState ∧ engAperture lwState (.ldv (.reg 1) (.reg 3) true 0) e = true) ∧
    (∃ e, e ∈ actives lwState ∧ engAperture lwState (.stv (.reg 1) (.reg 3) true 0) e = true) ∧
    (∀ e, e ∈ actives lwState → ∀ x, x ∈ apAddrs lwState e (.ldv (.reg 1) (.reg 3) true 0) → accessVerdict lwState (apVa lwState x.2) 4 1 = .ok) ∧
    (∀ e, e ∈ actives lwState → ∀ x, x ∈ apAddrs lwState e (.stv (.reg 1) (.reg 3) true 0) → accessVerdict lwState (apVa lwState x.2) 4 2 = .ok) ∧
    apTxn.accs.all (·.done) = true ∧ apTxn.accs.any (·.bad) = false ∧ apTxn.due = some 0 ∧ (getGang retState 0).gc = 0 ∧
    (laneTxn.accs.map (fun a => (a.eng, a.lane))).Nodup ∧ (∀ a, a ∈ laneTxn.accs → a.lane < 16) := by decide +kernel
/-- A store's words that land after its path's release, and before. -/
theorem witness_store_lands : (if PathSlot.A = .A then (getGang retState 0).relGc.1 else (getGang retState 0).relGc.2) ≤ 0 ∧
    (getGang (at0 (fun G => { G with relGc := (9, 0) })) 0).relGc.1 = 9 := by decide +kernel

/-- Pieces: from device memory to a scratchpad and back, within device memory, and a CFIL. -/
def storeCopy : Nat := 2 ^ 60 + 0x200000 * 2 ^ 64 + 64 * 2 ^ 128 + 1 * 2 ^ 160
theorem witness_copy_sides :
    (∀ x, x ∈ [(CopyOp.cpy, memCopy), (.cpy, spadCopy), (.cpy, storeCopy), (.cfil, memCopy)] →
      (movePiece (copying (copyOf x.1 x.2 true 0)) 0 (copyTeam (copyOf x.1 x.2 true 0)) (copyOf x.1 x.2 true 0) 0
        (pieceLen (copyOf x.1 x.2 true 0) 0)).1.isSome = true) ∧
    srcMem (copyOf .cpy storeCopy true 0) = false ∧ (srcSpad (copying (copyOf .cpy storeCopy true 0)) (copyTeam (copyOf .cpy storeCopy true 0))
      (copyOf .cpy storeCopy true 0)).map (fun x => (x.1, x.2.1)) = some (0, 0) ∧ (getGang (copying (copyOf .cpy storeCopy true 0)) 0).oldWords = [] ∧
    srcMem (copyOf .cpy memCopy true 0) = true ∧
    (match (pieceTr (copying (copyOf .cpy memCopy true 0)) 0 0 0x200000 1).1 with | .here pa _ _ => pa == 0x200000 | _ => false) = true ∧
    (dstSpads (copying (copyOf .cpy spadCopy true 0)) (copyTeam (copyOf .cpy spadCopy true 0)) (copyOf .cpy spadCopy true 0) 0).map
      (fun x => (x.1, x.2.1)) = [(0, 0)] ∧
    (getHw (getGang (copying (copyOf .cpy spadCopy true 0)) 0) 0).spadBad = [] ∧ pieceLen (copyOf .cpy memCopy true 0) 0 = 32 ∧
    pieceLen (copyOf .cpy memCopy true 48) 48 = 16 ∧ (copying (copyOf .cpy memCopy true 0)).priv = [] ∧
    (slRead (copying (copyOf .cpy memCopy true 0)) (homeSlice (copying (copyOf .cpy memCopy true 0)) 0x300000) (0x300000 / 32) 0 0 false).2.1 = false ∧
    (privOf { at0 id with priv := [⟨0x300000 / 32, 0, 0, 0, 0, 0, false, false, [7]⟩] } (0x300000 / 32) 0 0).isSome = true := by decide +kernel

/-- Entry 31 of die 0 holds a fetch of context 0's gang 0 on path A; another waits for an entry. -/
def faultImg : BitVec 256 := BitVec.ofNat 256 (1 + 3 * 2 ^ 148 + locator (at0 id) 0 0 0 * 2 ^ 160)
def faultState (ws : List FaultWait) : State := modDie (fbWrite (at0 id) 0 31 faultImg) 0 (fun D => { D with owners := [(31, teamKey placedTeam)], waits := ws })
theorem witness_fault_retry : fbState (faultState [⟨1 + 2 ^ 192, 5⟩]) 0 31 = 1 ∧
    fbFree (fbWrite (faultState [⟨1 + 2 ^ 192, 5⟩]) 0 31 0) 0 = some 0 ∧
    ((getDie (faultState [⟨1 + 2 ^ 192, 5⟩]) 0).waits.find? (fun w => fbCount (fbWrite (faultState [⟨1 + 2 ^ 192, 5⟩]) 0 31 0) 0 (imgCtx w.img) < 16))
      = some ⟨1 + 2 ^ 192, 5⟩ ∧
    pathFaulted (faultState []) 0 .A = true ∧ gangTeam (faultState []) 0 = some placedTeam ∧ placedTeam.ctx < 4096 ∧
    (∀ k, k < 32 → k ≠ 31 → fbState (faultState []) 0 k = 0) ∧ (getDie (faultState []) 0).waits = [] := by decide +kernel
theorem witness_split_pieces : (∀ op, op ∈ [PieceOp.read, .write] → pieceAllowed windowState (aPiece op 16) = true) ∧
    (let a := dbits (devGet windowState (iwinBase + 8)) 47 16 * 2 ^ 16 + 16
     isWindow a = false ∧ isWindow (a + 32) = false ∧ populated windowState a = true ∧ 32 - a % 32 < 32 ∧ 32 ≤ (32 - a % 32) + 32 ∧
     populated (homeReadAt windowState none a 16 0 0 false).2.2 (a + 16) = true ∧
     populated (homeWriteAt windowState none a 16 (leNat (List.replicate 16 7)) 0 0 false) (a + 16) = true) ∧
    (∀ op, op ∈ [PieceOp.flush, .drop] → pieceAllowed windowState ⟨0, 0, 0, 32, op, []⟩ = true) := by decide +kernel
theorem witness_register_places : devBase + 0x50001000 ≤ 2 ^ 48 ∧ (∀ x, x ∈ [0x28, 0x10000040, 0x10010000, 0x10011000, 0x20000020, 0x201F0020, 0x30000000,
      0x30010000, 0x40000008, 0x50000018] → (BitVec.ofNat 48 (devBase + x)).toNat = devBase + x) ∧ ctxState (freshContext true) 0 = 0 ∧
    ctxState (at0 id) 0 = 1 ∧ coreRuns coresUp 63 = true ∧ fbState (faultState []) 0 31 = 1 := by decide +kernel

/-! Single steps, with the values the manual's rules give. -/

/-- What an instruction of the S slot sends to its register, and in which gang cycle it lands. -/
def sent (i : Instr) (s : State) : List (Nat × Wr) :=
  match exec i s with
  | .next t => (curGang t).flight.map (fun f => (f.land, f.w))
  | .fault _ | .refused _ => []
/-- Lane i of the results of a V instruction in engine 3. -/
def laneOf (i : Instr) (s : State) (lane : Nat) : List Word :=
  (sent i s).flatMap (fun x => match x.2 with
    | .v _ es => es.filterMap (fun e => if e.1 = 3 then some (e.2.2.extractLsb' (32 * lane) 32) else none)
    | _ => [])
def causeOf (i : Instr) (s : State) : Option (BitVec 8) :=
  match exec i s with
  | .next t => (curGang t).cause.map (·.cause)
  | .fault _ | .refused _ => none
/-- v1 and v2 of every engine hold one word in each lane. -/
def v12 (a b : Word) : State :=
  at0 (fun G => (List.range 16).foldl (fun G e => setEng G e { getEng G e with v := [(1, lanes512 (fun _ => a)), (2, lanes512 (fun _ => b))] }) G)

theorem test_add_wraps : sent (.add 4 4 5) (s45 0xFFFFFFFFFFFFFFFF 1) = [(1, .s 4 0)] := by decide +kernel
theorem test_sar_takes_six_bits : sent (.sar 6 4 5) (s45 0x8000000000000000 65) = [(1, .s 6 0xC000000000000000)] := by decide +kernel
theorem test_min_signed_and_unsigned : sent (.min false 6 4 5) (s45 0xFFFFFFFFFFFFFFFF 1) = [(1, .s 6 0xFFFFFFFFFFFFFFFF)] ∧
    sent (.min true 6 4 5) (s45 0xFFFFFFFFFFFFFFFF 1) = [(1, .s 6 1)] := by decide +kernel
theorem test_mulh_signs : sent (.mulh false 6 4 5) (s45 0xFFFFFFFFFFFFFFFF 2) = [(3, .s 6 0xFFFFFFFFFFFFFFFF)] ∧
    sent (.mulh true 6 4 5) (s45 0xFFFFFFFFFFFFFFFF 2) = [(3, .s 6 1)] := by decide +kernel
theorem test_div_corners : sent (.div false 6 4 5) (s45 0xFFFFFFFFFFFFFFF9 2) = [(18, .s 6 0xFFFFFFFFFFFFFFFD)] ∧
    sent (.rem false 6 4 5) (s45 0xFFFFFFFFFFFFFFF9 2) = [(18, .s 6 0xFFFFFFFFFFFFFFFF)] ∧
    sent (.div true 6 4 5) (s45 7 0) = [(18, .s 6 0xFFFFFFFFFFFFFFFF)] ∧ sent (.rem true 6 4 5) (s45 7 0) = [(18, .s 6 7)] := by decide +kernel
theorem test_lih_keeps_the_low_half : sent (.lih 4 0xDEADBEEF) (s45 0x1122334455667788 0) = [(1, .s 4 0xDEADBEEF55667788)] := by decide +kernel
theorem test_addi_sign_extends : sent (.addi 4 4 0xFFFFFFF) (s45 0 0) = [(1, .s 4 0xFFFFFFFFFFFFFFFF)] := by decide +kernel
theorem test_clz_and_popc : sent (.clz 6 4) (s45 0 0) = [(1, .s 6 64)] ∧ sent (.popc 6 4) (s45 0xF0 0) = [(1, .s 6 4)] := by decide +kernel
theorem test_call_saves_the_next_bundle : sent (.call 4) (at0 id) = [(1, .lnk 0x10000A)] := by decide +kernel
theorem test_branch_back : (match exec (.br .ltu 5 4 0xFFFFFE) (s45 2 1) with
    | .next t => ((curPath t).pc, (curPath t).elig) | .fault _ | .refused _ => (0, 0)) = (0xFFFFC, 2) := by decide +kernel
theorem test_transfer_traps : causeOf (.jmpr 4) (s45 0x100001 0) = some 0x04 ∧ causeOf (.jmpr 4) (s45 0x10000000000000 0) = some 0x03 ∧
    causeOf .bkpt (at0 id) = some 0x0C ∧ causeOf (.trap 7) (at0 id) = some 0x0D := by decide +kernel
theorem test_votes : sent (.gcnt .lt 6 (.spec 2) (.reg 2)) (x12 5) = [(1, .s 6 5)] ∧ sent (.gmsk (.cond .ge (.spec 2) (.reg 2)) 6) (x12 5) = [(1, .s 6 0xFFE0)] ∧
    sent (.gall .geu 6 (.reg 2) (.spec 2)) (x12 15) = [(1, .s 6 1)] := by decide +kernel
theorem test_vaddf_one_and_one : laneOf (.vaddf (.reg 3) (.reg 1) (.spec 4) false .rne false 0) (v12 0x3F800000 0) 15 = [0x40000000] := by decide +kernel
theorem test_vmaxf_zeros : laneOf (.vmaxf (.reg 3) (.reg 1) (.reg 2) false 0) (v12 0x80000000 0) 0 = [0] ∧
    laneOf (.vminf (.reg 3) (.reg 2) (.reg 1) false 0) (v12 0x80000000 0) 0 = [0x80000000] := by decide +kernel
theorem test_vaddi_saturates : laneOf (.vaddi (.reg 3) (.reg 1) (.reg 2) true 0) (v12 0x7FFFFFFF 1) 0 = [0x7FFFFFFF] ∧
    laneOf (.vaddi (.reg 3) (.reg 1) (.reg 2) false 0) (v12 0x7FFFFFFF 1) 0 = [0x80000000] := by decide +kernel
theorem test_vrot_lane_numbers : laneOf (.vrot (.reg 3) (.spec 1) 3 0) (at0 id) 14 = [1] := by decide +kernel
theorem test_vcvt_saturates : laneOf (.vcvt .e4m3 .f32 (.reg 3) (.reg 1) .rne true 0) (v12 0x47800000 0) 0 = [0x7E] := by decide +kernel
/-- The example of 04: −3.25 in E4M3 and, to even, in E5M2. -/
theorem test_vcvt_example : laneOf (.vcvt .e4m3 .f32 (.reg 3) (.reg 1) .rne false 0) (v12 0xC0500000 0) 0 = [0xC5] ∧
    laneOf (.vcvt .e5m2 .f32 (.reg 3) (.reg 1) .rne false 0) (v12 0xC0500000 0) 0 = [0xC2] := by decide +kernel
theorem test_vred_adds : laneOf (.vred .iadd (.reg 3) (.spec 1) .rne false 0) (at0 id) 0 = [120] := by decide +kernel
theorem test_gbcst : laneOf (.gbcst (.reg 3) (.spec 2) 9 (.imm 0) 0) (at0 id) 7 = [9] := by decide +kernel
/-- The step runs the placed bundle: the path goes on after its 8 bytes, eligible in the next gang cycle. -/
theorem test_step_runs_the_bundle : (match step relState with
    | .next t => ((getGang t 0).a.pc, (getGang t 0).a.elig) | .fault _ | .refused _ => (0, 0)) = (0x100008, 1) := by decide +kernel
theorem test_table_word : decodeTableWord 32 0xFFF03F01 = some (.wait 63 63 0 63) ∧ decodeTableWord 32 0x8000000D = some (.rel .package) := by decide +kernel
/-- Overflow with and without sat, ties, wrapping, and the exponent of 1.5 (04 R98–R102). -/
theorem test_conversions : convert .e4m3 .rne false (.fin false 465 0) = 0x7F ∧ convert .e4m3 .rtz false (.fin true 465 0) = 0xFE ∧
    convert .f16 .rne false (.fin false 65520 0) = 0x7C00 ∧ convert .f16 .rne true (.inf true) = 0xFBFF ∧ convert .i8 .rne false (.fin false 257 (-1)) = 0x80 ∧
    convert .i8 .rne true (.fin false 257 (-1)) = 0x7F ∧ convert .h4 .rne false (.fin false 2 0) = 2 ∧
 convert .e8m0 .rne false (.fin false 3 (-1)) = 128 ∧ convert .e8m0 .rdn false (.fin false 3 (-1)) = 127 := by decide +kernel

end Sys2Proof.Tests
end

section
/-! The encoder and the decoder agree (02 R37–R47): fields of the formats, codes of the operands, the slots one by one. -/

namespace Sys2Proof

section
open BitVec (extractLsb'_append_eq_of_le extractLsb'_append_eq_of_add_le extractLsb'_append_eq_right extractLsb'_append_eq_left extractLsb'_eq_self)

/-! Fields of the instruction formats (02 R39–R43). -/

@[simp] theorem fA_fields (op : BitVec 8) (dst opa opb opc : BitVec 6) (t : BitVec 16) :
    (fA op dst opa opb opc t).extractLsb' 0 8 = op ∧ (fA op dst opa opb opc t).extractLsb' 8 6 = dst ∧
    (fA op dst opa opb opc t).extractLsb' 14 6 = opa ∧ (fA op dst opa opb opc t).extractLsb' 20 6 = opb ∧
    (fA op dst opa opb opc t).extractLsb' 26 6 = opc := by
  unfold fA
  refine ⟨?_, ?_, ?_, ?_, ?_⟩
  all_goals
    repeat rw [extractLsb'_append_eq_of_le (by decide)]
    exact extractLsb'_append_eq_right

theorem fA_tail (op : BitVec 8) (dst opa opb opc : BitVec 6) (t : BitVec 16) (k n : Nat) :
    (fA op dst opa opb opc t).extractLsb' (k + 32) n = t.extractLsb' k n := by
  unfold fA
  iterate 5 rw [extractLsb'_append_eq_of_le (by omega)]
  congr 1

/-- Format A of the S and X slots: fn, and the unused top byte. -/
@[simp] theorem fAS_fields (op : BitVec 8) (dst opa opb opc : BitVec 6) (fn : BitVec 8) :
    (fAS op dst opa opb opc fn).extractLsb' 0 8 = op ∧ (fAS op dst opa opb opc fn).extractLsb' 8 6 = dst ∧
    (fAS op dst opa opb opc fn).extractLsb' 14 6 = opa ∧ (fAS op dst opa opb opc fn).extractLsb' 20 6 = opb ∧
    (fAS op dst opa opb opc fn).extractLsb' 26 6 = opc ∧ (fAS op dst opa opb opc fn).extractLsb' 32 8 = fn ∧
    (fAS op dst opa opb opc fn).extractLsb' 40 8 = 0 := by
  obtain ⟨hop, hdst, hopa, hopb, hopc⟩ := fA_fields op dst opa opb opc ((0 : BitVec 8) ++ fn)
  exact ⟨hop, hdst, hopa, hopb, hopc, (fA_tail op dst opa opb opc _ 0 8).trans extractLsb'_append_eq_right,
    (fA_tail op dst opa opb opc _ 8 8).trans extractLsb'_append_eq_left⟩

/-- Format I; the immediate's low 12 bits name a control register (14 R336). -/
@[simp] theorem fI_fields (op : BitVec 8) (dst opa : BitVec 6) (imm : BitVec 28) :
    (fI op dst opa imm).extractLsb' 0 8 = op ∧ (fI op dst opa imm).extractLsb' 8 6 = dst ∧
    (fI op dst opa imm).extractLsb' 14 6 = opa ∧ (fI op dst opa imm).extractLsb' 20 28 = imm ∧
    (fI op dst opa imm).extractLsb' 20 12 = imm.extractLsb' 0 12 ∧
    (fI op dst opa imm).extractLsb' 32 16 = imm.extractLsb' 12 16 := by
  unfold fI
  refine ⟨extractLsb'_append_eq_right, ?_, ?_, ?_, ?_, ?_⟩
  · rw [extractLsb'_append_eq_of_le (by decide)]
    exact extractLsb'_append_eq_right
  · iterate 2 rw [extractLsb'_append_eq_of_le (by decide)]
    exact extractLsb'_append_eq_right
  all_goals iterate 3 rw [extractLsb'_append_eq_of_le (by decide)]
  exact extractLsb'_eq_self

@[simp] theorem fJ_fields (op : BitVec 8) (dst : BitVec 6) (imm : BitVec 32) :
    (fJ op dst imm).extractLsb' 0 8 = op ∧ (fJ op dst imm).extractLsb' 8 6 = dst ∧
    (fJ op dst imm).extractLsb' 14 32 = imm ∧ (fJ op dst imm).extractLsb' 46 2 = 0 := by
  unfold fJ
  refine ⟨extractLsb'_append_eq_right, ?_, ?_, ?_⟩
  · rw [extractLsb'_append_eq_of_le (by decide)]
    exact extractLsb'_append_eq_right
  · iterate 2 rw [extractLsb'_append_eq_of_le (by decide)]
    exact extractLsb'_append_eq_right
  · iterate 3 rw [extractLsb'_append_eq_of_le (by decide)]
    exact extractLsb'_eq_self

@[simp] theorem fB_fields (op : BitVec 8) (opa opb : BitVec 6) (cond : BitVec 4) (off : BitVec 24) :
    (fB op opa opb cond off).extractLsb' 0 8 = op ∧ (fB op opa opb cond off).extractLsb' 8 6 = opa ∧
    (fB op opa opb cond off).extractLsb' 14 6 = opb ∧ (fB op opa opb cond off).extractLsb' 20 4 = cond ∧
    (fB op opa opb cond off).extractLsb' 24 24 = off := by
  unfold fB
  refine ⟨extractLsb'_append_eq_right, ?_, ?_, ?_, ?_⟩
  · rw [extractLsb'_append_eq_of_le (by decide)]
    exact extractLsb'_append_eq_right
  · iterate 2 rw [extractLsb'_append_eq_of_le (by decide)]
    exact extractLsb'_append_eq_right
  · iterate 3 rw [extractLsb'_append_eq_of_le (by decide)]
    exact extractLsb'_append_eq_right
  · iterate 4 rw [extractLsb'_append_eq_of_le (by decide)]
    exact extractLsb'_eq_self

/-- The tail of a V instruction behind its operands. -/
@[simp] theorem fA_tV_fields (op : BitVec 8) (dst opa opb opc : BitVec 6) (p : BitVec 3) (fmt : BitVec 4) (rnd : BitVec 2)
    (sat : BitVec 1) (fn : BitVec 5) :
    let w := fA op dst opa opb opc (tV p fmt rnd sat fn)
    w.extractLsb' 32 5 = fn ∧ w.extractLsb' 37 1 = sat ∧ w.extractLsb' 38 2 = rnd ∧ w.extractLsb' 40 4 = fmt ∧
    w.extractLsb' 44 1 = 0 ∧ w.extractLsb' 45 3 = p := by
  have tail := fA_tail op dst opa opb opc (tV p fmt rnd sat fn)
  refine ⟨(tail 0 5).trans ?_, (tail 5 1).trans ?_, (tail 6 2).trans ?_, (tail 8 4).trans ?_, (tail 12 1).trans ?_,
    (tail 13 3).trans ?_⟩
  all_goals unfold tV
  · exact extractLsb'_append_eq_right
  · rw [extractLsb'_append_eq_of_le (by decide)]
    exact extractLsb'_append_eq_right
  · iterate 2 rw [extractLsb'_append_eq_of_le (by decide)]
    exact extractLsb'_append_eq_right
  · iterate 3 rw [extractLsb'_append_eq_of_le (by decide)]
    exact extractLsb'_append_eq_right
  · iterate 4 rw [extractLsb'_append_eq_of_le (by decide)]
    exact extractLsb'_append_eq_right
  · iterate 5 rw [extractLsb'_append_eq_of_le (by decide)]
    exact extractLsb'_eq_self

/-- The tail of an L or W instruction behind its operands. -/
@[simp] theorem fA_tL_fields (op : BitVec 8) (dst opa opb opc : BitVec 6) (p : BitVec 3) (fmt : BitVec 4) (byp : Bool)
    (fn : BitVec 6) :
    let w := fA op dst opa opb opc (tL p fmt byp fn)
    w.extractLsb' 32 6 = fn ∧ w.extractLsb' 38 2 = (encBit byp).setWidth 2 ∧ w.extractLsb' 40 4 = fmt ∧
    w.extractLsb' 44 1 = 0 ∧ w.extractLsb' 45 3 = p := by
  have tail := fA_tail op dst opa opb opc (tL p fmt byp fn)
  refine ⟨(tail 0 6).trans ?_, (tail 6 2).trans ?_, (tail 8 4).trans ?_, (tail 12 1).trans ?_, (tail 13 3).trans ?_⟩
  all_goals unfold tL
  · exact extractLsb'_append_eq_right
  · rw [extractLsb'_append_eq_of_le (by decide)]
    exact extractLsb'_append_eq_right
  · iterate 2 rw [extractLsb'_append_eq_of_le (by decide)]
    exact extractLsb'_append_eq_right
  · iterate 3 rw [extractLsb'_append_eq_of_le (by decide)]
    exact extractLsb'_append_eq_right
  · iterate 4 rw [extractLsb'_append_eq_of_le (by decide)]
    exact extractLsb'_eq_self

@[simp] theorem fT_fields (op : BitVec 8) (dst opa opb opc : BitVec 6) (md : BitVec 24) (fa fb : BitVec 4) :
    let w := fT op dst opa opb opc md fa fb
    w.extractLsb' 0 8 = op ∧ w.extractLsb' 8 6 = dst ∧ w.extractLsb' 14 6 = opa ∧ w.extractLsb' 20 6 = opb ∧
    w.extractLsb' 26 6 = opc ∧ w.extractLsb' 56 4 = fa ∧ w.extractLsb' 60 4 = fb ∧ w.extractLsb' 56 8 = fb ++ fa := by
  unfold fT
  refine ⟨?_, ?_, ?_, ?_, ?_, ?_, ?_, ?_⟩
  · exact extractLsb'_append_eq_right
  · rw [extractLsb'_append_eq_of_le (by decide)]
    exact extractLsb'_append_eq_right
  · iterate 2 rw [extractLsb'_append_eq_of_le (by decide)]
    exact extractLsb'_append_eq_right
  · iterate 3 rw [extractLsb'_append_eq_of_le (by decide)]
    exact extractLsb'_append_eq_right
  · iterate 4 rw [extractLsb'_append_eq_of_le (by decide)]
    exact extractLsb'_append_eq_right
  · iterate 6 rw [extractLsb'_append_eq_of_le (by decide)]
    exact extractLsb'_append_eq_right
  · iterate 7 rw [extractLsb'_append_eq_of_le (by decide)]
    exact extractLsb'_eq_self
  · iterate 6 rw [extractLsb'_append_eq_of_le (by decide)]
    exact extractLsb'_eq_self

/-- A field inside the modifier word of format T. -/
theorem fT_modifier (op : BitVec 8) (dst opa opb opc : BitVec 6) (md : BitVec 24) (fa fb : BitVec 4) (k n : Nat) (h : k + n ≤ 24) :
    (fT op dst opa opb opc md fa fb).extractLsb' (k + 32) n = md.extractLsb' k n := by
  unfold fT
  iterate 5 rw [extractLsb'_append_eq_of_le (by omega)]
  rw [show k + 32 - 8 - 6 - 6 - 6 - 6 = k by omega, BitVec.extractLsb'_append_eq_of_add_le h]

/-- Format C behind its three operands; `bb` is the barrier field with its presence bit above. -/
@[simp] theorem fC_fields (op : BitVec 8) (desc : BitVec 3) (opa opb opc : BitVec 6) (bar : Option (BitVec 4)) (nb : BitVec 1)
    (cls : BitVec 2) (fn : BitVec 8) (mask : BitVec 16) :
    let w := fC op desc opa opb opc bar nb cls fn mask
    w.extractLsb' 0 8 = op ∧ w.extractLsb' 8 3 = desc ∧ w.extractLsb' 11 3 = 0 ∧ w.extractLsb' 14 6 = opa ∧
    w.extractLsb' 20 6 = opb ∧ w.extractLsb' 26 6 = opc ∧ w.extractLsb' 32 4 = bar.getD 0 ∧
    w.extractLsb' 36 1 = (if bar.isSome then 1 else 0) ∧ w.extractLsb' 37 1 = nb ∧ w.extractLsb' 38 2 = cls ∧
    w.extractLsb' 40 8 = fn ∧ w.extractLsb' 48 16 = mask := by
  unfold fC
  refine ⟨?_, ?_, ?_, ?_, ?_, ?_, ?_, ?_, ?_, ?_, ?_, ?_⟩
  · exact extractLsb'_append_eq_right
  · rw [extractLsb'_append_eq_of_le (by decide)]
    exact extractLsb'_append_eq_right
  · iterate 2 rw [extractLsb'_append_eq_of_le (by decide)]
    exact extractLsb'_append_eq_right
  · iterate 3 rw [extractLsb'_append_eq_of_le (by decide)]
    exact extractLsb'_append_eq_right
  · iterate 4 rw [extractLsb'_append_eq_of_le (by decide)]
    exact extractLsb'_append_eq_right
  · iterate 5 rw [extractLsb'_append_eq_of_le (by decide)]
    exact extractLsb'_append_eq_right
  · iterate 6 rw [extractLsb'_append_eq_of_le (by decide)]
    rw [extractLsb'_append_eq_of_add_le (by decide)]
    cases bar with
    | none => rfl
    | some b => exact extractLsb'_append_eq_right
  · iterate 6 rw [extractLsb'_append_eq_of_le (by decide)]
    rw [extractLsb'_append_eq_of_add_le (by decide)]
    cases bar with
    | none => rfl
    | some b => exact extractLsb'_append_eq_left
  · iterate 7 rw [extractLsb'_append_eq_of_le (by decide)]
    exact extractLsb'_append_eq_right
  · iterate 8 rw [extractLsb'_append_eq_of_le (by decide)]
    exact extractLsb'_append_eq_right
  · iterate 9 rw [extractLsb'_append_eq_of_le (by decide)]
    exact extractLsb'_append_eq_right
  · iterate 10 rw [extractLsb'_append_eq_of_le (by decide)]
    exact extractLsb'_eq_self

@[simp] theorem fY_fields (op : BitVec 8) (chan opa opb : BitVec 6) (fn sc : BitVec 3) :
    let w := fY op chan opa opb fn sc
    w.extractLsb' 0 8 = op ∧ w.extractLsb' 8 6 = chan ∧ w.extractLsb' 14 6 = opa ∧ w.extractLsb' 20 6 = opb ∧
    w.extractLsb' 26 3 = fn ∧ w.extractLsb' 29 3 = sc ∧ w.extractLsb' 8 4 = chan.extractLsb' 0 4 ∧
    w.extractLsb' 12 2 = chan.extractLsb' 4 2 := by
  unfold fY
  refine ⟨?_, ?_, ?_, ?_, ?_, ?_, ?_, ?_⟩
  · exact extractLsb'_append_eq_right
  · rw [extractLsb'_append_eq_of_le (by decide)]
    exact extractLsb'_append_eq_right
  · iterate 2 rw [extractLsb'_append_eq_of_le (by decide)]
    exact extractLsb'_append_eq_right
  · iterate 3 rw [extractLsb'_append_eq_of_le (by decide)]
    exact extractLsb'_append_eq_right
  · iterate 4 rw [extractLsb'_append_eq_of_le (by decide)]
    exact extractLsb'_append_eq_right
  · iterate 5 rw [extractLsb'_append_eq_of_le (by decide)]
    exact extractLsb'_eq_self
  all_goals
    rw [extractLsb'_append_eq_of_le (by decide), extractLsb'_append_eq_of_add_le (by decide)]

/-- The Y slot's WAIT: four 6-bit fields above the opcode (11 R279). -/
@[simp] theorem wait_fields (ts tj tc tt : BitVec 6) :
    let w : BitVec 32 := ts ++ tj ++ tc ++ tt ++ 1#8
    w.extractLsb' 0 8 = 1 ∧ w.extractLsb' 8 6 = tt ∧ w.extractLsb' 14 6 = tc ∧ w.extractLsb' 20 6 = tj ∧
    w.extractLsb' 26 6 = ts := by
  refine ⟨extractLsb'_append_eq_right, ?_, ?_, ?_, ?_⟩
  · rw [extractLsb'_append_eq_of_le (by decide)]
    exact extractLsb'_append_eq_right
  · iterate 2 rw [extractLsb'_append_eq_of_le (by decide)]
    exact extractLsb'_append_eq_right
  · iterate 3 rw [extractLsb'_append_eq_of_le (by decide)]
    exact extractLsb'_append_eq_right
  · iterate 4 rw [extractLsb'_append_eq_of_le (by decide)]
    exact extractLsb'_eq_self

/-- Bits above a zero-extended field read 0. -/
theorem extractLsb'_setWidth_above {n m k l : Nat} (x : BitVec n) (h : n ≤ k) : (x.setWidth m).extractLsb' k l = 0 := by
  ext i hi
  simp [BitVec.getLsbD_of_ge x (k + i) (by omega)]

end

/-! Operand and selector codes read back (02 R45–R47). -/

@[simp] theorem vsrc_encVSrc (a : VSrc) : vsrc (encVSrc a) = a ∧ vsrcE (encVSrc a) = [] := by
  cases a with
  | reg r => revert r; decide
  | queue k => revert k; decide
  | spec n => revert n; decide

@[simp] theorem vdst_encVDst (d : VDst) : vdst (encVDst d) = d ∧ vdstE (encVDst d) = [] := by
  cases d with
  | reg r => revert r; decide
  | zero => decide

@[simp] theorem xsrc_encXSrc (a : XSrc) : xsrc (encXSrc a) = a := by
  cases a with
  | reg r => revert r; decide
  | queue k => revert k; decide
  | spec n => revert n; decide

/-- The code of an X-space source is good for every source but special 41 (05 R139). -/
@[simp] theorem xsrcE_encXSrc {a : XSrc} : a.ok = true → xsrcE (encXSrc a) = [] := by
  cases a with
  | reg r => revert r; decide
  | queue k => revert k; decide
  | spec n => revert n; decide

@[simp] theorem xdst_encXDst (d : XDst) : xdst (encXDst d) = d ∧ xdstE (encXDst d) = [] := by
  cases d with
  | reg r => revert r; decide
  | zero => decide

@[simp] theorem xcurE_setWidth (r : XReg) : xcurE (r.setWidth 6) = [] := by revert r; decide

@[simp] theorem encP_reads (r : BitVec 3) : (encP r).setWidth 3 = r ∧ pregE (encP r) = [] ∧ mregE (encP r) = [] := by
  revert r; decide

@[simp] theorem tile_encTile (t : Tile) : tile (encTile t) = t ∧ tileE (encTile t) = [] := by
  cases t with
  | m r => revert r; decide
  | c r => revert r; decide

@[simp] theorem creg_encC (r : CReg) : creg (encC r) = r ∧ cregE (encC r) = [] := by revert r; decide
@[simp] theorem xt_encXt (r : XReg) : xt (encXt r) = r ∧ xtE (encXt r) = [] := by revert r; decide

@[simp] theorem fmtOf_encFmt (f : Fmt) : fmtOf (encFmt f) = f ∧ fmtE (encFmt f) = [] := by cases f <;> decide
@[simp] theorem encTab_reads (t : Bool) : decide (encTab t = 15#4) = t ∧ fE (encTab t) = [] := by cases t <;> decide
@[simp] theorem rndOf_encRnd (r : Rnd) : rndOf (encRnd r) = r := by cases r <;> rfl
@[simp] theorem dirOf_encDir (d : Dir) : dirOf (encDir d) = d ∧ dirE (encDir d) = [] := by cases d <;> decide
@[simp] theorem condOf_encCond (c : Cond) : condOf (encCond c) = c ∧ condE (encCond c) = [] := by cases c <;> decide
@[simp] theorem fcondOf_encFCond (c : FCond) : fcondOf (encFCond c) = c ∧ encFCond c < 8#5 := by cases c <;> decide
@[simp] theorem icondOf_encICond (c : ICond) : icondOf (encICond c) = c ∧ icondE (encICond c) = [] := by cases c <;> decide
@[simp] theorem redOf_encRed (o : RedOp) : redOf (encRed o) = o ∧ redE (encRed o) = [] := by cases o <;> decide
@[simp] theorem scopeOf_encScope (c : Scope) : scopeOf (encScope c) = c ∧ scopeE (encScope c) = [] := by cases c <;> decide
@[simp] theorem strideOf_encStride (c : Stride) : strideOf (encStride c) = c ∧ strideE (encStride c) = [] := by
  cases c <;> decide
@[simp] theorem sizeOf'_encSize (z : Size) : sizeOf' (encSize z) = z := by cases z <;> rfl
@[simp] theorem amoOf_encAmo (o : AmoOp) : amoOf (encAmo o) = o ∧ encAmo o < 9#4 := by cases o <;> decide
@[simp] theorem xfieldOf_encXField (f : XField) : xfieldOf (encXField f) = f := by cases f <;> rfl
@[simp] theorem layoutOf_encLayout (l : Layout) : layoutOf (encLayout l) = l := by cases l <;> rfl
@[simp] theorem sredOf_encSred (o : SredOp) : sredOf (encSred o) = o ∧ encSred o < 5#3 := by cases o <;> decide
@[simp] theorem ctrOf_encCtr (c : Ctr) : ctrOf (encCtr c) = c ∧ encCtr c < 5#3 := by cases c <;> decide
@[simp] theorem csrOf_encCsr (c : Csr) : csrOf (encCsr c) = c ∧ csrE (encCsr c) = [] := by
  cases c with
  | lc k => revert k; decide
  | _ => decide
@[simp] theorem encBit_reads (b : Bool) : (encBit b)[0] = b ∧ decide (encBit b = 1#1) = b := by cases b <;> decide

/-- The hint of an L or W instruction (02 R40). -/
@[simp] theorem hint_reads (b : Bool) :
    hintE ((encBit b).setWidth 2) = [] ∧ decide ((encBit b).setWidth 2 = 1#2) = b := by cases b <;> decide

/-- The fn field of LDM and STM: the direction above the index (11 R256). -/
@[simp] theorem dirIdx_reads (d : Dir) (i : BitVec 4) :
    let fn : BitVec 6 := encDir d ++ i
    fn.extractLsb' 4 2 = encDir d ∧ fn.setWidth 4 = i :=
  ⟨BitVec.extractLsb'_append_eq_left, BitVec.setWidth_append_eq_right⟩

/-- The fn field of LDB: the count above the queue's bit (11 R261). -/
@[simp] theorem ldbFn_reads (n : BitVec 4) (q : Bool) :
    let fn : BitVec 6 := 0#1 ++ n ++ encBit q
    fn[0] = q ∧ fn.extractLsb' 1 4 = n ∧ fn.extractLsb' 5 1 = 0#1 := by cases q <;> revert n <;> decide

/-- The fn field of VTRD and VTWR: the group above the direction (05 R134). -/
@[simp] theorem groupDir_reads (g : BitVec 3) (d : Dir) :
    let fn : BitVec 5 := g ++ encDir d
    fn.extractLsb' 2 3 = g ∧ fn.setWidth 2 = encDir d :=
  ⟨BitVec.extractLsb'_append_eq_left, BitVec.setWidth_append_eq_right⟩

/-- The fn field of GBCST: the source lane above the fill's bit (05 R137). -/
@[simp] theorem laneFill_reads (n : BitVec 4) (b : BitVec 1) :
    let fn : BitVec 5 := n ++ b
    fn.extractLsb' 1 4 = n ∧ fn[0] = b[0] := by revert n b; decide

/-- The fn field of GSCAN: the operator under the exclusive flag (05 R137). -/
@[simp] theorem scanFn_reads (ex : Bool) (o : BitVec 4) :
    let fn : BitVec 5 := encBit ex ++ o
    fn[4] = ex ∧ fn.setWidth 4 = o := by cases ex <;> revert o <;> decide

/-- The barrier number in the channel field of a Y instruction (11 R281). -/
@[simp] theorem barrier_reads (b : BitVec 4) :
    (b.setWidth 6).extractLsb' 0 4 = b ∧ (b.setWidth 6).extractLsb' 4 2 = 0#2 := by revert b; decide

/-- A reduction's rounding and saturation are encoded where its operator has them (05 R132, R137). -/
@[simp] theorem redModE_of_redModOk {o : RedOp} {r : Rnd} {sat : Bool} :
    redModOk o r sat = true → redModE o (encRnd r) (encBit sat) = [] := by
  cases o <;> cases r <;> cases sat <;> decide

theorem epsetOk_and (a : VSrc) : EpsetSrc.ok (.and a) = EpsetSrc.ok (.set a) := by cases a <;> rfl

/-- The fn field of XADV with an immediate: the stride under the immediate's flag (05 R142). -/
@[simp] theorem advFn_reads (st : Stride) :
    let fn : BitVec 8 := (encStride st).setWidth 8 ||| 4#8
    fn.extractLsb' 3 5 = 0#5 ∧ fn.setWidth 2 = encStride st ∧ fn[2] = true := by cases st <;> decide

/-- The fn field of XCMPA: the strides above the row flags (05 R142). -/
@[simp] theorem cmpaFn_reads (sa sb : Stride) (ra rb : Bool) :
    let fn : BitVec 8 := 0#2 ++ encStride sb ++ encStride sa ++ encBit rb ++ encBit ra
    fn[0] = ra ∧ fn[1] = rb ∧ fn.extractLsb' 2 2 = encStride sa ∧ fn.extractLsb' 4 2 = encStride sb ∧
    fn.extractLsb' 6 2 = 0#2 := by
  cases sa <;> cases sb <;> cases ra <;> cases rb <;> decide

/-- The bucket size of XHASH in the decoder's words (05 R142). -/
theorem hashSize_ok {lg : BitVec 4} : (lg == 0 || decide (4 ≤ lg.toNat) && decide (lg.toNat ≤ 12)) = true →
    (decide (lg = 0#4) || decide (4#4 ≤ lg) && decide (lg ≤ 12#4)) = true := by revert lg; decide

/-- The modifier word of MMA and MMAG: the block row in its top four bits (06 R151). -/
@[simp] theorem mmaMd_reads (rb : BitVec 2) :
    let md : BitVec 24 := rb.setWidth 4 ++ 0#20
    md.extractLsb' 0 8 = 0#8 ∧ md.extractLsb' 8 4 = 0#4 ∧ md.extractLsb' 12 4 = 0#4 ∧ md.extractLsb' 16 4 = 0#4 ∧
    md.extractLsb' 20 4 = rb.setWidth 4 := by revert rb; decide

/-- The modifier word of TTRN: the source's direction and rotation (02 R41). -/
@[simp] theorem ttrnMd_reads (rot : BitVec 4) (d : Dir) :
    let md : BitVec 24 := 0#8 ++ rot ++ 0#8 ++ encDir d ++ 0#2
    md.extractLsb' 0 2 = 0#2 ∧ md.extractLsb' 2 2 = encDir d ∧ md.extractLsb' 4 4 = 0#4 ∧ md.extractLsb' 8 4 = 0#4 ∧
    md.extractLsb' 12 4 = rot ∧ md.extractLsb' 16 4 = 0#4 ∧ md.extractLsb' 20 4 = 0#4 := by
  cases d <;> revert rot <;> decide

/-- The modifier word of ADRN: the layout in the source's rotation (06 R167). -/
@[simp] theorem adrnMd_reads (l : Layout) :
    let md : BitVec 24 := 0#8 ++ (encLayout l).setWidth 4 ++ 0#12
    md.extractLsb' 0 8 = 0#8 ∧ md.extractLsb' 8 4 = 0#4 ∧ md.extractLsb' 12 4 = (encLayout l).setWidth 4 ∧
    md.extractLsb' 16 4 = 0#4 ∧ md.extractLsb' 20 4 = 0#4 := by cases l <;> decide

/-- TTRN's rotation goes with the diagonal direction alone (02 R47). -/
theorem ttrnRot_ok {d : Dir} {rot : BitVec 4} : (d == .diag || rot == 0) = true →
    (decide (encDir d = 2#2) || decide (rot = 0#4)) = true := by cases d <;> revert rot <;> decide

/-- TDEC's two formats in the decoder's words (06 R163). -/
theorem tdecFmt_ok {fa fb : Fmt} : (fa == .lq2 || fa == .tab) = true ∧ (fb == .e4m3 || fb == .tab) = true →
    ((decide (encFmt fa = 8#4) || decide (encFmt fa = 15#4)) && (decide (encFmt fb = 3#4) || decide (encFmt fb = 15#4))) = true := by
  cases fa <;> cases fb <;> decide

theorem encXt_bne (a b : XReg) : (encXt a != encXt b) = (a != b) := by
  have inj : encXt a = encXt b ↔ a = b := ⟨fun h => by simpa using congrArg xt h, congrArg encXt⟩
  simp [bne, beq_eq_decide, inj]

/-- The immediate of CSRR and CSRW holds the control register's code alone (14 R336). -/
@[simp] theorem csrImm_reads (c : BitVec 12) :
    (c.setWidth 28).extractLsb' 0 12 = c ∧ (c.setWidth 28).extractLsb' 12 16 = 0 := by
  refine ⟨?_, extractLsb'_setWidth_above c (Nat.le_refl 12)⟩
  rw [BitVec.extractLsb'_setWidth_of_le (by decide), BitVec.extractLsb'_eq_self]

/-- The immediate of LDS and STS: the access size above the offset (11 R263). -/
@[simp] theorem sizeImm_reads (z : Size) (off : BitVec 26) :
    let imm : BitVec 28 := encSize z ++ off
    imm.extractLsb' 26 2 = encSize z ∧ imm.setWidth 26 = off :=
  ⟨BitVec.extractLsb'_append_eq_left, BitVec.setWidth_append_eq_right⟩

/-- The condition field of GIF: the condition under its long flag (13 R299). -/
@[simp] theorem gifCond_reads (l : Bool) (c : Cond) :
    let k : BitVec 4 := encBit l ++ encCond c
    k.setWidth 3 = encCond c ∧ k[3] = l := by cases l <;> cases c <;> decide

/-- The fn field of AMO and CAS: operator, width, and the bit that is always set (11 R264). -/
theorem rmwFn_reads (d : Bool) (o : BitVec 4) :
    let fn : BitVec 8 := 0#2 ++ 1#1 ++ encBit d ++ o
    fn.setWidth 4 = o ∧ fn.extractLsb' 0 4 = o ∧ fn[4] = d ∧ fn[5] = true ∧ fn.extractLsb' 6 2 = 0 := by
  cases d <;> revert o <;> decide

/-! Checks that pass. -/

@[simp] theorem zf_zero (n : Nat) : zf 0#n = [] := if_pos rfl
@[simp] theorem need_true (e : DecErr) : need true e = [] := rfl
/-- No check failed: the instruction is built. -/
theorem build_of_no_error {errs : List (List DecErr)} (h : errs.flatten = []) (i : Instr) : build errs i = .ok i := by
  unfold build; rw [h]; rfl

/-! The slots. -/

theorem decodeS_encodeS {i : Instr} {w : BitVec 48} (hwf : wf i = true) (h : encodeS i = some w) : decodeS w = .ok i := by
  cases i with
  | add | sub | and | or | xor | andn | shl | shr | sar | sel | popc | clz | mul | addi | li | lih | jmp | jmpr | call
  | ret | exit | gelse | gend | gsplit | enq | recd | yield | prio | qdie | fencei | bkpt | lds | sts | csrr =>
    cases h
    simp [decodeS, build_of_no_error]
  | min | max | mulh | div | rem | cmp | br | loop | trap =>
    cases h
    simp [decodeS, build_of_no_error, extractLsb'_setWidth_above]
  | gany | gall | gcnt =>
    cases h
    simp only [wf, Bool.and_eq_true] at hwf
    simp [decodeS, encVote, build_of_no_error, extractLsb'_setWidth_above, hwf]
  | csrw =>
    cases h
    simp only [wf] at hwf
    simp [decodeS, build_of_no_error, hwf]
  | gif =>
    cases h
    simp only [wf, Bool.and_eq_true] at hwf
    simp [decodeS, build_of_no_error, hwf]
  | goff s =>
    cases s with
    | all =>
      cases h
      simp [decodeS, build_of_no_error]
    | cond c a b =>
      cases h
      simp only [wf, Bool.and_eq_true] at hwf
      simp [decodeS, build_of_no_error, extractLsb'_setWidth_above, hwf]
  | gmsk s d =>
    cases s with
    | path | act | ret =>
      cases h
      simp [decodeS, build_of_no_error]
    | cond c a b =>
      cases h
      simp only [wf, Bool.and_eq_true] at hwf
      simp [decodeS, encVote, build_of_no_error, extractLsb'_setWidth_above, hwf]
  | qid s d =>
    cases s with
    | team | nteam | gang | vdie | loc =>
      cases h
      simp [decodeS, encQid, build_of_no_error]
  | qtop s d =>
    cases s with
    | gangs | dies | diam =>
      cases h
      simp [decodeS, build_of_no_error]
  | amo | cas =>
    cases h
    simp [decodeS, build_of_no_error, rmwFn_reads, -BitVec.reduceAppend]
  | _ => cases h

theorem decodeX_encodeX {i : Instr} {w : BitVec 48} (hwf : wf i = true) (h : encodeX i = some w) : decodeX w = .ok i := by
  cases i with
  | xli =>
    cases h
    simp [decodeX, build_of_no_error]
  | xmov d s =>
    cases s with
    | x a =>
      cases h
      simp only [wf, XMovSrc.ok] at hwf
      simp [decodeX, build_of_no_error, hwf]
    | s a =>
      cases h
      simp [decodeX, build_of_no_error]
  | xadd _ _ b | xsub _ _ b | xmul _ _ b | xand _ _ b | xxor _ _ b | xshl _ _ b | xshr _ _ b | xadv _ _ _ b =>
    cases h
    cases b with
    | src x | imm n =>
      simp only [wf, XB.ok, Bool.and_eq_true] at hwf
      simp [decodeX, encXArith, build_of_no_error, hwf, extractLsb'_setWidth_above]
  | xpopc | xldc =>
    cases h
    simp only [wf] at hwf
    simp [decodeX, build_of_no_error, hwf, extractLsb'_setWidth_above]
  | xhash =>
    cases h
    simp only [wf, Bool.and_eq_true] at hwf
    simp [decodeX, build_of_no_error, hwf.1, hashSize_ok hwf.2, extractLsb'_setWidth_above]
  | xpfx | xsel =>
    cases h
    simp only [wf, Bool.and_eq_true] at hwf
    simp [decodeX, build_of_no_error, hwf]
  | xcmpa =>
    cases h
    simp [decodeX, build_of_no_error]
  | _ => cases h

theorem decodeV_encodeV {i : Instr} {w : BitVec 48} (hwf : wf i = true) (h : encodeV i = some w) : decodeV true w = .ok i := by
  cases i with
  | vaddf | vsubf | vmulf | vfmaf | vminf | vmaxf | vcmpf | vrcp | vrsq | vex2 | vlg2 | vtanh | vaddi | vsubi | vmuli
  | vand | vor | vxor | vshl | vshr | vsar | vcmpi | vmov | vli | vbcs | vsel | vperm | gpsh =>
    cases h
    simp [decodeV, encV1, encV2, build_of_no_error]
  | vrot | vmulhi | vmini | vmaxi =>
    cases h
    simp [decodeV, encV1, encV2, build_of_no_error, extractLsb'_setWidth_above]
  | vcvt | vqnt | vdqn =>
    cases h
    simp only [wf, Bool.and_eq_true] at hwf
    simp [decodeV, encV1, encV2, build_of_no_error, extractLsb'_setWidth_above, hwf]
  | vred | gred | gscan =>
    cases h
    simp only [wf] at hwf
    simp [decodeV, encV1, build_of_no_error, extractLsb'_setWidth_above, hwf]
  | vpld =>
    cases h
    simp only [wf] at hwf
    simp [decodeV, fA_tail, build_of_no_error, hwf]
  | vpldSwap =>
    cases h
    simp [decodeV, fA_tail, build_of_no_error]
  | vtrd | vtwr =>
    cases h
    simp only [wf, Bool.and_eq_true] at hwf
    simp [decodeV, build_of_no_error, extractLsb'_setWidth_above, hwf]
  | plog d s p =>
    cases s with
    | bin o a b =>
      cases o with
      | and | or | xor | andn =>
        cases h
        simp [decodeV, encPlogOp, build_of_no_error]
    | not | mov | fromv =>
      cases h
      simp [decodeV, build_of_no_error]
  | epset s =>
    cases s with
    | set a | and a =>
      cases h
      simp only [wf, epsetOk_and] at hwf
      simp [decodeV, fA_tail, build_of_no_error, hwf]
    | all =>
      cases h
      simp [decodeV, fA_tail, build_of_no_error]
  | gshf _ _ _ f | gbcst _ _ _ f =>
    cases h
    cases f with
    | s | imm => simp [decodeV, encFill, build_of_no_error]
  | _ => cases h

theorem decodeT_encodeT {i : Instr} {w : BitVec 64} (hwf : wf i = true) (h : encodeT i = some w) : decodeT w = .ok i := by
  cases i with
  | mma =>
    cases h
    simp only [wf] at hwf
    simp [decodeT, fT_modifier, build_of_no_error, extractLsb'_setWidth_above, hwf]
  | mmag _ _ _ _ _ g =>
    cases h
    simp only [wf] at hwf
    have hg : g.val % 64 = g.val := Nat.mod_eq_of_lt (by omega)
    simp [decodeT, fT_modifier, build_of_no_error, extractLsb'_setWidth_above, hwf, hg, Nat.le_of_lt_succ g.isLt]
  | tzero | cbld | fmtw | shset | acfg | aclr | afold | aspl =>
    cases h
    simp [decodeT, fT_modifier, build_of_no_error, extractLsb'_setWidth_above]
  | tdec =>
    cases h
    simp only [wf, Bool.and_eq_true] at hwf
    simp [decodeT, fT_modifier, build_of_no_error, tdecFmt_ok hwf]
  | join | pchk =>
    cases h
    simp only [wf, Bool.and_eq_true] at hwf
    simp [decodeT, fT_modifier, build_of_no_error, encXt_bne, hwf]
  | jins | pred =>
    cases h
    simp only [wf] at hwf
    simp [decodeT, fT_modifier, build_of_no_error, hwf]
  | ttrn =>
    cases h
    simp only [wf, Bool.and_eq_true] at hwf
    simp [decodeT, fT_modifier, build_of_no_error, hwf.1, ttrnRot_ok hwf.2]
  | adrn lay =>
    cases h
    simp only [wf, Bool.and_eq_true] at hwf
    by_cases ht : lay = .tup
    · subst ht
      simp at hwf
      simp [decodeT, fT_modifier, build_of_no_error, hwf, extractLsb'_setWidth_above]
    · simp [decodeT, fT_modifier, build_of_no_error, hwf, ht, extractLsb'_setWidth_above]
  | ard s =>
    cases s with
    | key | st | occ | cfg | spl | org | sres | sover =>
      cases h
      simp [decodeT, fT_modifier, build_of_no_error]
  | awr s =>
    cases s with
    | key | st | org | sres | sover =>
      cases h
      simp [decodeT, fT_modifier, build_of_no_error]
  | _ => cases h

theorem decodeL_encodeL {i : Instr} {w : BitVec 48} (hwf : wf i = true) (h : encodeL i = some w) : decodeL w = .ok i := by
  cases i with
  | ldv | ldm | ldg =>
    cases h
    simp only [wf] at hwf
    simp [decodeL, build_of_no_error, hwf]
  | ldmk | ldx =>
    cases h
    simp only [wf, Bool.and_eq_true] at hwf
    simp [decodeL, build_of_no_error, extractLsb'_setWidth_above, hwf]
  | ldb =>
    cases h
    simp only [wf, Bool.and_eq_true] at hwf
    simp [decodeL, build_of_no_error, wf, hwf]
  | ldw =>
    cases h
    simp only [wf, Bool.and_eq_true] at hwf
    simp [decodeL, build_of_no_error, extractLsb'_setWidth_above, hwf]
  | _ => cases h

theorem decodeW_encodeW {i : Instr} {w : BitVec 48} (hwf : wf i = true) (h : encodeW i = some w) : decodeW w = .ok i := by
  cases i with
  | stv | stm | stg =>
    cases h
    simp only [wf] at hwf
    simp [decodeW, build_of_no_error, hwf]
  | stmk | stx =>
    cases h
    simp only [wf, Bool.and_eq_true] at hwf
    simp [decodeW, build_of_no_error, extractLsb'_setWidth_above, hwf]
  | _ => cases h

theorem decodeC_encodeC {i : Instr} {w : BitVec 64} (h : encodeC i = some w) : decodeC w = .ok i := by
  cases i with
  | dset =>
    cases h
    simp [decodeC, build_of_no_error, extractLsb'_setWidth_above]
  | cpy _ _ _ _ bar | cpyg _ _ _ _ bar  | cmc _ _ _ _ _ bar | cprf _ _ bar | cfls _ _ bar | cinv _ _ bar | cfil _ _ _ _ bar =>
    cases h
    cases bar with
    | none | some => simp [decodeC, build_of_no_error]
  | cpsh _ _ _ nb _ bar =>
    cases nb with
    | none | some =>
      cases h
      cases bar with
      | none | some => simp [decodeC, build_of_no_error]
  | _ => cases h

theorem decodeY_encodeY {i : Instr} {w : BitVec 32} (h : encodeY i = some w) : decodeY w = .ok i := by
  cases i with
  | wait =>
    cases h
    simp [decodeY]
  | bari | bara | barw | barx | syna | synw | sbc | sbcRd | sred | fence | acq | rel | acqr =>
    cases h
    simp [decodeY, build_of_no_error]
  | waitr | time =>
    cases h
    simp [decodeY, build_of_no_error, extractLsb'_setWidth_above]
  | _ => cases h

/-- Settles O53: slot by slot, the fields that the encoder puts together are the ones that the decoder takes apart. -/
theorem decodeEncode : Obligations.DecodeEncode := by
  unfold Obligations.DecodeEncode
  intro i k w hwf h
  unfold encode at h
  split at h
  next hv => cases h; simp [decodeSlot, decodeS_encodeS hwf hv]
  split at h
  next hv => cases h; simp [decodeSlot, decodeX_encodeX hwf hv]
  split at h
  next hv => cases h; simp [decodeSlot, decodeV_encodeV hwf hv]
  split at h
  next hv => cases h; exact decodeT_encodeT hwf hv
  split at h
  next hv => cases h; simp [decodeSlot, decodeL_encodeL hwf hv]
  split at h
  next hv => cases h; simp [decodeSlot, decodeW_encodeW hwf hv]
  split at h
  next hv => cases h; exact decodeC_encodeC hv
  split at h
  next hv => cases h; simp [decodeSlot, decodeY_encodeY hv]
  next => cases h

end Sys2Proof
end

section
/-! Every step answers: the meaning of an instruction always ends in a next state, and so does all that a step puts together
from such meanings (02 R60; 09 R222). -/

namespace Sys2Proof.Machine

/-- An outcome that is a next state: neither a fault nor a refusal. -/
def Answers (o : Outcome) : Prop := ∃ t, o = .next t

theorem answers_next (s : State) : Answers (.next s) := ⟨s, rfl⟩

theorem answers_after {o : Outcome} {f : State → Outcome} (ho : Answers o) (hf : ∀ s, Answers (f s)) : Answers (after o f) := by
  obtain ⟨t, rfl⟩ := ho
  exact hf t

/-- Each arm of the dispatch is a `.next` of what its conditions choose; none of them faults or is refused. -/
theorem answers_exec (i : Instr) (s : State) : Answers (exec i s) := by
  cases i <;> exact ⟨_, rfl⟩

theorem answers_runSlots (go : Bool) (xs : List (Nat × Instr)) (s : State) : Answers (runSlots go xs s) := by
  induction xs generalizing s with
  | nil => exact answers_next s
  | cons x xs ih => exact answers_after (answers_exec x.2 _) ih

theorem answers_encodingStop (g : Nat) (p : PathSlot) (b : Bundle) (cause opc : BitVec 8) (slot : Nat) (s : State) :
    Answers (encodingStop g p b cause opc slot s) := by
  unfold encodingStop
  split
  · exact answers_runSlots ..
  · exact answers_next _

theorem answers_tryBroken (g : Nat) (p : PathSlot) (b : Bundle) (cause opc : BitVec 8) (slot : Nat) (s : State) :
    Answers (tryBroken g p b cause opc slot s) := by
  unfold tryBroken
  dsimp only
  split
  · exact answers_next _
  · exact answers_encodingStop ..

theorem answers_issueBundle (g : Nat) (p : PathSlot) (b : Bundle) (s : State) : Answers (issueBundle g p b s) :=
  answers_after (answers_runSlots ..) (fun _ => answers_next _)

theorem answers_tryBundle (g : Nat) (p : PathSlot) (b : Bundle) (len : Nat) (s : State) : Answers (tryBundle g p b len s) := by
  unfold tryBundle
  dsimp only
  split
  · exact answers_encodingStop ..
  · split
    · exact answers_runSlots ..
    · exact answers_runSlots ..
    · exact answers_after (answers_issueBundle ..) (fun _ => answers_next _)

theorem answers_tryPath (g : Nat) (p : PathSlot) (s : State) : Answers (tryPath g p s) := by
  refine answers_after ?_ (fun _ => answers_next _)
  cases chance (beginTry g p s) g p with
  | idle | held | absent | ends | trap => exact answers_next _
  | broken b cause opc slot => exact answers_tryBroken ..
  | bundle b len => exact answers_tryBundle ..

theorem answers_serve (s : State) : Answers (serve s) := by
  unfold serve
  dsimp only
  split
  · exact answers_next _
  · split
    · split
      · exact answers_exec ..
      · exact answers_next _
    · exact answers_next _

theorem answers_step (s : State) : Answers (step s) := by
  unfold step
  split
  · exact answers_exec ..
  · split
    · split
      · exact answers_exec ..
      · exact answers_next _
    · split
      · exact answers_serve s
      · split
        · exact answers_tryPath ..
        · split
          · exact answers_exec ..
          · exact answers_next _

/-- Settles O56: whatever a step performs answers, event, chance of a path or clock. -/
theorem stepAlwaysAnswers : Obligations.StepAlwaysAnswers := by
  unfold Obligations.StepAlwaysAnswers
  exact answers_step

end Sys2Proof.Machine
end

section
/-! The step of a path whose bundle may issue (02 R33, R48, R53, R60). -/

namespace Sys2Proof.Machine

theorem after_after (o : Outcome) (f h : State → Outcome) : after (after o f) h = after o (fun s => after (f s) h) := by
  cases o <;> rfl

theorem after_pure (o : Outcome) : after o .next = o := by cases o <;> rfl

/-- With nothing else due, the step is the chance of the next path. -/
theorem step_eq_tryPath {s : State} {g : Nat} {p : PathSlot} (hdue : dueEvents s = []) (hin : s.inputs = [])
    (hserved : s.served = true) (hpath : nextPath s = some (g, p)) : step s = tryPath g p s := by
  simp [step, hdue, hin, hserved, hpath]

theorem tryPath_bundle {s : State} {g : Nat} {p : PathSlot} {b : Bundle} {len : Nat}
    (h : chance (beginTry g p s) g p = .bundle b len) :
    tryPath g p s = after (tryBundle g p b len (beginTry g p s)) (fun t => .next (closeTry t)) := by
  simp [tryPath, h]

theorem tryBundle_go {m : State} {g : Nat} {p : PathSlot} {b : Bundle} {len : Nat}
    (htrap : encodingTrap b (setCur (earlyWrites m g) g p b len) = none)
    (hplan : plan b (setCur (earlyWrites m g) g p b len) = .go) :
    tryBundle g p b len m = gateIssue (setCur (earlyWrites m g) g p b len)
      (issueBundle g p b (setCur (earlyWrites m g) g p b len)) := by
  simp [tryBundle, htrap, hplan]

/-- A bundle of one slot acts in that slot alone. -/
theorem issueOrder_of_slots {b : Bundle} {n : Nat} {i : Instr} (h : b.slots = [(n, i)]) : issueOrder b = [(n, i)] := by
  have instrs : bundleInstrs b = [(n, i)] := by simp [bundleInstrs, h]
  unfold issueOrder
  rw [instrs]
  by_cases hy : n = 8 <;> by_cases hf : forksOrJoins i = true <;> simp [hy, hf]

theorem runSlots_singleton (go : Bool) (n : Nat) (i : Instr) (s : State) :
    runSlots go [(n, i)] s = exec i (atSlot n go s) := after_pure _

/-- An issue that takes no flit waits for nothing. -/
theorem mayIssue_of_no_keys {s t : State} (h : keysBetween s t = []) : mayIssue s t = true := by simp [mayIssue, h]

/-- Settles O55: the chance of the path, its bundle's issue and the gate after it follow one another. -/
theorem stepRunsDecoded : Obligations.StepRunsDecoded := by
  unfold Obligations.StepRunsDecoded
  intro s g p b len hdue hin hserved hpath hchance m u done close htrap hplan
  have run : step s = after (runSlots true (issueOrder b) (beginIssue u)) close := by
    rw [step_eq_tryPath hdue hin hserved hpath, tryPath_bundle hchance, tryBundle_go htrap hplan, gateIssue, issueBundle,
      after_after, after_after]
    rfl
  refine ⟨run, fun n i hslots => ?_, fun t hkeys => ?_⟩
  · rw [run, issueOrder_of_slots hslots, runSlots_singleton]
  · show (.next (closeTry (if mayIssue u (done t) then noteTurns (keysBetween u (done t)) (done t) else _)) : Outcome) = _
    rw [mayIssue_of_no_keys hkeys, hkeys]
    rfl

end Sys2Proof.Machine
end

section
/-! The header rules of a bundle (02 R34, R35, R62). -/

namespace Sys2Proof

/-- Adding up some of the entries of a list gives no more than adding up all. -/
theorem foldl_marked_le (c : Nat → Bool) (f : Nat → Nat) (l : List Nat) (n : Nat) :
    l.foldl (fun n i => if c i then n + f i else n) n ≤ n + (l.map f).sum := by
  induction l generalizing n with
  | nil => simp
  | cons i l ih =>
    have h := ih (if c i then n + f i else n)
    have first : (if c i then n + f i else n) ≤ n + f i := by split <;> omega
    simp only [List.foldl_cons, List.map_cons, List.sum_cons]
    omega

/-- Nine slots hold 56 bytes (02 R35). -/
theorem slotsLen_le (present : BitVec 9) : slotsLen present ≤ 56 :=
  foldl_marked_le present.getLsbD (fun i => (slotSpec i).2.2) (List.range 9) 0

theorem bundleLen_of_no_slot {hdr : BitVec 32} (h : hdr.setWidth 9 = (0 : BitVec 9)) : bundleLen hdr = 8 := by
  simp [bundleLen, h]

theorem bundleLen_of_slots {hdr : BitVec 32} (h : hdr.setWidth 9 ≠ (0 : BitVec 9)) :
    bundleLen hdr = 4 + slotsLen (hdr.setWidth 9) := by
  unfold bundleLen
  exact if_neg h

theorem bundleLen_le (hdr : BitVec 32) : bundleLen hdr ≤ 60 := by
  by_cases h : hdr.setWidth 9 = (0 : BitVec 9)
  · rw [bundleLen_of_no_slot h]; omega
  · rw [bundleLen_of_slots h]
    have := slotsLen_le (hdr.setWidth 9)
    omega

/-- Sixty bytes hold any bundle. -/
theorem not_truncated {bs : List Byte} (h : 60 ≤ bs.length) (hdr : BitVec 32) :
    (decide (bs.length < 4) || decide (bs.length < bundleLen hdr)) = false := by
  have := bundleLen_le hdr
  simp only [Bool.or_eq_false_iff, decide_eq_false_iff_not]
  omega

theorem decodeBundle_headerReserved {bs : List Byte} (hlen : 60 ≤ bs.length)
    (hres : (BitVec.ofNat 32 (leNat (bs.take 4))).extractLsb' 23 9 ≠ 0) :
    decodeBundle bs = .error (none, 0, .headerReserved) := by
  unfold decodeBundle
  dsimp only
  rw [not_truncated hlen, if_neg Bool.false_ne_true, if_pos hres]

theorem decodeBundle_paddingNonzero {bs : List Byte} (hlen : 60 ≤ bs.length)
    (hres : (BitVec.ofNat 32 (leNat (bs.take 4))).extractLsb' 23 9 = 0)
    (hslots : (BitVec.ofNat 32 (leNat (bs.take 4))).setWidth 9 = (0 : BitVec 9)) (hpad : leNat ((bs.drop 4).take 4) ≠ 0) :
    decodeBundle bs = .error (none, 0, .paddingNonzero) := by
  unfold decodeBundle
  dsimp only
  rw [not_truncated hlen, if_neg Bool.false_ne_true, if_neg (not_not_intro hres), if_pos hslots, if_pos hpad]

/-- Settles O59: the two errors of the header are found before any slot is decoded, and both have cause 0x01. -/
theorem headerRules : Obligations.HeaderRules := by
  unfold Obligations.HeaderRules
  refine ⟨fun bs hlen hres => ?_, fun bs hlen hres hslots hpad => ?_, fun _ => bundleLen_of_no_slot,
    fun _ => bundleLen_of_slots, by decide⟩
  · rw [Machine.decoded, decodeBundle_headerReserved hlen hres]
    rfl
  · rw [Machine.decoded, decodeBundle_paddingNonzero hlen hres hslots hpad]
    rfl

end Sys2Proof
end

section
/-! The register forms and transfers of control leave registers, memory and the other gangs as they are (02 R48, R56). -/

namespace Sys2Proof.Machine

/-! What an issue may change: nothing that an instruction of the gang or of another one can read back. -/

/-- From `s` to `t` no register, queue, counter, scratchpad or memory byte has changed, no other gang, nor which path issues. -/
structure Quiet (s t : State) : Prop where
  cur : t.cur = s.cur
  regs : SameRegs (curGang s) (curGang t)
  memory : SameMemory s t
  others : OtherGangsSame s t

theorem SameRegs.refl (G : Gang) : SameRegs G G := by simp [SameRegs]

theorem SameRegs.trans {G H K : Gang} (h : SameRegs G H) (k : SameRegs H K) : SameRegs G K := by
  simp_all [SameRegs]

theorem sameMemory_of_eq {s t : State} (hm : t.mem = s.mem) (hb : t.memBad = s.memBad) (hs : t.sl = s.sl) (hp : t.priv = s.priv)
    (hd : t.dev = s.dev) : SameMemory s t := ⟨fun a => by rw [hm], hb, hs, hp, hd⟩

theorem SameMemory.trans {s t u : State} (h : SameMemory s t) (k : SameMemory t u) : SameMemory s u := by
  obtain ⟨hm, hb, hs, hp, hd⟩ := h
  obtain ⟨km, kb, ks, kp, kd⟩ := k
  exact ⟨fun a => (km a).trans (hm a), kb.trans hb, ks.trans hs, kp.trans hp, kd.trans hd⟩

namespace Quiet

theorem refl (s : State) : Quiet s s :=
  ⟨rfl, .refl _, sameMemory_of_eq rfl rfl rfl rfl rfl, fun _ _ => rfl⟩

theorem trans {s t u : State} (h : Quiet s t) (k : Quiet t u) : Quiet s u :=
  ⟨k.cur.trans h.cur, h.regs.trans k.regs, h.memory.trans k.memory,
    fun g hg => (k.others g (by rwa [h.cur])).trans (h.others g hg)⟩

theorem modCur {s : State} {f : Gang → Gang} (h : SameRegs (curGang s) (f (curGang s))) : Quiet s (modCur s f) :=
  ⟨rfl, by simpa using h, sameMemory_of_eq rfl rfl rfl rfl rfl, getGang_modCur_other s f⟩

/-- A path's state other than its link register is none of the gang's registers. -/
theorem modCurPath {s : State} {f : Path → Path} (h : ∀ P, (f P).lnk = P.lnk) : Quiet s (modCurPath s f) := by
  refine Quiet.modCur ?_
  cases hp : s.cur.path <;> simp [SameRegs, modPath, setPath, getPath, h]

theorem modTeam (s : State) (n : Nat) (f : Team → Team) : Quiet s (modTeam s n f) :=
  ⟨by simp, by simp [curGang, SameRegs], sameMemory_of_eq (by simp) (by simp) (by simp) (by simp) (by simp),
    fun g _ => by simp⟩

theorem inFlight (s : State) (lat : Nat) (w : Wr) : Quiet s (inFlight s lat w) := modCur (by simp [SameRegs])

theorem goTo (target : VAddr) (d : Nat) (s : State) : Quiet s (goTo target d s) := by
  refine Quiet.modCur ?_
  cases hp : s.cur.path <;> simp [SameRegs, modPath, setPath, getPath]

theorem takeDivider (s : State) : Quiet s (takeDivider s) := modCur (by split <;> simp [SameRegs])

theorem useNet (s : State) : Quiet s (useNet s) := modCur (by simp [SameRegs])

/-! Waits and traps. -/

theorem holdPath (h : Hold) (s : State) : Quiet s (holdPath h s) := modCurPath fun _ => rfl

theorem onWait (i : Instr) (s : State) : Quiet s (onWait i s) := by
  cases i
  case barw b => exact modCurPath fun P => by dsimp only; split <;> rfl
  all_goals exact refl s

theorem latchTrap (s : State) (c : Cause) : Quiet s (latchTrap s s.cur.gang c) := by
  unfold Machine.latchTrap
  dsimp only
  split
  case' h_1 => refine trans (modCur ?_) (modTeam _ _ _)
  case' h_2 => refine modCur ?_
  all_goals cases hp : c.path <;> simp [SameRegs, modPath, setPath, getPath]

theorem takeTrap (i : Instr) (t : TrapInfo) (s : State) : Quiet s (takeTrap i t s) := latchTrap s _

end Quiet

/-! Verdicts whose settling is quiet: the instruction acts, waits, or traps over no refused access. -/

def Verdict.mild : Verdict → Prop
  | .ok | .wait _ => True
  | .trap t => t.refused = none
  | .fault _ | .arrive _ | .endCtx _ _ => False

theorem mild_and {a b : Verdict} (ha : a.mild) (hb : b.mild) : (a.and b).mild := by
  unfold Verdict.and
  split
  · exact ha
  · split
    · exact ha
    · split <;> assumption
  · split <;> assumption

theorem mild_andAll {vs : List Verdict} (h : ∀ v ∈ vs, v.mild) : (andAll vs).mild := by
  suffices ∀ a : Verdict, a.mild → (vs.foldl Verdict.and a).mild from this .ok trivial
  induction vs with
  | nil => exact fun a ha => ha
  | cons v vs ih => exact fun a ha => ih (fun w hw => h w (by simp [hw])) _ (mild_and ha (h v (by simp)))

theorem mild_waitUnless (c : Bool) (h : Hold) : (waitUnless c h).mild := by unfold waitUnless; split <;> trivial

theorem mild_trapIf (c : Bool) (n : BitVec 8) : (trapIf c n).mild := by
  unfold trapIf; split
  · rfl
  · trivial

theorem mild_engCheck (s : State) (f : Nat → Option (BitVec 8 × Nat)) : (engCheck s f).mild := by
  unfold engCheck; dsimp only; split
  · trivial
  · rfl

theorem mild_commonCheck (i : Instr) (s : State) : (commonCheck i s).mild := by
  apply mild_andAll
  intro v hv
  simp only [List.mem_cons, List.not_mem_nil, or_false] at hv
  rcases hv with rfl | rfl | rfl
  · unfold ilkCheck; dsimp only; split
    · trivial
    · split <;> trivial
  · unfold queueCheck; split <;> trivial
  · unfold parityCheck; dsimp only; split
    · trivial
    · rfl

theorem mild_fmtCheck (s : State) (f : Fmt) (k : Fmt → Bool) : (fmtCheck s f k).mild := by
  unfold fmtCheck; split
  · exact mild_engCheck _ _
  · trivial

theorem mild_tabCheck (s : State) (tab : Bool) : (tabCheck s tab).mild := by
  unfold tabCheck; split
  · exact mild_fmtCheck _ _ _
  · trivial

theorem mild_tileCheck (s : State) (f : Fmt) (t : Tile) (dir : Dir) (idx : Nat) (g : BitVec 3) (r : Bool) :
    (tileCheck s f t dir idx g r).mild :=
  mild_and (mild_fmtCheck _ _ _) (mild_and (mild_engCheck _ _) (mild_engCheck _ _))

theorem mild_targetCheck (a : DWord) : (targetCheck a).mild := by
  apply mild_and <;> split <;> trivial

/-! The checks of the chapters the register forms stand in. -/

theorem mild_scalarCheck (i : Instr) (s : State) : (scalarCheck i s).mild := by
  refine mild_and (mild_commonCheck i s) ?_
  split
  · exact mild_waitUnless _ _
  · exact mild_waitUnless _ _
  · trivial

theorem mild_indexCheck (i : Instr) (s : State) : (indexCheck i s).mild := by
  refine mild_and (mild_commonCheck i s) ?_
  split
  · exact mild_engCheck _ _
  · split
    · exact mild_engCheck _ _
    · trivial
  · exact mild_and (mild_engCheck _ _) (mild_engCheck _ _)
  · trivial

theorem mild_vectorCheck (i : Instr) (s : State) : (vectorCheck i s).mild := by
  refine mild_and (mild_commonCheck i s) ?_
  cases i
  case vpld => exact mild_and (mild_waitUnless _ _) (mild_engCheck _ _)
  case vpldSwap => exact mild_waitUnless _ _
  case vcvt | vqnt | vdqn => exact mild_fmtCheck _ _ _
  case vtrd | vtwr => exact mild_tileCheck _ _ _ _ _ _ _
  case vaddf | vsubf | vmulf | vfmaf | vminf | vmaxf | vcmpf | vrcp | vrsq | vex2 | vlg2 | vtanh => exact mild_tabCheck _ _
  all_goals trivial

theorem mild_crossCheck (i : Instr) (s : State) : (crossCheck i s).mild :=
  mild_and (mild_commonCheck i s) (mild_waitUnless _ _)

theorem mild_controlCheck (i : Instr) (s : State) : (controlCheck i s).mild := by
  refine mild_and (mild_commonCheck i s) ?_
  cases i
  case jmpr | ret => exact mild_targetCheck _
  case trap | bkpt => exact rfl
  all_goals trivial

theorem mild_divergeCheck (i : Instr) (s : State) : (divergeCheck i s).mild := by
  refine mild_and (mild_commonCheck i s) ?_
  cases i
  case gif => exact mild_trapIf _ _
  case gelse | gend => exact mild_waitUnless _ _
  all_goals trivial

/-- Of the scheduling chapter ENQ and REC access memory; the rest raise causes of their own. -/
theorem mild_schedCheck {i : Instr} (s : State) (hi : registerForm i = true) : (schedCheck i s).mild := by
  refine mild_and (mild_commonCheck i s) ?_
  split
  · cases hi
  · cases hi
  · exact mild_trapIf _ _
  · exact mild_trapIf _ _
  · trivial

/-! Settling an instruction. -/

theorem settle_quiet {i : Instr} {v : Verdict} {eff : State → State} {s : State} (hv : v.mild) (he : Quiet s (eff s)) :
    Quiet s (settle i v eff s) := by
  cases v with
  | ok => exact he
  | wait h => exact (Quiet.onWait i s).trans (.holdPath h _)
  | trap t =>
    have hlog : logTrap t s = s := by simp [logTrap, show t.refused = none from hv]
    simpa [settle, hlog] using Quiet.takeTrap i t s
  | fault _ => cases hv
  | endCtx _ _ => cases hv
  | arrive _ => cases hv

theorem commit_quiet {i : Instr} {v : Verdict} {eff : State → State} {s t : State} (h : commit i v eff s = .next t) (hv : v.mild)
    (he : Quiet s (eff s)) : Quiet s t := by
  obtain rfl : settle i (if s.cur.go then .ok else v) eff s = t := by simpa [commit] using h
  refine settle_quiet ?_ he
  split
  · trivial
  · exact hv

/-! Effects: results in flight, and where the path goes on. -/

theorem xWrite_quiet (xd : XDst) (f : Nat → Word) (s : State) : Quiet s (xWrite xd f s) := by
  cases xd with
  | zero => exact .refl s
  | reg r => exact .inFlight _ _ _

theorem vWrite_quiet (lat : Nat) (d : VDst) (p : PReg) (f : Nat → Nat → Word) (s : State) : Quiet s (vWrite lat d p f s) := by
  cases d with
  | zero => exact .refl s
  | reg r => exact .inFlight _ _ _

theorem scalarOp_quiet {i : Instr} {lat : Nat} {rd : SReg} {f : State → DWord} {s t : State}
    (h : scalarOp i lat rd f s = .next t) : Quiet s t :=
  commit_quiet h (mild_scalarCheck i s) (.inFlight _ _ _)

theorem indexOp_quiet {i : Instr} {xd : XDst} {f : State → Nat → Word} {s t : State} (h : indexOp i xd f s = .next t) : Quiet s t :=
  commit_quiet h (mild_indexCheck i s) (xWrite_quiet _ _ _)

theorem laneOp_quiet {i : Instr} {lat : Nat} {d : VDst} {p : PReg} {f : State → Nat → Nat → Word} {s t : State}
    (h : laneOp i lat d p f s = .next t) : Quiet s t :=
  commit_quiet h (mild_vectorCheck i s) (vWrite_quiet _ _ _ _ _)

theorem predOp_quiet {i : Instr} {lat : Nat} {d p : PReg} {f : State → Nat → Half} {s t : State}
    (h : predOp i lat d p f s = .next t) : Quiet s t :=
  commit_quiet h (mild_vectorCheck i s) (.inFlight _ _ _)

theorem crossOp_quiet {i : Instr} {lat : Nat} {d : VDst} {p : PReg} {f : State → Nat → Nat → Word} {s t : State}
    (h : crossOp i lat d p f s = .next t) : Quiet s t :=
  commit_quiet h (mild_crossCheck i s) ((Quiet.useNet s).trans (vWrite_quiet _ _ _ _ _))

theorem execXcmpa_quiet {rowA rowB : Bool} {sa sb : Stride} {ra rb : XReg} {xd : XDst} {s t : State}
    (h : execXcmpa rowA rowB sa sb ra rb xd s = .next t) : Quiet s t := by
  refine commit_quiet h (mild_indexCheck _ s) ?_
  have hab : ∀ wa wb, Quiet s (inFlight (inFlight s 2 wa) 2 wb) := fun wa wb => (Quiet.inFlight s 2 wa).trans (.inFlight _ 2 wb)
  cases xd with
  | zero => exact hab _ _
  | reg r => exact (hab _ _).trans (.inFlight _ _ _)

theorem execGpsh_quiet {d : VDst} {a b : VSrc} {p : PReg} {s t : State} (h : execGpsh d a b p s = .next t) : Quiet s t := by
  refine commit_quiet h (mild_crossCheck _ s) ?_
  cases d with
  | zero => exact .useNet s
  | reg r => exact (Quiet.useNet s).trans (.inFlight _ _ _)

theorem execBr_quiet {c : Cond} {ra rb : SReg} {off : BitVec 24} {s t : State} (h : execBr c ra rb off s = .next t) : Quiet s t := by
  refine commit_quiet h (mild_controlCheck _ s) ?_
  split
  · exact .goTo _ _ _
  · exact .refl s

theorem execLoop_quiet {k : BitVec 2} {off : BitVec 24} {s t : State} (h : execLoop k off s = .next t) : Quiet s t := by
  refine commit_quiet h (mild_controlCheck _ s) ?_
  dsimp only
  split
  · exact .refl s
  · exact (Quiet.inFlight _ _ _).trans (.goTo _ _ _)

theorem execCsrw_quiet {c : Csr} {ra : SReg} {s t : State} (h : execCsrw c ra s = .next t) : Quiet s t := by
  refine commit_quiet h (mild_schedCheck s rfl) ?_
  cases c
  case lc | lnk | abase => exact .inFlight _ _ _
  all_goals exact .refl s

theorem registerForm_quiet {i : Instr} {s t : State} (hi : registerForm i = true) (h : exec i s = .next t) : Quiet s t := by
  cases i
  case add | sub | and | or | xor | andn | shl | shr | sar | min | max | cmp | sel | popc | clz | mul | mulh | addi | li | lih =>
    exact scalarOp_quiet h
  case div | rem => exact commit_quiet h (mild_scalarCheck _ s) ((Quiet.inFlight _ _ _).trans (.takeDivider _))
  case br => exact execBr_quiet h
  case loop => exact execLoop_quiet h
  case jmp | jmpr | ret => exact commit_quiet h (mild_controlCheck _ s) (.goTo _ _ _)
  case call => exact commit_quiet h (mild_controlCheck _ s) ((Quiet.inFlight _ _ _).trans (.goTo _ _ _))
  case trap | bkpt => exact commit_quiet h (mild_controlCheck _ s) (.refl s)
  case gany | gall | gcnt | gmsk => exact commit_quiet h (mild_divergeCheck _ s) (.inFlight _ _ _)
  case qid | qtop | qdie | csrr => exact commit_quiet h (mild_schedCheck s hi) (.inFlight _ _ _)
  case csrw => exact execCsrw_quiet h
  case xli | xmov | xadd | xsub | xmul | xand | xxor | xshl | xshr | xpopc | xpfx | xsel | xldc | xadv | xhash => exact indexOp_quiet h
  case xcmpa => exact execXcmpa_quiet h
  case vaddf | vsubf | vmulf | vfmaf | vminf | vmaxf | vrcp | vrsq | vex2 | vlg2 | vtanh | vaddi | vsubi | vmuli | vmulhi | vand | vor
      | vxor | vshl | vshr | vsar | vmini | vmaxi | vmov | vli | vbcs | vsel | vrot | vcvt | vqnt | vdqn | vred | vperm | vtrd =>
    exact laneOp_quiet h
  case vcmpf | vcmpi | plog => exact predOp_quiet h
  case epset | vpld | vpldSwap | vtwr => exact commit_quiet h (mild_vectorCheck _ s) (.inFlight _ _ _)
  case gshf | gbcst | gred | gscan => exact crossOp_quiet h
  case gpsh => exact execGpsh_quiet h
  all_goals cases hi

end Sys2Proof.Machine

namespace Sys2Proof
open Machine

/-- Settles O51: each register form is committed under a verdict that acts, waits or traps, and its effect only puts results in
flight or moves the path on. -/
theorem registerFormFrame : Obligations.RegisterFormFrame := by
  intro i s t hi h
  obtain ⟨-, hregs, hmem, hothers⟩ := registerForm_quiet hi h
  exact ⟨hregs, hmem, hothers⟩

end Sys2Proof
end

section
/-! Results that return: interlocked registers, L1 fills, store acknowledgements, aperture loads, bundle fetches (02 R56, R58, R59;
08 R195; 11 R254, R255). -/

namespace Sys2Proof.Machine

/-- An update of a gang is what it does to that gang. -/
theorem modGang_congr {s : State} {g : Nat} {f h : Gang → Gang} (hfh : f (getGang s g) = h (getGang s g)) :
    modGang s g f = modGang s g h := by
  simp [modGang, hfh]

/-! Interlocked registers. -/

/-- No interlocked result of a later bundle or slot has been written into k's register in this gang cycle (02 R59). -/
def LastWord (G : Gang) (k : Ilk) : Prop := ∀ w, w ∈ G.wrote → w.1 = k.reg → w.2 ≤ k.order

theorem writeIlk_of_lastWord {G : Gang} {k : Ilk} (v : DWord) (h : LastWord G k) :
    writeIlk k v G = setS k.reg v { G with wrote := (k.reg, k.order) :: G.wrote } := by
  have : G.wrote.any (fun w => w.1 == k.reg && decide (k.order < w.2)) = false := by
    simpa [LastWord] using h
  simp [writeIlk, this]

theorem writeIlk_of_not_lastWord {G : Gang} {k : Ilk} (v : DWord) (h : ¬ LastWord G k) : writeIlk k v G = G := by
  have : G.wrote.any (fun w => w.1 == k.reg && decide (k.order < w.2)) = true := by
    simpa [LastWord] using h
  simp [writeIlk, this]

section
variable {s : State} {g id : Nat} {k : Ilk} (hk : findIlk (getGang s g) id = some k)
include hk

theorem exec_interlockedResultWrite_at {c : Nat} {v : DWord} (hsrc : k.src = .at c v) (hc : c ≤ (getGang s g).gc) :
    exec (.interlockedResultWrite g id) s = .next (modGang s g (fun G => dropIlk id (writeIlk k v G))) := by
  have hdue : ilkDue (getGang s g) k = true := by simp [ilkDue, hsrc, hc]
  simp [exec, execInterlockedResultWrite, hk, hdue, hsrc]

theorem exec_interlockedResultWrite_sbc {ch : Nat} (hsrc : k.src = .sbc ch) (hf : (getGang s g).fresh.getLsbD ch = true) :
    exec (.interlockedResultWrite g id) s = .next (modGang s g (fun G =>
      dropIlk id (writeIlk k (spGet 0 G.latch ch) { G with fresh := G.fresh &&& ~~~(BitVec.twoPow 64 ch) }))) := by
  have hdue : ilkDue (getGang s g) k = true := by simp [ilkDue, hsrc, hf]
  simp [exec, execInterlockedResultWrite, hk, hdue, hsrc]

/-- An access that reads and writes in one step brings back what it read, unless it met poison. -/
theorem exec_interlockedResultWrite_rmw {t r n : Nat} {T : Txn} {a : Acc} (hsrc : k.src = .mem t)
    (hT : findTxn (getGang s g) t = some T) (hkind : T.kind = .rmw r n) (haccs : T.accs = [a]) (hdone : a.done = true)
    (hbad : a.bad = false) :
    exec (.interlockedResultWrite g id) s = .next (modGang (modGang s g (fun G => dropIlk id (dropTxn t G))) g
      (writeIlk k (BitVec.ofNat 64 (a.got.toNat % 2 ^ (8 * a.len))))) := by
  have hdue : ilkDue (getGang s g) k = true := by simp [ilkDue, hsrc, hT, hkind, haccs, hdone]
  simp [exec, execInterlockedResultWrite, hk, hdue, hsrc, hT, hkind, haccs, hbad]

end

/-! The L1 (08 R195). -/

/-- The line that an LDS has fetched: its two sectors, the lower one first. -/
def fillData (lo hi : Acc) : Nat := lo.got.toNat % 2 ^ 256 + hi.got.toNat % 2 ^ 256 * 2 ^ 256

/-- A clean fill of a class that allocates answers the LDS from its line, and places the line where no store to it is under way. -/
theorem exec_l1Fill {s : State} {g id r n va : Nat} {T : Txn} {lo hi : Acc} (hT : findTxn (getGang s g) id = some T)
    (hkind : T.kind = .lds r n va) (haccs : T.accs = [lo, hi]) (hdlo : lo.done = true) (hdhi : hi.done = true)
    (hblo : lo.bad = false) (hbhi : hi.bad = false) (hclo : lo.cls < 2) (hchi : hi.cls < 2) :
    ∃ t, exec (.l1Fill g id) s = .next t ∧ getGang t g = dropTxn id (answerIlk id
      (BitVec.ofNat 64 (fillData lo hi / 2 ^ (8 * (va % 64)) % 2 ^ (8 * n)))
      (if stsPending (getGang s g) (lo.pa / 64) then getGang s g
       else l1Put (lo.pa / 64) (Config.freeNat s.free % 4) (BitVec.ofNat 512 (fillData lo hi)) (getGang s g))) := by
  have hready : fillReady (getGang s g) id = true := by simp [fillReady, hT, hkind, haccs, hdlo, hdhi]
  have hown : (if va % 64 < 32 then lo else hi).bad = false := by split <;> assumption
  have hdraw : ∀ h, getGang { s with free := s.free + 1 } h = getGang s h := fun _ => rfl
  refine ⟨_, rfl, ?_⟩
  have hlo := Nat.not_le.mpr hclo
  have hhi := Nat.not_le.mpr hchi
  cases hst : stsPending (getGang s g) (lo.pa / 64) <;>
    simp [hready, hT, hkind, haccs, hblo, hbhi, hown, hlo, hhi, drawFree, hdraw, fillData, hst]

/-! Stores (11 R255) and aperture loads (11 R254). -/

@[simp] theorem deferMem_txns (s : State) (g : Nat) (T : Txn) (va : Nat) (em : Mask) :
    (getGang (deferMem s g T va em) g).txns = (getGang s g).txns := by simp [deferMem, deferCause]

theorem findTxn_dropTxn (id : Nat) (G : Gang) : findTxn (dropTxn id G) id = none := by simp [findTxn, dropTxn]

theorem findTxn_of_txns {G H : Gang} (h : H.txns = G.txns) (id : Nat) : findTxn H id = findTxn G id := by simp [findTxn, h]

theorem forceTxn_of_done {s : State} {g id : Nat} {T : Txn} (hT : findTxn (getGang s g) id = some T)
    (hdone : T.accs.all (·.done) = true) : forceTxn s g id = s := by
  have hnone : pendingOf T (fun _ => true) = [] := by
    simp only [pendingOf, List.map_eq_nil_iff, List.filter_eq_nil_iff]
    intro x hx
    have := List.all_eq_true.mp hdone x.1 (List.fst_mem_of_mem_zipIdx hx)
    simp [this]
  simp [forceTxn, hT, hnone]

/-- An aperture load that returns is no longer outstanding, whatever its accesses met. -/
theorem exec_apertureLoadReturn_drops {s : State} {g id q st c : Nat} {d : VDst} {T : Txn} (hT : findTxn (getGang s g) id = some T)
    (hkind : T.kind = .apLoad d q st) (hdue : T.due = some c) (hc : c ≤ (getGang s g).gc) :
    ∃ t, exec (.apertureLoadReturn g id) s = .next t ∧ findTxn (getGang t g) id = none := by
  refine ⟨_, rfl, ?_⟩
  simp only [hT, hkind, hdue, Nat.not_lt.mpr hc, if_false]
  split
  · assumption
  · have hdrop : ∀ fl, findTxn { dropTxn id (getGang (forceTxn s g id) g) with flight := fl } id = none := fun _ => findTxn_dropTxn id _
    split
    · simpa using hdrop _
    · rw [findTxn_of_txns (deferMem_txns _ _ _ _ _)]
      simpa using hdrop _

theorem exec_apertureLoadReturn_fills {s : State} {g id q st c : Nat} {d : VDst} {T : Txn} (hT : findTxn (getGang s g) id = some T)
    (hkind : T.kind = .apLoad d q st) (hdue : T.due = some c) (hc : c ≤ (getGang s g).gc) (hdone : T.accs.all (·.done) = true)
    (hbad : T.accs.any (·.bad) = false) :
    exec (.apertureLoadReturn g id) s
      = .next (modGang s g (fun G => { dropTxn id G with flight := G.flight.map (fillFlight T) })) := by
  have hnone : T.accs.filter (·.bad) = [] := by
    simpa [List.filter_eq_nil_iff, List.any_eq_false] using hbad
  simp [exec, execApertureLoadReturn, hT, hkind, hdue, Nat.not_lt.mpr hc, forceTxn_of_done hT hdone, hnone]

/-! Lanes of a vector, and the lanes an aperture load brings. -/

theorem foldl_lanes_lt (f : Nat → Word) (n : Nat) :
    (List.range n).foldl (fun a i => a + (f i).toNat * 2 ^ (32 * i)) 0 < 2 ^ (32 * n) := by
  induction n with
  | zero => simp
  | succ n ih =>
    rw [List.range_succ, List.foldl_append, List.foldl_cons, List.foldl_nil, show 32 * (n + 1) = 32 * n + 32 by omega, Nat.pow_add]
    have := (f n).isLt
    nlinarith

theorem testBit_foldl_lanes (f : Nat → Word) {n i b : Nat} (hi : i < n) (hb : b < 32) :
    ((List.range n).foldl (fun a i => a + (f i).toNat * 2 ^ (32 * i)) 0).testBit (32 * i + b) = (f i).getLsbD b := by
  induction n with
  | zero => omega
  | succ n ih =>
    rw [List.range_succ, List.foldl_append, List.foldl_cons, List.foldl_nil, Nat.add_comm, Nat.mul_comm,
      Nat.testBit_two_pow_mul_add _ (foldl_lanes_lt f n)]
    split
    · exact ih (by omega)
    · obtain rfl : i = n := by omega
      simp [BitVec.getLsbD]

theorem lane_lanes512 (f : Nat → Word) {i : Nat} (hi : i < 16) : lane (lanes512 f) i = f i := by
  ext b hb
  have hb512 : 32 * i + b < 512 := by omega
  simp [lane, lanes512, hb, hb512, testBit_foldl_lanes f hi hb, ← BitVec.getLsbD_eq_getElem, BitVec.getLsbD_ofNat]

theorem lane_blend (m : Half) (v w : BitVec 512) {i : Nat} (hi : i < 16) :
    lane (blend m v w) i = if m.getLsbD i then lane v i else lane w i := by
  rw [blend, lane_lanes512 _ hi]

theorem testBit_sum_two_pow {l : List Nat} (h : l.Nodup) (i : Nat) : ((l.map (2 ^ ·)).sum).testBit i = decide (i ∈ l) := by
  have hsum : (l.map (2 ^ ·)).sum = ∑ k ∈ l.toFinset, 2 ^ k := (List.sum_toFinset _ h).symm
  rw [hsum, Bool.eq_iff_iff]
  simp [← Nat.mem_bitIndices, ← List.mem_toFinset (l := Nat.bitIndices _), Finset.toFinset_bitIndices_sum_two_pow]

/-- The accesses of a load for one engine. -/
def accsOf (T : Txn) (e : Nat) : List Acc := T.accs.filter (fun a => a.eng == e)

theorem mem_accsOf {T : Txn} {e : Nat} {a : Acc} : a ∈ accsOf T e ↔ a ∈ T.accs ∧ a.eng = e := by simp [accsOf]

section
variable {T : Txn} (hT : (T.accs.map (fun a => (a.eng, a.lane))).Nodup)
include hT

theorem nodup_lanes_accsOf (e : Nat) : ((accsOf T e).map (·.lane)).Nodup := by
  have hsub : ((accsOf T e).map (fun a => (a.eng, a.lane))).Nodup := hT.sublist (List.filter_sublist.map _)
  have hpair : (accsOf T e).map (fun a => (a.eng, a.lane)) = ((accsOf T e).map (·.lane)).map (fun l => (e, l)) := by
    rw [List.map_map]
    exact List.map_congr_left fun a ha => by simp [(mem_accsOf.mp ha).2]
  exact .of_map _ (hpair ▸ hsub)

theorem apLanes_mask (e : Nat) {i : Nat} (hi : i < 16) :
    (apLanes T e).1.getLsbD i = decide (i ∈ (accsOf T e).map (·.lane)) := by
  have hsum : (apLanes T e).1 = BitVec.ofNat 16 (((accsOf T e).map (·.lane)).map (2 ^ ·)).sum := by
    rw [List.sum_eq_foldl, List.foldl_map, List.foldl_map]
    rfl
  rw [hsum, BitVec.getLsbD_ofNat, testBit_sum_two_pow (nodup_lanes_accsOf hT e)]
  simp [hi]

theorem apLanes_data {a : Acc} (ha : a ∈ T.accs) (hi : a.lane < 16) : lane (apLanes T a.eng).2 a.lane = a.got.setWidth 32 := by
  have hmem : a ∈ accsOf T a.eng := mem_accsOf.mpr ⟨ha, rfl⟩
  have hfind : (accsOf T a.eng).find? (fun b => b.lane == a.lane) = some a := by
    obtain ⟨b, hb⟩ : ∃ b, (accsOf T a.eng).find? (fun b => b.lane == a.lane) = some b :=
      Option.isSome_iff_exists.mp (List.find?_isSome.mpr ⟨a, hmem, by simp⟩)
    have hlane : b.lane = a.lane := by simpa using List.find?_some hb
    rw [hb, List.inj_on_of_nodup_map (nodup_lanes_accsOf hT _) (List.mem_of_find?_eq_some hb) hmem hlane]
  simp only [apLanes, lane_lanes512 _ hi]
  exact congrArg (fun o => match o with | some a => BitVec.setWidth 32 (Acc.got a) | none => 0) hfind

end

/-- One engine's part of a vector result in flight, with the lanes its load has brought. -/
def fillLanes (T : Txn) (x : Nat × Half × BitVec 512) : Nat × Half × BitVec 512 :=
  if T.accs.any (fun a => a.eng == x.1) then
    (x.1, x.2.1 ||| (apLanes T x.1).1, blend (apLanes T x.1).1 (apLanes T x.1).2 x.2.2)
  else x

theorem fillFlight_v {T : Txn} {f : Flight} {r : Nat} {es : List (Nat × Half × BitVec 512)} (ht : f.txn = some T.id)
    (hw : f.w = .v r es) : fillFlight T f = { f with txn := none, w := .v r (es.map (fillLanes T)) } := by
  simp only [fillFlight, ht, hw, if_true]
  rfl

theorem fillLanes_eng (T : Txn) (x : Nat × Half × BitVec 512) : (fillLanes T x).1 = x.1 := by
  unfold fillLanes; split <;> rfl

section
variable {T : Txn} (hT : (T.accs.map (fun a => (a.eng, a.lane))).Nodup) (x : Nat × Half × BitVec 512)
include hT

theorem fillLanes_named {a : Acc} (ha : a ∈ T.accs) (he : a.eng = x.1) (hi : a.lane < 16) :
    (fillLanes T x).2.1.getLsbD a.lane = true ∧ lane (fillLanes T x).2.2 a.lane = a.got.setWidth 32 := by
  have hany : T.accs.any (fun a => a.eng == x.1) = true := List.any_eq_true.mpr ⟨a, ha, by simp [he]⟩
  have hmask : (apLanes T x.1).1.getLsbD a.lane = true := by
    rw [apLanes_mask hT _ hi]
    simpa using ⟨a, mem_accsOf.mpr ⟨ha, he⟩, rfl⟩
  simp only [fillLanes, hany, if_true, lane_blend _ _ _ hi, hmask]
  exact ⟨by simp [hmask], he ▸ apLanes_data hT ha hi⟩

theorem fillLanes_unnamed {i : Nat} (hi : i < 16) (hnone : ∀ a, a ∈ T.accs → a.eng = x.1 → a.lane ≠ i) :
    (fillLanes T x).2.1.getLsbD i = x.2.1.getLsbD i ∧ lane (fillLanes T x).2.2 i = lane x.2.2 i := by
  unfold fillLanes
  split
  · have hmask : (apLanes T x.1).1.getLsbD i = false := by
      rw [apLanes_mask hT _ hi]
      simpa [mem_accsOf] using fun a ha he => hnone a ha he
    simp [hmask, lane_blend _ _ _ hi]
  · exact ⟨rfl, rfl⟩

end

/-! Bundle fetches. -/

theorem spFind_icache_putUnit (s : State) (g pa : Nat) (d : BitVec 512) :
    spFind (getPair (putUnit s g pa d) (gangPair g)).icache (pa / 64) = some d := by
  simp [putUnit, spFind_spPut]

theorem exec_bundleFetch {s : State} {g va pa key cls x y : Nat} {p : PathSlot} {T : Team} {es : List TlbEnt}
    (hready : fetchReady s g p = true) (hteam : gangTeam s g = some T) (htarget : fetchTarget s g p = some va)
    (htr : unitTr s g T.ctx va = (.ok pa key cls x y, es)) (hpop : populated s pa = true)
    (hgood : (readUnit (noteReader (gangDie g) pa cls (cacheWalk s es)) (gangDie g) (pa / 64 * 64) key cls).2.1 = false) :
    ∃ t, exec (.bundleFetch g p) s = .next (putUnit t g (pa / 64 * 64)
      (readUnit (noteReader (gangDie g) pa cls (cacheWalk s es)) (gangDie g) (pa / 64 * 64) key cls).1) := by
  simp only [exec, execBundleFetch, hready, hteam, htarget, htr, hpop, hgood, if_true]
  exact ⟨_, rfl⟩

end Sys2Proof.Machine

namespace Sys2Proof
open Machine

/-- Settles O37: each event under its readiness, an aperture load lane by lane. -/
theorem returnEvents : Obligations.ReturnEvents := by
  intro s g id p
  dsimp only
  refine ⟨?land, ?at_, ?late, ?sbc, ?rmw, ?fill, ?ack, ?drops, ?fills, ?lanes, ?fetch, rfl⟩
  case land => intro h; simp [exec, execResultLand, h]
  case at_ =>
    intro k c v hk hsrc hc hlast
    rw [exec_interlockedResultWrite_at hk hsrc hc]
    exact congrArg _ (modGang_congr (congrArg (dropIlk id) (writeIlk_of_lastWord v hlast)))
  case late =>
    intro k c v hk hsrc hc hlast
    rw [exec_interlockedResultWrite_at hk hsrc hc]
    exact congrArg _ (modGang_congr (congrArg (dropIlk id) (writeIlk_of_not_lastWord v hlast)))
  case sbc =>
    intro k ch hk hsrc hf hlast
    rw [exec_interlockedResultWrite_sbc hk hsrc hf]
    exact congrArg _ (modGang_congr (congrArg (dropIlk id) (writeIlk_of_lastWord _ hlast)))
  case rmw =>
    intro k t T a r n hk hsrc hT hkind haccs hdone hbad hlast
    rw [exec_interlockedResultWrite_rmw hk hsrc hT hkind haccs hdone hbad]
    refine congrArg _ (modGang_congr (writeIlk_of_lastWord _ ?_))
    rw [getGang_modGang, if_pos rfl]
    exact hlast
  case fill =>
    intro T r n va lo hi hT hkind haccs hdlo hdhi hblo hbhi hclo hchi
    obtain ⟨t, ht, hg⟩ := exec_l1Fill hT hkind haccs hdlo hdhi hblo hbhi hclo hchi
    exact ⟨t, ht, fun hno => ⟨_, by rw [hg, if_neg (by simp [hno])]; rfl⟩, fun hst => by rw [hg, if_pos hst]; rfl⟩
  case ack =>
    intro T hT hid hdone
    simp [exec, execStoreAck, hT, hid, hdone]
  case drops => exact fun T d q st c => exec_apertureLoadReturn_drops
  case fills => exact fun T d q st c => exec_apertureLoadReturn_fills
  case lanes =>
    intro T f r es ht hw hnodup hlt
    refine ⟨fillLanes T, fillFlight_v ht hw, fun x _ => ⟨fillLanes_eng T x, fun i hi => ⟨?_, fillLanes_unnamed hnodup x hi⟩⟩⟩
    rintro a ha he rfl
    exact fillLanes_named hnodup x ha he hi
  case fetch =>
    intro T va pa key cls x y es hready hteam htarget htr hpop hgood
    obtain ⟨t, ht⟩ := exec_bundleFetch hready hteam htarget htr hpop hgood
    exact ⟨_, ht, by simpa using spFind_icache_putUnit t g (pa / 64 * 64) _⟩

end Sys2Proof
end

section
/-! The opcodes that no table lists (03 R84), and words written out from the encodings (02 R39–R43). -/

namespace Sys2Proof

/-- A slot's opcode is the low byte of its value, whatever the width of the slot (02 R38). -/
theorem opcode_setWidth {m : Nat} (hm : 8 ≤ m) (w : BitVec 64) : ((w.setWidth m).extractLsb' 0 8).toNat = w.toNat % 256 := by
  have hdvd : 2 ^ 8 ∣ 2 ^ m := Nat.pow_dvd_pow 2 hm
  simpa using Nat.mod_mod_of_dvd w.toNat hdvd

/-- In V0 the arms of the cross-engine forms, 0x30 to 0x34, answer as the last arm does (03 R82: V1 only). -/
theorem decodeV0_unassigned {w : BitVec 48} (h : unassignedIn .v false (w.extractLsb' 0 8).toNat = true) :
    decodeV false w = .error .unassignedOpcode := by
  unfold decodeV
  extract_lets
  split
  on_goal -1 => rfl
  case h_41 | h_42 | h_43 | h_44 | h_45 => rfl
  all_goals
    rename_i op
    rw [op] at h
    exact absurd h Bool.false_ne_true

/-- The last arm of a slot's decoder answers so, and every other arm but V0's cross-engine ones stands at an opcode outside R84's
ranges. -/
theorem decodeSlot_unassigned {k : SlotKind} {v1 : Bool} {w : BitVec 64} (h : unassignedIn k v1 (w.toNat % 256) = true) :
    decodeSlot k v1 w = .error .unassignedOpcode := by
  have h32 := opcode_setWidth (m := 32) (by decide) w
  have h48 := opcode_setWidth (m := 48) (by decide) w
  have h64 : (w.extractLsb' 0 8).toNat = w.toNat % 256 := by simp
  cases k
  case' s =>
    rw [← h48] at h
    change decodeS _ = _
    unfold decodeS
  case' x =>
    rw [← h48] at h
    change decodeX _ = _
    unfold decodeX
  case' v =>
    cases v1
    case false => exact decodeV0_unassigned (h48 ▸ h)
    rw [← h48] at h
    change decodeV true _ = _
    unfold decodeV
  case' t =>
    rw [← h64] at h
    change decodeT _ = _
    unfold decodeT
  case' l =>
    rw [← h48] at h
    change decodeL _ = _
    unfold decodeL
  case' w =>
    rw [← h48] at h
    change decodeW _ = _
    unfold decodeW
  case' c =>
    rw [← h64] at h
    change decodeC _ = _
    unfold decodeC
  case' y =>
    rw [← h32] at h
    change decodeY _ = _
    unfold decodeY
  all_goals
    extract_lets
    split
    on_goal -1 => rfl
    all_goals
      rename_i op
      rw [op] at h
      exact absurd h Bool.false_ne_true

theorem decodeSlots_cons_of_error {n : Nat} {w : BitVec 64} {e : DecErr} (rest : List (Nat × BitVec 64))
    (h : decodeSlot (slotSpec n).1 (slotSpec n).2.1 w = .error e) :
    decodeSlots ((n, w) :: rest) = .error (some n, w.setWidth 8, e) := by
  simp only [decodeSlots, h]

/-- Settles O60: the slot that holds such an opcode is the first one of the bundle that does not decode, with what follows it
unread. -/
theorem unassignedOpcodes : Obligations.UnassignedOpcodes :=
  ⟨fun _ _ _ => decodeSlot_unassigned, fun _ _ rest h => decodeSlots_cons_of_error rest (decodeSlot_unassigned h), rfl⟩

/-- Settles O54: every word is a fixed one, and the decoder run on it gives the instruction; the bundle is the one that 03 assembles
before R80, the WAIT that of 11 R279. -/
theorem decodeWords : Obligations.DecodeWords := by
  unfold Obligations.DecodeWords
  exact ⟨rfl, rfl, rfl, rfl, rfl, rfl, rfl, rfl⟩

end Sys2Proof
end

section
/-! What every step keeps: each function of the state is shown to keep the invariant, from the state's own operations up to
`exec`, the issue of a bundle and the clock (08 R205; 19 R401; 09 R222). -/

namespace Sys2Proof.Machine

/-- The invariant speaks of memory, the keys and the place in the tick alone. -/
theorem inv_update {s : State} {tick roff memBad sl repl replBad readers frames left priv ntag dev badWays tlb unmaps pkts budget
    flows turns units irqs inputs free signals sbcs rounds teams nextTeam gangs pairs dies mgmt cur served tried} (h : Inv s) :
    Inv { s with
      tick := tick, roff := roff, memBad := memBad, sl := sl, repl := repl, replBad := replBad, readers := readers
      frames := frames, left := left, priv := priv, ntag := ntag, dev := dev, badWays := badWays, tlb := tlb, unmaps := unmaps
      pkts := pkts, budget := budget, flows := flows, turns := turns, units := units, irqs := irqs, inputs := inputs, free := free
      signals := signals, sbcs := sbcs, rounds := rounds, teams := teams, nextTeam := nextTeam, gangs := gangs, pairs := pairs
      dies := dies, mgmt := mgmt, cur := cur, served := served, tried := tried } := h

/-- A fold of what keeps the invariant keeps it. -/
theorem foldl_inv {α : Type} {f : State → α → State} {xs : List α} {s : State}
    (hf : ∀ s x, Inv s → Inv (f s x)) (h : Inv s) : Inv (xs.foldl f s) := by
  induction xs generalizing s with
  | nil => exact h
  | cons x xs ih => exact ih (hf s x h)

theorem foldl_snd_inv {α β : Type} {f : β × State → α → β × State} {xs : List α} {r : β × State}
    (hf : ∀ r x, Inv r.2 → Inv (f r x).2) (h : Inv r.2) : Inv (xs.foldl f r).2 := by
  induction xs generalizing r with
  | nil => exact h
  | cons x xs ih => exact ih (hf r x h)

theorem inv_ite {c : Prop} [Decidable c] {t u : State} (ht : Inv t) (hu : Inv u) : Inv (if c then t else u) := by
  split
  · exact ht
  · exact hu

/-- The next state of an outcome, if it is one, meets the invariant. -/
def OutInv : Outcome → Prop
  | .next t => Inv t
  | .fault _ | .refused _ => True

theorem after_inv {o : Outcome} {f : State → Outcome} (ho : OutInv o) (hf : ∀ {t}, Inv t → OutInv (f t)) :
    OutInv (after o f) := by
  cases o with
  | next t => exact hf ho
  | fault | refused => trivial

section
variable {s : State}

/-! The state's own operations. -/

theorem setGang_inv {g : Nat} {G : Gang} (h : Inv s) : Inv (setGang s g G) :=
  inv_update h

theorem modGang_inv {g : Nat} {f : Gang → Gang} (h : Inv s) : Inv (modGang s g f) :=
  (modGang_kept ..).inv h

theorem modPair_inv {pr : Nat} {f : Pair → Pair} (h : Inv s) : Inv (modPair s pr f) :=
  inv_update h

theorem modDie_inv {d : Nat} {f : GDie → GDie} (h : Inv s) : Inv (modDie s d f) :=
  inv_update h

theorem modTeam_inv {t : Nat} {f : Team → Team} (h : Inv s) : Inv (modTeam s t f) := by
  unfold modTeam
  split
  · exact inv_update h
  · exact h

theorem modCur_inv {f : Gang → Gang} (h : Inv s) : Inv (modCur s f) :=
  modGang_inv h

theorem modCurPath_inv {f : Machine.Path → Machine.Path} (h : Inv s) : Inv (modCurPath s f) :=
  modCur_inv h

theorem devSet_inv {pa : Nat} {v : DWord} (h : Inv s) : Inv (devSet s pa v) :=
  (devSet_kept ..).inv h

theorem inFlight_inv {lat : Nat} {w : Wr} (h : Inv s) : Inv (inFlight s lat w) :=
  modCur_inv h

theorem addIlk_inv {reg : Nat} {src : IlkSrc} (h : Inv s) : Inv (addIlk s reg src) :=
  modCur_inv h

theorem latchTrap_inv {g : Nat} {c : Cause} (h : Inv s) : Inv (latchTrap s g c) := by
  unfold latchTrap
  dsimp only
  split
  · exact modTeam_inv (modGang_inv h)
  · exact modGang_inv h

theorem holdPath_inv {x0 : Hold} (h : Inv s) : Inv (holdPath x0 s) :=
  modCurPath_inv h

theorem raiseIrq_inv {i : Irq} (h : Inv s) : Inv (raiseIrq s i) :=
  (raiseIrq_kept ..).inv h

/-! Errors, faults and the end of a context. -/

theorem logErr_inv {r : ErrRec} (h : Inv s) : Inv (logErr s r) := by
  have hw : ∀ {xs : List (DWord × Nat)} {base : Nat}, Inv (xs.foldl (fun s p => devSet s (base + 8 * p.2) p.1) s) :=
    foldl_inv (fun _ _ h => devSet_inv h) h
  have hu : ∀ {c : Prop} [Decidable c] {t : State} {pa : Nat} {v : DWord}, Inv t → Inv (if c then devSet t pa v else t) :=
    fun ht => inv_ite (devSet_inv ht) ht
  have hi : ∀ {c : Prop} [Decidable c] {t : State} {q : Irq}, Inv t → Inv (if c then t else raiseIrq t q) :=
    fun ht => inv_ite ht (raiseIrq_inv ht)
  exact inv_ite (inv_update (hi (hu (devSet_inv hw)))) (hi (hu (devSet_inv hw)))

theorem cacheWalk_inv {es : List TlbEnt} (h : Inv s) : Inv (cacheWalk s es) :=
  inv_update (foldl_inv (fun _ _ h => (spendFlit_kept ..).inv h) h)

theorem dropWalks_inv {agent : Nat} (h : Inv s) : Inv (dropWalks agent s) :=
  inv_update h

theorem fbWrite_inv {d n : Nat} {v : BitVec 256} (h : Inv s) : Inv (fbWrite s d n v) :=
  foldl_inv (fun _ _ h => devSet_inv h) h

theorem putFault_inv {d n : Nat} {img : BitVec 256} {team : Nat} (h : Inv s) : Inv (putFault s d n img team) :=
  raiseIrq_inv (modDie_inv (fbWrite_inv h))

theorem addNeed_inv {d : Nat} {f : FaultRec} (h : Inv s) : Inv (addNeed s d f) :=
  modDie_inv (foldl_inv (fun _ _ h => inv_ite (fbWrite_inv h) h) h)

theorem recordFault_inv {d : Nat} {f : FaultRec} (h : Inv s) : Inv (recordFault s d f) := by
  unfold recordFault
  dsimp only
  refine inv_ite (addNeed_inv h) ?_
  split
  · exact inv_ite (putFault_inv h) (modDie_inv h)
  · exact modDie_inv h

theorem grantEntry_inv {d : Nat} (h : Inv s) : Inv (grantEntry s d) := by
  unfold grantEntry
  split
  · exact putFault_inv (modDie_inv h)
  · exact h

theorem freeEntry_inv {d n : Nat} (h : Inv s) : Inv (freeEntry s d n) :=
  grantEntry_inv (fbWrite_inv h)

theorem keepSpare_inv {g : Nat} (h : Inv s) : Inv (keepSpare g s) := by
  unfold keepSpare
  dsimp only
  split
  · exact inv_ite (modPair_inv h) h
  · exact h

theorem endAdmission_inv {t : Nat} (h : Inv s) : Inv (endAdmission s t) := by
  unfold endAdmission
  dsimp only
  split
  · exact h
  · exact inv_update (foldl_inv (fun _ _ h => devSet_inv (modGang_inv (inv_ite (keepSpare_inv h) h))) h)

theorem unbindGrid_inv {c grid : Nat} (h : Inv s) : Inv (unbindGrid s c grid) :=
  inv_update (foldl_inv (fun _ _ h => inv_ite (devSet_inv h) h) h)

theorem unbindAll_inv {c : Nat} (h : Inv s) : Inv (unbindAll s c) :=
  inv_update (foldl_inv (fun _ _ h => devSet_inv h) h)

theorem endContext_inv {c : Nat} {cause : BitVec 8} {va loc : Nat} (h : Inv s) : Inv (endContext s c cause va loc) := by
  unfold endContext
  dsimp only
  refine inv_ite h (raiseIrq_inv (devSet_inv (devSet_inv (devSet_inv ?_))))
  refine foldl_inv (fun _ _ h => foldl_inv (fun _ _ h => inv_ite (freeEntry_inv h) h) h) (unbindAll_inv (inv_update ?_))
  exact foldl_inv (fun _ _ h => endAdmission_inv ((publishTeam_kept ..).inv h)) (inv_update h)

theorem holdOnFaults_inv {vas : List (Nat × Nat)} (h : Inv s) : Inv (holdOnFaults vas s) := by
  unfold holdOnFaults
  dsimp only
  split
  · exact h
  · exact holdPath_inv (foldl_inv (fun _ _ h => recordFault_inv h) h)

theorem endFromIssue_inv {cause : BitVec 8} {va : Nat} (h : Inv s) : Inv (endFromIssue cause va s) := by
  unfold endFromIssue
  split
  · exact h
  · exact endContext_inv h

/-! The divergence stack and what resolves on it. -/

theorem sendFlow_inv {g pa : Nat} {back : Bool} (h : Inv s) : Inv (sendFlow g pa back s) :=
  inv_update h

theorem pushEnt_inv {g : Nat} {e : StkEnt} (h : Inv s) : Inv (pushEnt s g e) :=
  inv_ite (modGang_inv h) (modGang_inv ((areaPut_kept ..).inv (sendFlow_inv h)))

theorem readBack_inv {g : Nat} (h : Inv s) : Inv (readBack g s) :=
  inv_ite h (inv_ite (modGang_inv h) (modGang_inv (sendFlow_inv h)))

theorem refillStack_inv {g : Nat} (h : Inv s) : Inv (refillStack g s) :=
  foldl_inv (fun _ _ h => readBack_inv h) h

theorem popIdx_inv {g i : Nat} (h : Inv s) : Inv (popIdx s g i) :=
  refillStack_inv (modGang_inv h)

theorem setAny_inv {g i : Nat} {f : StkEnt → StkEnt} (h : Inv s) : Inv (setAny s g i f) := by
  unfold setAny
  dsimp only
  refine inv_ite (modGang_inv h) ?_
  refine inv_ite h ?_
  split
  · exact (areaPut_kept ..).inv h
  · exact h

theorem popAny_inv {g i : Nat} (h : Inv s) : Inv (popAny s g i) :=
  inv_ite (popIdx_inv h) (modGang_inv (foldl_inv (fun _ _ h => (areaPut_kept ..).inv h) h))

theorem setPair_inv {g : Nat} {f : StkEnt → StkEnt} (h : Inv s) : Inv (setPair s g f) := by
  unfold setPair
  split
  · exact setAny_inv h
  · exact h

theorem swapStack_inv {g : Nat} (h : Inv s) : Inv (swapStack s g) :=
  modGang_inv (foldl_inv (fun _ _ h => inv_ite h ((areaPut_kept ..).inv h)) h)

theorem retagArrivals_inv {g : Nat} {f : PathSlot → Option PathSlot} (h : Inv s) : Inv (retagArrivals s g f) :=
  inv_update h

theorem mergePair_inv {g i : Nat} {next : VAddr} {t : Nat} (h : Inv s) : Inv (mergePair s g i next t) := by
  unfold mergePair
  dsimp only
  split
  · exact h
  · exact popAny_inv (modGang_inv (retagArrivals_inv h))

theorem arrivePair_inv {g : Nat} {p : PathSlot} {i : Nat} {next : VAddr} {t : Nat} (h : Inv s) :
    Inv (arrivePair s g p i next t) := by
  unfold arrivePair
  dsimp only
  split
  · exact inv_ite (mergePair_inv (modGang_inv (setAny_inv h))) (modGang_inv (setAny_inv h))
  · exact modGang_inv (setAny_inv h)

theorem endSlot_inv {g : Nat} {p : PathSlot} (h : Inv s) : Inv (endSlot g p s) :=
  modGang_inv (inv_ite (setPair_inv (retagArrivals_inv h)) (retagArrivals_inv h))

theorem resolveLoop_inv {g : Nat} {p : PathSlot} {t fuel : Nat} (h : Inv s) : Inv (resolveLoop g p t fuel s) := by
  induction fuel generalizing s with
  | zero => exact h
  | succ fuel ih =>
    unfold resolveLoop
    dsimp only
    refine inv_ite (inv_ite h (modGang_inv h)) ?_
    split
    · refine inv_ite ?_ (inv_ite ?_ ?_)
      · cases p <;> exact inv_ite (arrivePair_inv (modGang_inv h)) (endSlot_inv (modGang_inv (setAny_inv (modGang_inv h))))
      · exact inv_ite (modGang_inv (setAny_inv h)) (inv_ite (ih (popAny_inv (setAny_inv h))) (ih (setAny_inv h)))
      · exact inv_ite (modGang_inv h) (ih (popAny_inv h))
    · exact endSlot_inv h

/-! Accesses at their homes, and what they deliver. -/

theorem addAcc_inv {r : List Acc × State} {va len : Nat} {need : Rights} {op : AccOp} {byp : Bool} {eng ln : Nat} (h : Inv r.2) :
    Inv (addAcc s r va len need op byp eng ln).2 :=
  cacheWalk_inv h

theorem actAtHome_inv {team : Option Nat} {a : Machine.Acc} (h : Inv s) : Inv ((actAtHome s team a).2.2) := by
  unfold actAtHome
  dsimp only
  split
  · exact (homeReadAt_kept ..).inv h
  · exact (homeWriteAt_kept ..).inv h
  · split
    · exact (homeReadAt_kept ..).inv ((publishSector_kept ..).inv h)
    · exact (homeWriteAt_kept ..).inv ((homeReadAt_kept ..).inv ((publishSector_kept ..).inv h))
  · split
    · exact (homeReadAt_kept ..).inv ((publishSector_kept ..).inv h)
    · split
      · exact (homeWriteAt_kept ..).inv ((homeReadAt_kept ..).inv ((publishSector_kept ..).inv h))
      · exact (homeReadAt_kept ..).inv ((publishSector_kept ..).inv h)
  · exact (homeReadAt_kept ..).inv ((remoteAcquire_kept ..).inv h)

theorem performAcc_inv {g id k : Nat} {a : Machine.Acc} (h : Inv s) : Inv (performAcc s g id k a) :=
  modGang_inv (inv_ite (modGang_inv (actAtHome_inv h)) (inv_ite (modGang_inv (actAtHome_inv h)) (actAtHome_inv h)))

theorem performLeft_inv {n : Nat} (h : Inv s) : Inv (performLeft s n) := by
  unfold performLeft
  dsimp only
  split
  · exact inv_update (actAtHome_inv ((spendFlit_kept ..).inv h))
  · exact h

theorem modBank_inv {die bank : Nat} {f : Bank → Bank} (h : Inv s) : Inv (modBank s die bank f) :=
  modDie_inv h

theorem noteReader_inv {die pa cls : Nat} (h : Inv s) : Inv (noteReader die pa cls s) :=
  inv_ite (inv_update h) h

theorem performTxn_inv {g id k : Nat} (h : Inv s) : Inv (performTxn s g id k) := by
  have hd : ∀ {c : Prop} [Decidable c] {die : Nat} {ks : List Nat} {T : Txn} {a : Acc},
      Inv (ks.foldl (fun s n => match T.accs[n]? with | some b => performAcc s g id n b | none => s)
        (if c then noteReader die a.pa a.cls (spendFlit a.pa 0 s) else spendFlit a.pa 0 s)) :=
    foldl_inv (fun _ _ h => by split; exacts [performAcc_inv h, h])
      (inv_ite (noteReader_inv ((spendFlit_kept ..).inv h)) ((spendFlit_kept ..).inv h))
  unfold performTxn
  dsimp only
  split
  · exact h
  split
  · exact h
  split
  · refine inv_ite hd ?_
    split
    · exact modGang_inv (modGang_inv hd)
    · exact modBank_inv hd
  · exact hd

theorem coreRead_inv {pa key len : Nat} (h : Inv s) : Inv (coreRead s pa key len) :=
  inv_ite h (inv_ite (logErr_inv h) ((homeReadAt_kept ..).inv h))

theorem coreWrite_inv {pa key : Nat} {data : List Byte} (h : Inv s) : Inv (coreWrite s pa key data) :=
  inv_ite h (inv_ite (logErr_inv h) ((homeWriteAt_kept ..).inv h))

theorem execHomeRead_inv {r : HomeReq} (h : Inv s) : OutInv (execHomeRead r s) := by
  unfold execHomeRead
  dsimp only [OutInv]
  refine inv_ite ?_ h
  split
  · exact performTxn_inv h
  · exact performLeft_inv h
  · exact coreRead_inv h

theorem execHomeWritePerform_inv {r : HomeReq} (h : Inv s) : OutInv (execHomeWritePerform r s) := by
  unfold execHomeWritePerform
  dsimp only [OutInv]
  refine inv_ite ?_ h
  split
  · exact performTxn_inv h
  · exact performLeft_inv h
  · exact coreWrite_inv h

theorem execL1Fill_inv {g id : Nat} (h : Inv s) : OutInv (execL1Fill g id s) := by
  unfold execL1Fill
  dsimp only [OutInv]
  refine inv_ite ?_ h
  split
  · exact h
  · split
    · refine inv_ite (modGang_inv (modGang_inv (inv_ite (inv_update h) (modGang_inv (inv_update h))))) ?_
      exact modGang_inv (inv_ite (inv_update h) (modGang_inv (inv_update h)))
    · exact h

theorem execInterlockedResultWrite_inv {g id : Nat} (h : Inv s) : OutInv (execInterlockedResultWrite g id s) := by
  unfold execInterlockedResultWrite
  dsimp only [OutInv]
  split
  · exact h
  · refine inv_ite h ?_
    split
    · exact modGang_inv h
    · exact h
    · exact modGang_inv h
    · split
      · exact h
      · refine inv_ite (modGang_inv (by split; exacts [modGang_inv (modGang_inv h), modGang_inv h])) ?_
        exact modGang_inv (by split; exacts [modGang_inv (modGang_inv h), modGang_inv h])

theorem execStoreAck_inv {g id : Nat} (h : Inv s) : OutInv (execStoreAck g id s) := by
  unfold execStoreAck
  dsimp only [OutInv]
  split
  · exact inv_ite (modGang_inv h) h
  · exact h

theorem forceLeft_inv {n : Nat} {x : LeftAcc} (h : Inv s) : Inv (forceLeft n s x) := by
  induction n generalizing s x with
  | zero => exact h
  | succ n ih => exact performLeft_inv (foldl_inv (fun _ _ h => ih h) h)

theorem forceLefts_inv {g : Nat} {a : Machine.Acc} (h : Inv s) : Inv (forceLefts g a s) :=
  foldl_inv (fun _ _ h => forceLeft_inv h) h

theorem forceAcc_inv {g n : Nat} {k : Nat × Nat} (h : Inv s) : Inv (forceAcc g n s k) := by
  induction n generalizing s k with
  | zero => exact h
  | succ n ih =>
    unfold forceAcc
    split
    · exact h
    split
    · exact h
    · exact inv_ite h (performTxn_inv (forceLefts_inv (foldl_inv (fun _ _ h => ih h) h)))

theorem forceTxn_inv {g id : Nat} (h : Inv s) : Inv (forceTxn s g id) := by
  unfold forceTxn
  split
  · exact foldl_inv (fun _ _ h => forceAcc_inv h) h
  · exact h

theorem forceLoads_inv {g : Nat} {p : PathSlot} (h : Inv s) : Inv (forceLoads g p s) :=
  foldl_inv (fun _ _ h => forceTxn_inv h) h

theorem execApertureLoadReturn_inv {g id : Nat} (h : Inv s) : OutInv (execApertureLoadReturn g id s) := by
  unfold execApertureLoadReturn
  dsimp only [OutInv]
  split
  · exact h
  · split
    · refine inv_ite h ?_
      split
      · exact forceTxn_inv h
      · exact inv_ite (modGang_inv (forceTxn_inv h)) (modGang_inv (modGang_inv (forceTxn_inv h)))
    · exact h

/-! Releases, barriers and rounds. -/

theorem doRelease_inv {sc : Scope} (h : Inv s) : Inv (doRelease sc s) := by
  unfold doRelease
  dsimp only
  split
  · exact modCur_inv h
  · exact modCurPath_inv (modCur_inv h)
  · exact modCurPath_inv (modCur_inv (modCur_inv h))
  · exact modCurPath_inv (by split; exacts [(publishCovered_kept ..).inv (modCur_inv (modCur_inv h)), modCur_inv (modCur_inv h)])
  · exact modCurPath_inv (by split; exacts [(publishCovered_kept ..).inv (modCur_inv (modCur_inv h)), modCur_inv (modCur_inv h)])

theorem completePhase_inv {t b : Nat} (h : Inv s) : Inv (completePhase s t b) := by
  unfold completePhase
  dsimp only
  split
  · exact h
  · exact foldl_inv (fun _ _ h => modGang_inv h) (modTeam_inv (modTeam_inv h))

theorem settleBar_inv {t b : Nat} (h : Inv s) : Inv (settleBar s t b) :=
  inv_ite (completePhase_inv h) h

theorem barArrive_inv {t b : Nat} (h : Inv s) : Inv (barArrive s t b) :=
  inv_ite (settleBar_inv h) (modTeam_inv (settleBar_inv h))

theorem recordPhase_inv {b : Nat} {wait : Bool} (h : Inv s) : Inv (recordPhase b wait s) := by
  unfold recordPhase
  dsimp only
  have hr : Inv (forceLoads s.cur.gang s.cur.path (doRelease .team s)) := forceLoads_inv (doRelease_inv h)
  split
  · exact barArrive_inv (modCurPath_inv (by split; exacts [settleBar_inv hr, hr]))
  · exact modCurPath_inv (by split; exacts [settleBar_inv hr, hr])

theorem putRound_inv {r : Round} (h : Inv s) : Inv (putRound s r) :=
  inv_update h

theorem checkRound_inv {c recId ch vd : Nat} {pkg : Bool} (h : Inv s) : Inv (checkRound s c recId ch vd pkg) := by
  unfold checkRound
  dsimp only
  split
  · exact h
  · exact inv_ite (devSet_inv (putRound_inv h)) (putRound_inv h)

theorem roundState_inv {c ch vd : Nat} (h : Inv s) : Inv (roundState s c ch vd) := by
  unfold roundState
  dsimp only
  split
  · exact h
  · exact devSet_inv h

theorem thymeArrive_inv {sc : Scope} {ch : Nat} {val : Option (SredOp × Word)} (h : Inv s) : Inv (thymeArrive sc ch val s) := by
  have hr : Inv (forceLoads s.cur.gang s.cur.path (doRelease sc s)) := forceLoads_inv (doRelease_inv h)
  unfold thymeArrive
  dsimp only
  split
  · exact h
  · exact roundState_inv (checkRound_inv (by split; exacts [putRound_inv hr, inv_update hr]))

theorem recheckGrid_inv {c recId : Nat} (h : Inv s) : Inv (recheckGrid s c recId) :=
  foldl_inv (fun _ _ h => (inv_ite (roundState_inv (checkRound_inv h)) h)) h

theorem recheckTeam_inv {g : Nat} (h : Inv s) : Inv (recheckTeam s g) := by
  unfold recheckTeam
  split
  · exact recheckGrid_inv h
  · exact h

/-! What an instruction's checks leave. -/

theorem onWait_inv {i : Instr} (h : Inv s) : Inv (onWait i s) := by
  cases i
  case barw => exact modCurPath_inv h
  all_goals exact h

theorem logTrap_inv {t : TrapInfo} (h : Inv s) : Inv (logTrap t s) := by
  unfold logTrap
  split
  · exact logErr_inv h
  · exact h

/-- Whatever the verdict: only an effect of the instruction's own is left to its own lemma. -/
theorem settle_inv {i : Instr} {v : Verdict} {eff : State → State} (h : Inv s) (he : Inv (eff s)) : Inv (settle i v eff s) := by
  cases v with
  | ok => exact he
  | wait => exact onWait_inv h
  | fault => exact holdOnFaults_inv h
  | arrive => exact recordPhase_inv h
  | endCtx => exact endFromIssue_inv h
  | trap => exact latchTrap_inv (logTrap_inv h)

theorem commit_inv {i : Instr} {v : Verdict} {eff : State → State} (h : Inv s) (he : Inv (eff s)) : OutInv (commit i v eff s) :=
  settle_inv h he

theorem xWrite_inv {xd : XDst} {f : Nat → Word} (h : Inv s) : Inv (xWrite xd f s) := by
  unfold xWrite
  split
  · exact h
  · exact inFlight_inv h

theorem vLoad_inv {i : Instr} {d : VDst} {byp : Bool} (h : Inv s) : Inv (vLoad i d byp s) := by
  have start : ∀ f : BitVec 5 → Gang → Gang, Inv (match d with | .zero => s | .reg r => modCur s (f r)) := fun f => by
    cases d with
    | zero => exact h
    | reg r => exact modCur_inv (f := f r) h
  unfold vLoad
  dsimp only
  exact modCur_inv (inv_ite (start _)
    (modCur_inv (foldl_snd_inv (fun _ _ h => foldl_snd_inv (fun _ _ h => addAcc_inv h) h) (start _))))

theorem vStore_inv {i : Instr} {byp : Bool} {val : Nat → Nat → Word} (h : Inv s) : Inv (vStore i byp val s) :=
  modCur_inv (inv_ite (inFlight_inv h) (modCur_inv (modCur_inv
    (foldl_snd_inv (fun _ _ h => foldl_snd_inv (fun _ _ h => addAcc_inv h) h) (inFlight_inv h)))))

theorem enterCopy_inv {op : CopyOp} {d : DReg} {la lb : Word} {pat : DWord} {mask : Mask} {n : Nat} {cls : BitVec 2}
    {bar : Option (BitVec 4)} (h : Inv s) :
    Inv (enterCopy op d la lb pat mask n cls bar s) := by
  unfold enterCopy
  dsimp only
  split
  · exact h
  · exact modCur_inv (modTeam_inv h)

/-! T instructions. -/

theorem advanceRun_inv {g e id n quota : Nat} (h : Inv s) : Inv (advanceRun s g e id n quota) := by
  unfold advanceRun
  dsimp only
  split
  · exact h
  · split
    · exact h
    · split
      · refine inv_ite (inv_ite (modGang_inv (modGang_inv (modGang_inv h))) (modGang_inv h)) ?_
        exact modGang_inv (modGang_inv h)
      · exact inv_ite (modGang_inv (modGang_inv (modGang_inv h))) (modGang_inv h)
      · exact inv_ite (modGang_inv (modGang_inv (modGang_inv h))) (modGang_inv h)

theorem stepRuns_inv {g : Nat} (h : Inv s) : Inv (stepRuns s g) :=
  foldl_inv (fun _ _ h => advanceRun_inv (modGang_inv (inv_update h))) h

theorem execKeyedPlacement_inv {g e bank : Nat} (h : Inv s) : OutInv (execKeyedPlacement g e bank s) := by
  unfold execKeyedPlacement
  dsimp only [OutInv]
  refine inv_ite ?_ h
  split
  · exact h
  · split
    · exact h
    · split
      · exact inv_update h
      · refine inv_ite (modGang_inv (modGang_inv (modGang_inv (modGang_inv (inv_update h))))) ?_
        split
        · exact advanceRun_inv (inv_ite (modGang_inv (modGang_inv (modGang_inv (inv_update h))))
            (modGang_inv (modGang_inv (inv_update h))))
        · exact advanceRun_inv (modGang_inv (modGang_inv (modGang_inv (inv_update h))))
        · exact advanceRun_inv (modGang_inv (modGang_inv (inv_update h)))

theorem beginOp_inv {g e id : Nat} (h : Inv s) : Inv (beginOp s g e id) := by
  unfold beginOp
  dsimp only
  split
  · exact h
  · split
    · exact modGang_inv (inv_update h)
    · exact modGang_inv (inv_update h)
    · split
      · exact modGang_inv (modGang_inv (inv_update h))
      · exact modGang_inv (modGang_inv (inv_update h))
      · exact modGang_inv (inv_update h)
      · exact modGang_inv (inv_update h)

theorem execSageQueuePush_inv {g e : Nat} (h : Inv s) : OutInv (execSageQueuePush g e s) := by
  unfold execSageQueuePush
  dsimp only [OutInv]
  split
  · split
    · exact modGang_inv (modGang_inv h)
    · exact h
  · exact h

theorem computeOut_inv {g e id : Nat} (h : Inv s) : Inv (computeOut s g e id) := by
  unfold computeOut
  dsimp only
  split
  · exact h
  · exact inv_ite h (inv_ite (modGang_inv (modGang_inv (inv_update h))) (modGang_inv (inv_update h)))

theorem completeOp_inv {g e id : Nat} (h : Inv s) : Inv (completeOp s g e id) := by
  unfold completeOp
  dsimp only
  split
  · exact computeOut_inv h
  · refine inv_ite (modGang_inv (modGang_inv (inv_update (computeOut_inv h)))) ?_
    exact modGang_inv (inv_update (computeOut_inv h))

theorem landOpX_inv {g : Nat} (h : Inv s) : Inv (landOpX s g) :=
  foldl_inv (fun _ _ h => by
    dsimp only
    split
    · exact computeOut_inv h
    · exact modGang_inv (modGang_inv (computeOut_inv h))) h

theorem earlyOne_inv {g : Nat} {o : TOp} (h : Inv s) : Inv (earlyOne s g o) := by
  unfold earlyOne
  dsimp only
  split
  · exact inv_update (computeOut_inv h)
  · exact modGang_inv (inv_update (computeOut_inv h))

theorem earlyWrites_inv {g : Nat} (h : Inv s) : Inv (earlyWrites s g) :=
  foldl_inv (fun _ _ h => earlyOne_inv h) h

theorem mkAcc_inv {va len : Nat} {need : Rights} {op : AccOp} {byp : Bool} {eng ln : Nat} (h : Inv s) :
    Inv (mkAcc s va len need op byp eng ln).2 :=
  cacheWalk_inv h

theorem addTxn_inv {i : Instr} {k : TxnKind} {accs : List Acc} {due : Option Nat} (h : Inv s) : Inv (addTxn i s k accs due) :=
  modCur_inv h

theorem raiseStore_inv (h : Inv s) : Inv (raiseStore s) :=
  modCur_inv h

/-! Copies. -/

theorem modCopy_inv {t id : Nat} {f : Copy → Copy} (h : Inv s) : Inv (modCopy s t id f) :=
  modTeam_inv h

theorem failCopy_inv {t : Nat} {c : Copy} {cause : BitVec 8} {va : Nat} (h : Inv s) : Inv (failCopy s t c cause va) :=
  modGang_inv (modCopy_inv h)

theorem startOne_inv {t id : Nat} (h : Inv s) : Inv (startOne s t id) := by
  unfold startOne
  dsimp only
  split
  · split
    · exact inv_ite (failCopy_inv (modCopy_inv h)) (modCopy_inv h)
    · exact modCopy_inv h
  · exact modCopy_inv h

theorem execCopyCommandStart_inv {t : Nat} (h : Inv s) : OutInv (execCopyCommandStart t s) := by
  unfold execCopyCommandStart
  dsimp only [OutInv]
  split
  · refine inv_ite ?_ h
    split
    · split
      · exact startOne_inv (startOne_inv h)
      · exact startOne_inv h
    · exact h
  · exact h

theorem sendFrame_inv {module iwin off len : Nat} {kind : FrameKind} {data : List Byte} (h : Inv s) :
    Inv (sendFrame module iwin off len kind data s) :=
  inv_update h

theorem readSide_inv {t : Nat} {T : Team} {c : Copy} {off len : Nat} {tr : PieceTr} (h : Inv s) :
    Inv (readSide s t T c off len tr).2 := by
  unfold readSide
  split
  · exact h
  split
  · split
    · exact h
    · exact noteReader_inv ((homeReadAt_kept ..).inv h)
  · exact sendFrame_inv (inv_update h)
  · split <;> exact h

theorem flushPiece_inv {t : Option Nat} {op : CopyOp} {pa cls : Nat} (h : Inv s) : Inv (flushPiece s t op pa cls) := by
  unfold flushPiece
  dsimp only
  refine inv_ite h ?_
  refine inv_ite ((dropReplicas_kept ..).inv ((evictLine_kept ..).inv ((publishWhere_kept ..).inv h))) ?_
  exact (writeBack_kept ..).inv ((publishWhere_kept ..).inv h)

theorem writeSide_inv {t : Nat} {T : Team} {c : Copy} {off len : Nat} {tr : PieceTr} {bs : List Byte} (h : Inv s) :
    Inv (writeSide s t T c off len tr bs) := by
  unfold writeSide
  split
  · exact h
  · split
    · exact flushPiece_inv h
    · exact sendFrame_inv h
    · exact h
  · split
    · exact flushPiece_inv h
    · exact sendFrame_inv h
    · exact h
  · split
    · exact (copyWriteAt_kept ..).inv h
    · exact sendFrame_inv h
    · exact foldl_inv (fun _ _ h => modGang_inv h) h

theorem pieceFault_inv {t : Nat} {T : Team} {c : Copy} {off : Nat} {a b : PieceTr} {u : State}
    (h : Inv s) (hu : pieceFault s t T c off a b = some u) : Inv u := by
  unfold pieceFault at hu
  extract_lets absent one at hu
  have hone : ∀ x v, one x = some v → Inv v := by
    intro x v hv
    cases x with
    | ends va => obtain rfl := Option.some.inj hv; exact endContext_inv h
    | fails cause va refused =>
      obtain rfl := Option.some.inj hv
      exact failCopy_inv (by split; exacts [logErr_inv h, h])
    | here | away | none | absent => cases hv
  split at hu
  · split at hu
    case h_1 v hv => obtain rfl := Option.some.inj hu; exact hone a _ hv
    case h_2 => exact hone b u hu
  · obtain rfl := Option.some.inj hu
    exact foldl_inv (fun _ _ h => recordFault_inv h) (modTeam_inv h)

theorem spendPiece_inv {cls : Nat} {x : PieceTr} (h : Inv s) : Inv (spendPiece cls x s) := by
  unfold spendPiece
  split
  · exact (spendFlit_kept ..).inv h
  · exact h

/-- Both states a piece may leave: the one it stopped its command in, and the one its bytes are written in. -/
theorem movePiece_inv {t : Nat} {T : Team} {c : Copy} {off len : Nat} (h : Inv s) :
    Inv (movePiece s t T c off len).2 ∧ ∀ x, (movePiece s t T c off len).1 = some x → Inv x.2.2 := by
  unfold movePiece
  dsimp only
  split
  case h_1 u hu => exact ⟨pieceFault_inv h hu, fun _ hx => by cases hx⟩
  case h_2 =>
    have hr := readSide_inv (t := t) (T := T) (c := c) (off := off) (len := len) (tr := (pieceSides s t T c off).1)
      (spendPiece_inv (cls := c.cls) (x := (pieceSides s t T c off).2.1)
        (spendPiece_inv (cls := c.cls) (x := (pieceSides s t T c off).1) (cacheWalk_inv (es := (pieceSides s t T c off).2.2) h)))
    split
    case h_1 u hu => rw [hu] at hr; exact ⟨failCopy_inv hr, fun _ hx => by cases hx⟩
    case h_2 bs u hu =>
      rw [hu] at hr
      split
      · exact ⟨failCopy_inv (inv_update hr), fun _ hx => by cases hx⟩
      split
      · exact ⟨failCopy_inv (writeSide_inv (inv_update hr)), fun _ hx => by cases hx⟩
      · exact ⟨hr, fun _ hx => by cases hx; exact hr⟩

theorem execCopyPiece_inv {t cmd off : Nat} (h : Inv s) : OutInv (execCopyPiece t cmd off s) := by
  unfold execCopyPiece
  dsimp only [OutInv]
  split
  · exact h
  split
  · exact h
  next c _ =>
  split
  · exact h
  have hs : Inv (if c.held.isSome then modCopy (dropWalks (agCopy t) s) t cmd (fun c => { c with held := none, ahead := [] })
      else s) := inv_ite (modTeam_inv h) h
  refine inv_ite (failCopy_inv hs) ?_
  have hm := movePiece_inv (t := t) (T := ‹Team›) (c := c) (off := off) (len := pieceLen c off) hs
  split
  case h_1 u hu => rw [hu] at hm; exact hm.1
  case h_2 bs tr u v hu => rw [hu] at hm; exact modTeam_inv (writeSide_inv (hm.2 _ rfl))

theorem wordPieces_inv {t : Nat} {T : Team} {c : Copy} {fuel off n : Nat} {acc : List Byte} (h : Inv s) :
    Inv (wordPieces t T c fuel off n s acc).2 := by
  induction fuel generalizing s off n acc with
  | zero => exact h
  | succ fuel ih =>
    unfold wordPieces
    dsimp only
    split
    · exact h
    have hm := movePiece_inv (t := t) (T := T) (c := c) (off := off) (len := min n (pieceLen c off)) h
    split
    case h_1 u hu => rw [hu] at hm; exact hm.1
    case h_2 bs tr u v hu => rw [hu] at hm; exact ih (hm.2 _ rfl)

theorem execCopyQueuePush_inv {t cmd : Nat} (h : Inv s) : OutInv (execCopyQueuePush t cmd s) := by
  unfold execCopyQueuePush
  dsimp only [OutInv]
  split
  · exact h
  split
  · exact h
  next c _ =>
  split
  · exact h
  split
  · exact modTeam_inv h
  split
  · exact failCopy_inv h
  have hs : Inv (if c.held.isSome then modCopy (dropWalks (agCopy t) s) t cmd (fun c => { c with held := none }) else s) :=
    inv_ite (modTeam_inv h) h
  have hw := wordPieces_inv (t := t) (T := ‹Team›) (c := c) (fuel := 4) (off := c.nextOff) (n := 4) (acc := []) hs
  split
  case h_1 u hu => rw [hu] at hw; exact hw
  case h_2 bs u hu => rw [hu] at hw; exact modTeam_inv hw

theorem flushPushes_inv (h : Inv s) : Inv (flushPushes s) :=
  foldl_inv (fun _ _ h => foldl_inv (fun _ _ h => inv_ite h (modGang_inv (modCopy_inv h))) h) h

theorem execCpygEntryTake_inv {t cmd e : Nat} (h : Inv s) : OutInv (execCpygEntryTake t cmd e s) := by
  unfold execCpygEntryTake
  dsimp only [OutInv]
  split
  · exact h
  · split
    · exact h
    · refine inv_ite h ?_
      split
      · exact modCopy_inv h
      · exact inv_ite (failCopy_inv h) (modCopy_inv (modGang_inv h))

theorem execCopyCommandComplete_inv {t cmd : Nat} (h : Inv s) : OutInv (execCopyCommandComplete t cmd s) := by
  unfold execCopyCommandComplete
  dsimp only [OutInv]
  split
  · exact h
  · split
    · exact h
    · refine inv_ite h ?_
      split
      · exact barArrive_inv (by split; exacts [inv_ite (modCopy_inv (modCopy_inv h)) (modCopy_inv h), modCopy_inv h])
      · split
        · exact inv_ite (modCopy_inv (modCopy_inv h)) (modCopy_inv h)
        · exact modCopy_inv h

theorem execCopyCounterFall_inv {g : Nat} (h : Inv s) : OutInv (execCopyCounterFall g s) := by
  unfold execCopyCounterFall
  dsimp only [OutInv]
  split
  · exact h
  · split
    · exact h
    · split
      · exact inv_ite (modGang_inv (modTeam_inv h)) h
      · exact h

/-! Teams and records. -/

theorem stopTeam_inv {t : Nat} {r : Reason} (h : Inv s) : Inv (stopTeam s t r) := by
  unfold stopTeam
  split
  · exact foldl_inv (fun _ _ h => inv_ite (modGang_inv h) h) h
  · exact h

theorem switchTo_inv {v : Nat} (h : Inv s) : Inv (switchTo s v) := by
  unfold switchTo
  dsimp only
  split
  · exact h
  · exact foldl_inv (fun _ _ h => by split; exacts [stopTeam_inv (modGang_inv h), modGang_inv h]) h

theorem modRec_inv {die bank id : Nat} {f : Rec → Rec} (h : Inv s) : Inv (modRec s die bank id f) :=
  modBank_inv h

theorem sendSignal_inv {c sigt amount die rec : Nat} (h : Inv s) : Inv (sendSignal s c sigt amount die rec) := by
  unfold sendSignal
  dsimp only
  refine inv_ite h ?_
  split
  · exact modBank_inv h
  · exact h

theorem completeRecord_inv {die bank id : Nat} (h : Inv s) : Inv (completeRecord s die bank id) := by
  unfold completeRecord
  dsimp only
  split
  · exact h
  · exact sendSignal_inv (inv_ite (unbindGrid_inv (modBank_inv h)) (modBank_inv h))

theorem completeTeam_inv {t : Nat} (h : Inv s) : Inv (completeTeam s t) := by
  unfold completeTeam
  dsimp only
  split
  · exact h
  · split
    · exact inv_ite (completeRecord_inv (modRec_inv (endAdmission_inv h))) (modRec_inv (endAdmission_inv h))
    · exact modRec_inv (endAdmission_inv h)

/-! Bundle fetch, save areas, capture and resume. -/

theorem readUnit_inv {die pa key cls : Nat} (h : Inv s) : Inv ((readUnit s die pa key cls).2.2) :=
  (homeReadAt_kept ..).inv ((homeReadAt_kept ..).inv ((spendFlit_kept ..).inv ((spendFlit_kept ..).inv h)))

theorem putUnit_inv {g pa : Nat} {d : BitVec 512} (h : Inv s) : Inv (putUnit s g pa d) := by
  unfold putUnit
  dsimp only
  split <;> exact h

theorem execBundleFetch_inv {g : Nat} {p : PathSlot} (h : Inv s) : OutInv (execBundleFetch g p s) := by
  unfold execBundleFetch
  dsimp only [OutInv]
  refine inv_ite ?_ h
  split
  · split
    · have hr : ∀ {die pa key cls : Nat} {es : List TlbEnt},
          Inv (readUnit (noteReader die pa cls (cacheWalk s es)) die (pa / 64 * 64) key cls).2.2 :=
        readUnit_inv (noteReader_inv (cacheWalk_inv h))
      refine inv_ite (inv_ite (latchTrap_inv ?_) (putUnit_inv ?_)) h
      all_goals exact modGang_inv (inv_ite (modPair_inv hr) hr)
    · exact h
  · exact h

theorem spendArea_inv {pa : Nat} (h : Inv s) : Inv (spendArea pa s) :=
  foldl_inv (fun _ _ h => (spendFlit_kept ..).inv h) ((spendFlit_kept ..).inv h)

theorem writeArea_inv {g pa : Nat} {r : Reason} {c tw : Nat} (h : Inv s) : Inv (writeArea s g pa r c tw) :=
  foldl_inv (fun _ _ h => (inv_ite h ((areaWrite_kept ..).inv h))) ((areaClear_kept ..).inv (spendArea_inv h))

theorem bringLoads_inv {g : Nat} (h : Inv s) : Inv (bringLoads s g) := by
  refine foldl_inv (fun u T hu => ?_) h
  have hf : Inv (forceTxn u g T.id) := forceTxn_inv hu
  dsimp only
  split
  · exact inv_ite (modGang_inv hf) hf
  · refine inv_ite (modGang_inv ?_) (modGang_inv (modGang_inv ?_))
    all_goals exact inv_ite (modGang_inv hf) hf

theorem loseSpare_inv {g : Nat} (h : Inv s) : Inv (loseSpare g s) :=
  inv_ite (setPair_inv h) h

theorem giveUpSpare_inv {g : Nat} (h : Inv s) : Inv (giveUpSpare s g) := by
  unfold giveUpSpare
  split
  · exact inv_ite (modGang_inv (loseSpare_inv h)) h
  · exact h
  · exact h
  · exact h
  · exact h

theorem captureGang_inv {g : Nat} {r : Reason} (h : Inv s) : Inv (captureGang s g r) := by
  have hb : Inv (bringLoads s g) := bringLoads_inv h
  have hs : ∀ {f : Gang → Gang}, Inv (if r = .halt then modGang (bringLoads s g) g settleIlks
      else modGang (loseSpare g (bringLoads s g)) g f) :=
    inv_ite (modGang_inv hb) (modGang_inv (loseSpare_inv hb))
  unfold captureGang
  dsimp only
  split
  · exact h
  split
  · exact h
  · refine inv_ite (modGang_inv ?_) (setGang_inv (modTeam_inv (keepSpare_inv ((publishTeam_kept ..).inv ?_))))
    all_goals exact modGang_inv (writeArea_inv (inv_update hs))

theorem settleTeam_inv {t : Nat} (h : Inv s) : Inv (settleTeam s t) := by
  unfold settleTeam
  split
  · exact h
  · refine inv_ite ?_ h
    refine inv_ite (foldl_inv (fun _ _ h => (inv_ite (raiseIrq_inv h) h)) (modTeam_inv h)) ?_
    exact inv_ite (endAdmission_inv (modBank_inv ((publishTeam_kept ..).inv h))) (modTeam_inv h)

theorem capture_inv {g : Nat} (h : Inv s) : Inv (capture s g) := by
  unfold capture
  dsimp only
  split
  · exact settleTeam_inv (captureGang_inv h)
  · exact captureGang_inv h

theorem giveThyme_inv {t g : Nat} {x0 : Held} (h : Inv s) : Inv (giveThyme s t g x0) :=
  inv_ite (inv_ite (modGang_inv h) (modGang_inv h)) (modTeam_inv h)

theorem resumeGang_inv {g t : Nat} {S : Gang} (h : Inv s) : Inv (resumeGang s g t S) := by
  unfold resumeGang
  dsimp only
  split
  · exact h
  · refine inv_ite (endContext_inv h) ?_
    exact inv_ite (endContext_inv h) (modTeam_inv (refillStack_inv (setGang_inv (inv_update (spendArea_inv h)))))

theorem resumeSaved_inv {g t : Nat} (h : Inv s) : Inv (resumeSaved s g t) := by
  unfold resumeSaved
  split
  · exact resumeGang_inv h
  · exact h

theorem switchIn_inv {t : Nat} (h : Inv s) : Inv (switchIn s t) := by
  unfold switchIn
  dsimp only
  split
  · exact h
  · exact foldl_inv (fun _ _ h => (inv_ite h (resumeSaved_inv h))) (modTeam_inv h)

theorem popQueues_inv {pop : BitVec 8} (h : Inv s) : Inv (popQueues pop s) :=
  foldl_inv (fun _ _ h => inv_ite h (inv_ite (foldl_inv (fun _ _ h => modCur_inv h) h) (modCur_inv h))) h

theorem execPathResolve_inv {g : Nat} {p : PathSlot} (h : Inv s) : OutInv (execPathResolve g p s) := by
  unfold execPathResolve
  dsimp only [OutInv]
  split
  · exact inv_ite (recheckTeam_inv (resolveLoop_inv h)) h
  · exact h

theorem grantSpare_inv {g : Nat} (h : Inv s) : Inv (grantSpare g s) :=
  setPair_inv (modGang_inv h)

theorem execSpareGrant_inv {pair : Nat} (h : Inv s) : OutInv (execSpareGrant pair s) := by
  unfold execSpareGrant
  dsimp only [OutInv]
  split
  · exact grantSpare_inv h
  · exact h

theorem finishGang_inv {g : Nat} (h : Inv s) : Inv (finishGang s g) := by
  unfold finishGang
  dsimp only
  split
  · exact h
  · split
    · refine inv_ite (completeTeam_inv ?_) ?_
      all_goals exact modTeam_inv (modGang_inv (keepSpare_inv ((publishTeam_kept ..).inv (by split; exacts [inv_update h, h]))))
    · exact modTeam_inv (modGang_inv (keepSpare_inv ((publishTeam_kept ..).inv (by split; exacts [inv_update h, h]))))

theorem takeDeferred_inv {g : Nat} (h : Inv s) : Inv (takeDeferred s g) := by
  unfold takeDeferred
  dsimp only
  split
  · exact h
  · exact modGang_inv (latchTrap_inv h)

theorem execTeamSwitch_inv {g : Nat} (h : Inv s) : OutInv (execTeamSwitch g s) := by
  unfold execTeamSwitch
  dsimp only [OutInv]
  refine inv_ite (capture_inv h) ?_
  refine inv_ite ?_ h
  split
  · exact switchIn_inv h
  · exact h

theorem execSwitchThresholdExpiry_inv {g : Nat} (h : Inv s) : OutInv (execSwitchThresholdExpiry g s) := by
  unfold execSwitchThresholdExpiry
  dsimp only [OutInv]
  split
  · exact switchTo_inv h
  · exact h

theorem execQuantumExpiry_inv {g : Nat} (h : Inv s) : OutInv (execQuantumExpiry g s) := by
  unfold execQuantumExpiry
  dsimp only [OutInv]
  split
  · exact switchTo_inv h
  · exact h

theorem setAreaPc_inv {pa : Nat} {p : PathSlot} {pc : Nat} (h : Inv s) : Inv (setAreaPc s pa p pc) :=
  (areaPut_kept ..).inv h

theorem clearAreaLive_inv {pa : Nat} {p : PathSlot} (h : Inv s) : Inv (clearAreaLive s pa p) :=
  (areaPut_kept ..).inv h

theorem retireInArea_inv {m : Mask} {pa : Nat} (h : Inv s) : Inv (retireInArea m pa s) :=
  (areaPut_kept ..).inv h

theorem endPaths_inv {t : Nat} {T : Team} (h : Inv s) : Inv (endPaths s t T) :=
  recheckGrid_inv (foldl_inv (fun _ _ h => modTeam_inv (clearAreaLive_inv (clearAreaLive_inv (retireInArea_inv h)))) h)

theorem applyAct_inv {g t : Nat} {T : Team} {S : Gang} (h : Inv s) : Inv (applyAct s g t T S) := by
  unfold applyAct
  dsimp only
  refine inv_ite h ?_
  refine inv_ite (endPaths_inv h) ?_
  exact inv_ite h (inv_ite (modTeam_inv (setAreaPc_inv h)) (inv_ite (modTeam_inv (setAreaPc_inv h)) h))

theorem resumeTrapped_inv {g : Nat} (h : Inv s) : Inv (resumeTrapped s g) := by
  unfold resumeTrapped
  split
  · exact h
  · split
    · exact h
    · exact modTeam_inv (modTeam_inv (applyAct_inv h))

theorem resumeHalted_inv {g : Nat} (h : Inv s) : Inv (resumeHalted s g) := by
  unfold resumeHalted
  split
  · exact resumeGang_inv h
  · exact h

theorem execStepCommand_inv {die gang : Nat} (h : Inv s) : OutInv (execStepCommand die gang s) := by
  unfold execStepCommand
  dsimp only [OutInv]
  refine inv_ite ?_ (resumeTrapped_inv h)
  refine inv_ite (resumeHalted_inv h) ?_
  exact inv_ite (modGang_inv (resumeHalted_inv h)) (modGang_inv (resumeHalted_inv h))

/-! Banks: records in, teams out. -/

theorem rejectLog_inv {d b c code : Nat} {r : BitVec 512} (h : Inv s) : Inv (rejectLog s d b c code r) :=
  raiseIrq_inv (devSet_inv (devSet_inv (devSet_inv h)))

theorem argRead_inv {d c va : Nat} {v : DWord} {u : State} (h : Inv s) (hu : argRead s d c va = .ok v u) : Inv u := by
  unfold argRead at hu
  split at hu
  · cases hu
  split at hu <;> try cases hu
  split at hu
  · dsimp only at hu
    split at hu
    · cases hu
    · obtain ⟨-, rfl⟩ := ArgRead.ok.inj hu
      exact (homeReadAt_kept ..).inv ((spendFlit_kept ..).inv (cacheWalk_inv h))
  · cases hu

theorem argReads_inv {d c : Nat} {vas : List Nat} {acc : ArgReads} (h : Inv s) : Inv (argReads d c vas acc s).2 := by
  induction vas generalizing s acc with
  | nil => exact h
  | cons va vas ih =>
    unfold argReads
    split
    case h_1 v u hu => exact ih (argRead_inv h hu)
    case h_2 => exact ih h
    all_goals exact h

theorem argFaults_inv {d : Nat} {f : Nat → FaultRec} {vas : List Nat} (h : Inv s) : Inv (argFaults d f vas s) :=
  foldl_inv (fun _ _ h => recordFault_inv h) h

theorem argEnds_inv {d c loc : Nat} {e : BitVec 8 × Nat × Option Nat} (h : Inv s) : Inv (argEnds d c loc e s) :=
  endContext_inv (by split; exacts [logErr_inv h, h])

theorem ringPutRec_inv {d b : Nat} {r : Rec} (h : Inv s) : Inv (ringPutRec s d b r) :=
  modBank_inv ((areaPut_kept ..).inv ((areaPut_kept ..).inv ((spendFlit_kept ..).inv ((spendFlit_kept ..).inv h))))

theorem ringEnds_inv {d b : Nat} (h : Inv s) : Inv (ringEnds s d b) := by
  unfold ringEnds
  dsimp only
  split
  · exact endContext_inv h
  · exact h

theorem ringTake_inv {d b : Nat} {r : Rec} (h : Inv s) : Inv (ringTake s d b r) :=
  inv_ite (ringEnds_inv h) (modBank_inv ((spendFlit_kept ..).inv ((spendFlit_kept ..).inv h)))

theorem ringReturn_inv {d b : Nat} (h : Inv s) : Inv (ringReturn s d b) := by
  unfold ringReturn
  split
  · exact ringTake_inv h
  · exact h

theorem exchange_inv {d b : Nat} (h : Inv s) : Inv (exchange s d b) := by
  unfold exchange
  dsimp only
  split
  · exact inv_ite (ringEnds_inv h) (ringPutRec_inv (ringTake_inv (modBank_inv h)))
  · exact h

theorem exchanges_inv {d b n : Nat} (h : Inv s) : Inv (exchanges d b n s) := by
  induction n generalizing s with
  | zero => exact h
  | succ n ih => exact ih (exchange_inv h)

/-- `settleBank` with its exchanges left open: unfolding the numeral of its 512 exchanges is out of the elaborator's reach. -/
def settleBy (ex : State → State) (d b : Nat) : Nat → State → State
  | 0, s => s
  | n + 1, s =>
    let s := ex s
    match instantRec (bankAt s d b) with
    | some r => settleBy ex d b n (completeRecord s d b r.id)
    | none => s

theorem settleBank_eq_settleBy (d b : Nat) : settleBank d b = settleBy (exchanges d b 512) d b := by
  delta settleBank settleBank._f settleBy settleBy._f
  generalize 512 = m
  rfl

theorem settleBy_inv {ex : State → State} {d b n : Nat} (hex : ∀ {s}, Inv s → Inv (ex s)) (h : Inv s) :
    Inv (settleBy ex d b n s) := by
  induction n generalizing s with
  | zero => exact h
  | succ n ih =>
    unfold settleBy
    dsimp only
    split
    · exact ih (completeRecord_inv (hex h))
    · exact hex h

theorem settleBank_inv {d b n : Nat} (h : Inv s) : Inv (settleBank d b n s) := by
  rw [settleBank_eq_settleBy]
  exact settleBy_inv exchanges_inv h

theorem enterRecord_inv {d b : Nat} {r : BitVec 512} {pins : List Nat} (h : Inv s) : Inv (enterRecord s d b r pins) := by
  unfold enterRecord
  dsimp only
  have hr : ∀ {u : State} {f : Bank → Bank}, Inv u → Inv (ringReturn (modBank u d b f) d b) :=
    fun hu => ringReturn_inv (modBank_inv hu)
  refine inv_ite (hr (inv_update h)) (settleBank_inv ?_)
  exact inv_ite (modBank_inv (hr (inv_update h))) (ringPutRec_inv (hr (inv_update h)))

theorem dropArrival_inv {d b : Nat} {a : Arrival} (h : Inv s) : Inv (dropArrival s d b a) := by
  unfold dropArrival
  dsimp only
  split
  · exact modGang_inv (modBank_inv h)
  · exact modBank_inv h

theorem acceptPinned_inv {d b c : Nat} {a : Arrival} (h : Inv s) : Inv (acceptPinned s d b c a) := by
  unfold acceptPinned
  dsimp only
  refine inv_ite (argFaults_inv (modBank_inv (argReads_inv (inv_ite h (dropWalks_inv h))))) ?_
  split
  · exact argEnds_inv (argReads_inv (inv_ite h (dropWalks_inv h)))
  · refine inv_ite (enterRecord_inv (dropArrival_inv (argReads_inv (inv_ite h (dropWalks_inv h))))) ?_
    exact rejectLog_inv (dropArrival_inv (argReads_inv (inv_ite h (dropWalks_inv h))))

theorem execRecordAccept_inv {bank : Nat} (h : Inv s) : OutInv (execRecordAccept bank s) := by
  unfold execRecordAccept
  dsimp only [OutInv]
  split
  · exact h
  · refine inv_ite (rejectLog_inv (dropArrival_inv h)) ?_
    exact inv_ite (acceptPinned_inv h) (enterRecord_inv (dropArrival_inv h))

theorem execTagDecrement_inv {bank tag amount : Nat} (h : Inv s) : OutInv (execTagDecrement bank tag amount s) := by
  unfold execTagDecrement
  dsimp only [OutInv]
  split
  · exact h
  · exact settleBank_inv (by split; exacts [modGang_inv (modBank_inv h), modBank_inv h])

theorem admitTeam_inv {d b : Nat} {r : Rec} {num vdie : Nat} {gs : List Nat} (h : Inv s) : Inv (admitTeam s d b r num vdie gs) :=
  foldl_inv (fun _ _ h => devSet_inv h) (inv_update h)

theorem placeTeam_inv {d b : Nat} {r : Rec} {num vdie pd : Nat} {pin : Option Nat} {u : State}
    (h : Inv s) (hu : placeTeam s d b r num vdie pd pin = some u) : Inv u := by
  unfold placeTeam at hu
  split at hu
  · split at hu
    · obtain rfl := Option.some.inj hu; exact admitTeam_inv h
    · cases hu
  · obtain ⟨gs, -, rfl⟩ := Option.map_eq_some_iff.mp hu
    exact admitTeam_inv h

theorem placeGrid_inv {d b : Nat} {r : Rec} {ts : List Nat} {u : State} (h : Inv s) (hu : placeGrid d b r ts s = some u) :
    Inv u := by
  induction ts generalizing s with
  | nil => obtain rfl := Option.some.inj hu; exact h
  | cons t ts ih =>
    unfold placeGrid at hu
    dsimp only at hu
    split at hu
    case h_1 v hv => exact ih (placeTeam_inv h hv) hu
    case h_2 => cases hu

theorem bindChannels_inv {r : Rec} (h : Inv s) : Inv (bindChannels s r) :=
  foldl_inv (fun _ _ h => inv_ite (devSet_inv h) h) h

theorem grantRecord_inv {d b : Nat} {r : Rec} {u : State} (h : Inv s) (hu : grantRecord s d b r = some u) : Inv u := by
  unfold grantRecord at hu
  split at hu
  · split at hu
    · cases hu
    · obtain ⟨v, hv, rfl⟩ := Option.map_eq_some_iff.mp hu
      exact modRec_inv (bindChannels_inv (placeGrid_inv h hv))
  · split at hu
    · cases hu
    · obtain ⟨v, hv, rfl⟩ := Option.map_eq_some_iff.mp hu
      exact modRec_inv (placeTeam_inv h hv)

theorem execDispatchSelect_inv {die : Nat} (h : Inv s) : OutInv (execDispatchSelect die s) := by
  unfold execDispatchSelect
  dsimp only [OutInv]
  split
  · split
    · exact h
    · split
      case h_1 u hu => exact modDie_inv (grantRecord_inv h hu)
      case h_2 => exact h
  · exact h

theorem startOn_inv {t : Nat} {T : Team} {now : Bool} {g : Nat} {sregs : Sp DWord} (h : Inv s) :
    Inv (startOn s t T now g sregs) :=
  inv_ite (setGang_inv h) (modTeam_inv (setGang_inv (writeArea_inv (setGang_inv (inv_update h)))))

theorem startGangs_inv {t : Nat} {T : Team} {now : Bool} {gs : List Nat} {vs : List DWord} (h : Inv s) :
    Inv (startGangs t T now gs vs s) := by
  induction gs generalizing s vs with
  | nil => exact h
  | cons g gs ih => exact ih (startOn_inv h)

theorem execTeamStart_inv {t : Nat} (h : Inv s) : OutInv (execTeamStart t s) := by
  unfold execTeamStart
  dsimp only [OutInv]
  split
  · exact h
  · refine inv_ite h ?_
    refine inv_ite (modTeam_inv (argFaults_inv (inv_ite (dropWalks_inv h) h))) ?_
    split
    · exact argEnds_inv (inv_ite (dropWalks_inv h) h)
    · exact modTeam_inv (startGangs_inv (argReads_inv (inv_ite (dropWalks_inv h) h)))

theorem ageAll_inv (h : Inv s) : Inv (ageAll s) :=
  inv_update h

theorem execMigrationSend_inv {src dst : Nat} (h : Inv s) : OutInv (execMigrationSend src dst s) := by
  unfold execMigrationSend
  dsimp only [OutInv]
  refine inv_ite ?_ h
  split
  · exact h
  · split
    · exact h
    · exact inv_ite (ringEnds_inv h) (modBank_inv (modBank_inv h))

/-! Errors at their sites; the main side's start and stop. -/

theorem setUnit_inv {u : UnitId} {e : UnitErr} (h : Inv s) : Inv (setUnit s u e) :=
  inv_update h

theorem logSite_inv {site : ErrSite} {lasting poison corr : Bool} (h : Inv s) : Inv (logSite s site lasting poison corr) :=
  logErr_inv (inv_update (setUnit_inv h))

theorem correct_inv {site : ErrSite} (h : Inv s) : Inv (correct site s) := by
  unfold correct
  split
  · exact modGang_inv h
  · exact modGang_inv h
  · exact modGang_inv h
  · exact modPair_inv h
  · exact h
  · exact h
  · exact h
  · exact h
  · exact h
  · exact h
  · exact h

theorem poisonSector_inv {sec slice : Nat} (h : Inv s) : Inv (poisonSector s sec slice) := by
  unfold poisonSector
  split
  · exact (slPut_kept ..).inv h
  · split
    · exact inv_update h
    · exact inv_ite (inv_update h) h

theorem poison_inv {site : ErrSite} (h : Inv s) : Inv (poison site s) := by
  unfold poison
  split
  · exact modGang_inv h
  · exact modGang_inv h
  · exact modGang_inv h
  · split
    · exact latchTrap_inv h
    · exact h
  · exact poisonSector_inv h
  · exact (setMemBad_kept ..).inv h
  · exact (setMemBad_kept ..).inv h
  · exact h
  · exact h
  · exact h
  · exact h

theorem endAllContexts_inv (h : Inv s) : Inv (endAllContexts s) :=
  foldl_inv (fun _ _ h => endContext_inv h) h

/-- Without power no key slot holds a key, and memory keeps what it has. -/
theorem mainOff_inv {side : Nat} (h : Inv s) : Inv (mainOff s side) := ⟨h.1, fun _ => rfl, Nat.zero_lt_succ 3⟩

theorem setMgmt_inv {f : Mgmt → Mgmt} (h : Inv s) : Inv (setMgmt f s) :=
  inv_update h

theorem beginStop_inv {restart : Option StartOutcome} (h : Inv s) : Inv (beginStop restart s) :=
  setMgmt_inv (raiseIrq_inv h)

theorem execLinkFlitError_inv {link fails : Nat} (h : Inv s) : OutInv (execLinkFlitError link fails s) := by
  unfold execLinkFlitError
  dsimp only [OutInv]
  refine inv_ite h ?_
  refine inv_ite (logErr_inv (setUnit_inv h)) ?_
  refine inv_ite (beginStop_inv (logErr_inv (setMgmt_inv (logErr_inv (setUnit_inv h))))) ?_
  exact logErr_inv (setMgmt_inv (logErr_inv (setUnit_inv h)))

theorem loseMessage_inv {n : Nat} (h : Inv s) : Inv (loseMessage s n) := by
  unfold loseMessage
  dsimp only
  split
  · exact inv_update (inv_update h)
  · split
    · exact inv_update (inv_update h)
    · exact inv_update h

theorem execThymeVoteError_inv {node : Nat} {majority : Bool} (h : Inv s) : OutInv (execThymeVoteError node majority s) := by
  unfold execThymeVoteError
  dsimp only [OutInv]
  refine inv_ite h ?_
  refine inv_ite (logErr_inv (setUnit_inv h)) ?_
  exact foldl_inv (fun _ _ h => endContext_inv h) (loseMessage_inv (logErr_inv (setUnit_inv h)))

theorem execErrorLogClear_inv (h : Inv s) : OutInv (execErrorLogClear s) :=
  inv_update h

theorem listFrames_inv {fs : List Nat} (h : Inv s) : Inv (listFrames fs s) :=
  foldl_inv (fun _ _ h => inv_ite h (devSet_inv (devSet_inv h))) h

theorem retireUnit_inv {fs : List Nat} {u : UnitId} (h : Inv s) : Inv (retireUnit fs u s) := by
  unfold retireUnit
  dsimp only
  split
  · exact modDie_inv h
  · exact modDie_inv h
  · exact modDie_inv h
  · exact inv_update h
  · exact listFrames_inv h
  · exact listFrames_inv h
  · exact setMgmt_inv h
  · exact setMgmt_inv h
  · exact h

theorem retireAll_inv (h : Inv s) : Inv (retireAll s) :=
  foldl_inv (fun _ _ h => (inv_ite (setUnit_inv (logErr_inv (retireUnit_inv h))) h)) h

theorem selfTest_inv (h : Inv s) : Inv (selfTest s) :=
  foldl_inv (fun _ _ h => setUnit_inv h) (inv_update h)

theorem writeMap_inv {d : Nat} (h : Inv s) : Inv (writeMap s d) :=
  foldl_inv (fun _ _ h => devSet_inv h) h

theorem beginStep_inv {k : Nat} (h : Inv s) : Inv (beginStep k s) :=
  inv_ite h (inv_ite (logErr_inv (setMgmt_inv h)) (setMgmt_inv h))

theorem stepWork_inv {k : Nat} (h : Inv s) : Inv (stepWork k s) := by
  unfold stepWork
  dsimp only
  split
  case h_4 => exact ⟨rfl, h.2⟩
  case h_5 => exact foldl_inv (fun _ _ h => writeMap_inv h) (retireAll_inv (by split; exacts [h, selfTest_inv h]))
  case h_6 => exact ⟨h.1, h.2.1, Nat.zero_lt_succ 3⟩
  case h_1 | h_2 | h_3 => split <;> exact h
  all_goals exact h

theorem runStep_inv {k : Nat} (h : Inv s) : Inv (runStep k s) :=
  stepWork_inv (beginStep_inv h)

theorem failStep_inv (h : Inv s) : Inv (failStep s) :=
  setMgmt_inv (mainOff_inv (logErr_inv h))

theorem runFrom_inv {first : Nat} {o : StartOutcome} (h : Inv s) : Inv (runFrom first o s) := by
  unfold runFrom
  dsimp only
  refine inv_ite (mainOff_inv (foldl_inv (fun _ _ h => runStep_inv h) h)) ?_
  split
  · exact foldl_inv (fun _ _ h => runStep_inv h) h
  · exact beginStep_inv (foldl_inv (fun _ _ h => runStep_inv h) h)
  · exact failStep_inv (beginStep_inv (foldl_inv (fun _ _ h => runStep_inv h) h))

theorem attempt_inv {o : StartOutcome} (h : Inv s) : Inv (attempt o s) :=
  inv_ite h (runFrom_inv (setMgmt_inv (mainOff_inv h)))

theorem finishStop_inv (h : Inv s) : Inv (finishStop s) := by
  unfold finishStop
  dsimp only
  split
  · exact attempt_inv (setMgmt_inv (mainOff_inv (endAllContexts_inv h)))
  · exact setMgmt_inv (mainOff_inv (endAllContexts_inv h))

theorem powerDown_inv (h : Inv s) : Inv (powerDown s) :=
  setMgmt_inv (mainOff_inv (inv_ite (failStep_inv h) h))

theorem storeReading_inv {c : TripCause} {reading : BitVec 16} (h : Inv s) : Inv (storeReading c reading s) := by
  unfold storeReading
  dsimp only
  split
  · exact devSet_inv h
  · exact setMgmt_inv (devSet_inv h)
  · exact devSet_inv h

theorem execReplicaDrop_inv {slice line : Nat} (h : Inv s) : OutInv (execReplicaDrop slice line s) :=
  inv_update h

/-! Keys, unmaps and the device registers. -/

/-- A write of a slot other than 0 leaves every slot 0 without a key. -/
theorem writeKey_inv {slot dw k : Nat} {v : DWord} (h : Inv s) (h0 : slot ≠ 0) (h64 : slot < 64) :
    Inv (writeKey slot dw v s k) := by
  unfold writeKey
  dsimp only
  split
  · exact h
  · have he : Inv ((taggedLines s k slot).foldl (fun s l => evictLine s l k) s) :=
      foldl_inv (fun _ _ h => (evictLine_kept ..).inv h) h
    refine ⟨he.1, fun d => ?_, he.2.2⟩
    have hd : 64 * d ≠ 64 * k + slot := by omega
    simpa [hd] using he.2.1 d

theorem execKeySlotWrite_inv {sdie : Nat} {slot : BitVec 6} {dw : BitVec 2} {v : DWord} (h : Inv s) :
    OutInv (execKeySlotWrite sdie slot dw v s) := by
  unfold execKeySlotWrite
  dsimp only [OutInv]
  split
  · exact h
  next hslot =>
  have h0 : slot.toNat ≠ 0 := fun hz => hslot (BitVec.eq_of_toNat_eq hz)
  split
  · exact writeKey_inv h h0 slot.isLt
  split
  · exact foldl_inv (fun _ _ h => writeKey_inv h h0 slot.isLt) h
  · exact h

theorem startUnmap_inv {c : Nat} {v : DWord} {next : List DWord} (h : Inv s) : Inv (startUnmap c v next s) :=
  devSet_inv (inv_update h)

theorem runUnmaps_inv {c : Nat} {vs : List DWord} (h : Inv s) : Inv (runUnmaps c vs s) := by
  induction vs generalizing s with
  | nil => exact h
  | cons v vs ih =>
    unfold runUnmaps
    split
    · exact ih h
    · exact h

theorem execUnmapCommand_inv {ctx : Nat} {v : DWord} (h : Inv s) : OutInv (execUnmapCommand ctx v s) := by
  unfold execUnmapCommand
  dsimp only [OutInv]
  refine inv_ite h ?_
  split
  · exact inv_update h
  · exact inv_ite h (startUnmap_inv h)

theorem execUnmapComplete_inv {ctx : Nat} (h : Inv s) : OutInv (execUnmapComplete ctx s) := by
  unfold execUnmapComplete
  dsimp only [OutInv]
  split
  · exact inv_ite (runUnmaps_inv (inv_update h)) h
  · exact h

theorem doPart_inv {p : RemotePiece} {base key : Nat} {x : Nat × Nat} (h : Inv s) : Inv (doPart p base key x s).2 := by
  rw [doPart]
  split
  · exact logErr_inv h
  cases p.op with
  | read => exact (homeReadAt_kept ..).inv h
  | write => exact (homeWriteAt_kept ..).inv h
  | flush | drop => dsimp only; exact flushPiece_inv h

theorem doParts_inv {p : RemotePiece} {base key : Nat} {xs : List (Nat × Nat)} (h : Inv s) :
    Inv (doParts p base key xs s).2 := by
  induction xs generalizing s with
  | nil => exact h
  | cons x xs ih => exact ih (doPart_inv h)

theorem execRemotePieceArrival_inv {p : RemotePiece} (h : Inv s) : OutInv (execRemotePieceArrival p s) := by
  unfold execRemotePieceArrival
  dsimp only [OutInv]
  split
  · exact h
  have hd := fun base key xs => doParts_inv (p := p) (base := base) (key := key) (xs := xs) h
  split
  all_goals
    rename_i hu
    exact (congrArg (fun r => Inv r.2) hu).mp (hd _ _ _)

theorem writeBlock_inv {c off : Nat} {v : DWord} (h : Inv s) : Inv (writeBlock c off v s) := by
  unfold writeBlock
  dsimp only
  refine inv_ite ?_ ?_
  · refine inv_ite ?_ (inv_ite (endContext_inv (devSet_inv h)) (inv_ite (devSet_inv h) (devSet_inv h)))
    refine inv_ite (inv_ite (devSet_inv (devSet_inv (devSet_inv (devSet_inv (devSet_inv h))))) (devSet_inv (devSet_inv h))) ?_
    exact devSet_inv h
  · refine inv_ite (inv_ite (devSet_inv h) (devSet_inv h)) ?_
    refine inv_ite (devSet_inv h) ?_
    refine inv_ite ?_ (inv_ite (devSet_inv h) (inv_ite (inv_ite (devSet_inv h) (devSet_inv h)) (inv_ite (devSet_inv h) h)))
    refine inv_ite h ?_
    split
    · exact inv_update h
    · exact inv_ite h (startUnmap_inv h)

theorem writeDie_inv {core d off : Nat} {v : DWord} (h : Inv s) : Inv (writeDie core d off v s) := by
  unfold writeDie
  dsimp only
  refine inv_ite ?_ ?_
  · refine inv_ite (modBank_inv h) ?_
    exact inv_ite (inv_ite (modBank_inv h) h) (inv_ite (modBank_inv (devSet_inv h)) (inv_ite (devSet_inv h) h))
  · refine inv_ite (inv_ite h (inv_ite (inv_ite (freeEntry_inv h) h) (inv_ite (inv_ite (endContext_inv h) h) h))) ?_
    refine inv_ite ?_ (inv_ite (devSet_inv h) h)
    refine inv_ite h ?_
    refine inv_ite (modGang_inv h) ?_
    refine inv_ite (inv_ite (resumeHalted_inv h) (resumeTrapped_inv h)) ?_
    refine inv_ite ?_ h
    refine inv_ite ?_ (resumeTrapped_inv h)
    refine inv_ite (resumeHalted_inv h) ?_
    exact inv_ite (modGang_inv (resumeHalted_inv h)) (modGang_inv (resumeHalted_inv h))

theorem writeLog_inv {core off : Nat} {v : DWord} (h : Inv s) : Inv (writeLog core off v s) :=
  inv_ite (inv_ite (devSet_inv h) h) (inv_ite (devSet_inv h) h)

theorem writeCommand_inv {v : DWord} (h : Inv s) : Inv (writeCommand v s) := by
  unfold writeCommand
  dsimp only
  split
  · exact inv_ite (attempt_inv (inv_update h)) (inv_update h)
  · exact inv_ite (beginStop_inv h) h
  · exact inv_ite (beginStop_inv (inv_update h)) (inv_ite (attempt_inv (inv_update h)) (inv_update h))
  · exact powerDown_inv h
  · exact inv_ite (setMgmt_inv h) h
  · exact inv_ite (inv_update h) h
  · exact h

theorem writeMgmt_inv {core off : Nat} {v : DWord} (h : Inv s) : Inv (writeMgmt core off v s) :=
  inv_ite h (inv_ite (writeCommand_inv h) (inv_ite (inv_ite (devSet_inv h) h) (inv_ite (devSet_inv h) h)))

theorem writeKeySlot_inv {n w off size : Nat} {v : DWord} (h : Inv s) : Inv (writeKeySlot n w off size v s) := by
  unfold writeKeySlot
  dsimp only
  split
  · exact h
  next hw =>
  have h0 : w / 32 ≠ 0 := fun hz => hw (.inr hz)
  have h64 : w / 32 < 64 := by omega
  split
  · exact writeKey_inv h h0 h64
  split
  · exact foldl_inv (fun _ _ h => writeKey_inv h h0 h64) h
  · exact h

theorem execDeviceRegisterWrite_inv {core : Nat} {pa : BitVec 48} {v : DevWrite} (h : Inv s) :
    OutInv (execDeviceRegisterWrite core pa v s) := by
  unfold execDeviceRegisterWrite
  dsimp only [OutInv]
  refine inv_ite h ?_
  refine inv_ite (writeBlock_inv h) ?_
  refine inv_ite (writeDie_inv (inv_ite h (inv_update h))) ?_
  refine inv_ite (writeKeySlot_inv h) ?_
  exact inv_ite (devSet_inv h) (inv_ite (devSet_inv h) (inv_ite (writeLog_inv h) (inv_ite (writeMgmt_inv h) h)))

/-! The instructions whose effect has cases. -/

theorem retireEngines_inv {es : Mask} (h : Inv s) : Inv (retireEngines es s) :=
  inv_ite (recheckTeam_inv (modCur_inv h)) (modCur_inv h)

theorem vWrite_inv {lat : Nat} {d : VDst} {p : PReg} {f : Nat → Nat → Word} (h : Inv s) : Inv (vWrite lat d p f s) := by
  unfold vWrite
  split
  · exact h
  · exact inFlight_inv h

theorem keepStall_inv {f : State → State} (hf : Inv (f s)) : Inv (keepStall f s) :=
  modCur_inv hf

theorem requestSpare_inv {d : Nat} (h : Inv s) : Inv (requestSpare d s) :=
  setPair_inv (modCur_inv h)

theorem pairSplit_inv {target : VAddr} {tm fm : Mask} {long : Bool} (h : Inv s) : Inv (pairSplit target tm fm long s) := by
  unfold pairSplit
  dsimp only
  refine inv_ite ?_ (inv_update (modCur_inv (pushEnt_inv (inv_ite (swapStack_inv (retagArrivals_inv h)) h))))
  exact requestSpare_inv (inv_update (modCur_inv (pushEnt_inv (inv_ite (swapStack_inv (retagArrivals_inv h)) h))))

theorem rmwIssue_inv {i : Instr} {rd : SReg} {va n : Nat} {op : AccOp} (h : Inv s) : Inv (rmwIssue i rd va n op s) := by
  unfold rmwIssue
  dsimp only
  split
  · exact h
  · exact modCur_inv (addIlk_inv (mkAcc_inv h))

theorem execThymeRoundResult_inv {ctx ch v : Nat} (h : Inv s) : OutInv (execThymeRoundResult ctx ch v s) := by
  unfold execThymeRoundResult
  dsimp only [OutInv]
  split
  · exact h
  · exact foldl_inv (fun _ _ h => (inv_ite (giveThyme_inv h) h)) (inv_update h)

theorem execSbcDelivery_inv {ctx ch v : Nat} (h : Inv s) : OutInv (execSbcDelivery ctx ch v s) := by
  unfold execSbcDelivery
  dsimp only [OutInv]
  split
  · exact h
  · exact foldl_inv (fun _ _ h => giveThyme_inv h) (inv_update h)

theorem execPreemptSignalIssue_inv {ctx : Nat} {teams : List Nat} (h : Inv s) : OutInv (execPreemptSignalIssue ctx teams s) :=
  inv_update h

theorem preemptGang_inv {g : Nat} (h : Inv s) : Inv (preemptGang s g) :=
  inv_ite (modGang_inv h) (inv_ite (modGang_inv h) (modGang_inv h))

theorem execPreemptSignalDelivery_inv (h : Inv s) : OutInv (execPreemptSignalDelivery s) := by
  unfold execPreemptSignalDelivery
  dsimp only [OutInv]
  split
  · exact h
  · refine foldl_inv (fun _ _ h => ?_) (inv_update h)
    split
    · exact foldl_inv (fun _ _ h => inv_ite (preemptGang_inv h) h) h
    · exact h

theorem execBarrierWaiterResume_inv {t b : Nat} (h : Inv s) : OutInv (execBarrierWaiterResume t b s) := by
  unfold execBarrierWaiterResume
  dsimp only [OutInv]
  split
  · exact foldl_inv (fun _ _ h => inv_ite (modGang_inv h) h) h
  · exact h

theorem execPackageTimeTick_inv (h : Inv s) : OutInv (execPackageTimeTick s) := by
  unfold execPackageTimeTick
  dsimp only [OutInv]
  split
  · exact ⟨h.1, h.2.1, Nat.zero_lt_succ 3⟩
  · exact h

theorem execGelse_inv {off : BitVec 24} (h : Inv s) : OutInv (execGelse off s) := by
  refine commit_inv h ?_
  dsimp only
  split
  · refine inv_ite (modGang_inv h) (inv_ite h (inv_ite (modCur_inv (modGang_inv h)) ?_))
    exact modCur_inv (inv_ite (modGang_inv h) h)
  · exact inv_ite (modCur_inv h) h

theorem execGend_inv (h : Inv s) : OutInv (execGend s) := by
  refine commit_inv h (keepStall_inv ?_)
  dsimp only
  split
  · exact inv_ite h (inv_ite (modCur_inv (popIdx_inv h)) (recheckTeam_inv (arrivePair_inv h)))
  · exact h

theorem execEnq_inv {ra rb : SReg} (h : Inv s) : OutInv (execEnq ra rb s) := by
  refine commit_inv h ?_
  dsimp only
  split
  · exact doRelease_inv h
  · exact raiseStore_inv (addTxn_inv (mkAcc_inv (mkAcc_inv (doRelease_inv h))))

theorem execRecd_inv {ra : SReg} (h : Inv s) : OutInv (execRecd ra s) := by
  refine commit_inv h ?_
  dsimp only
  split
  · exact doRelease_inv h
  · exact inv_ite (doRelease_inv h) (modBank_inv (raiseStore_inv (addTxn_inv (doRelease_inv h))))

theorem execLds_inv {sz : Size} {rd ra : SReg} {off : BitVec 26} (h : Inv s) : OutInv (execLds sz rd ra off s) := by
  refine commit_inv h ?_
  dsimp only
  split
  · exact h
  · split
    · exact addIlk_inv (cacheWalk_inv h)
    · exact addTxn_inv (addIlk_inv (cacheWalk_inv h))

theorem execSts_inv {sz : Size} {rd ra : SReg} {off : BitVec 26} (h : Inv s) : OutInv (execSts sz rd ra off s) := by
  refine commit_inv h ?_
  dsimp only
  split
  · exact h
  · exact raiseStore_inv (addTxn_inv (modCur_inv (mkAcc_inv h)))

theorem execAcqr_inv {sd ra : SReg} (h : Inv s) : OutInv (execAcqr sd ra s) := by
  refine commit_inv h ?_
  dsimp only
  split
  · exact h
  · exact modCur_inv (addTxn_inv (addIlk_inv (mkAcc_inv h)))

theorem execCsrw_inv {c : Csr} {ra : SReg} (h : Inv s) : OutInv (execCsrw c ra s) := by
  refine commit_inv h ?_
  cases c with
  | lc | lnk | abase => exact inFlight_inv h
  | cyc | roff | rgn | ctx | stkd | spare | pdecl | peff => exact h

/-- Every instruction and event keeps the invariant. -/
theorem exec_inv {i : Instr} (h : Inv s) : OutInv (exec i s) := by
  cases i
  case delayOnly => exact commit_inv h (popQueues_inv h)
  case resultLand | freezeEnd | spareHandoverEnd => exact inv_ite (modGang_inv h) h
  case interlockedResultWrite => exact execInterlockedResultWrite_inv h
  case l1Fill => exact execL1Fill_inv h
  case storeAck => exact execStoreAck_inv h
  case tInstrBegin => exact inv_ite (beginOp_inv h) h
  case tInstrComplete => exact inv_ite (completeOp_inv h) h
  case keyedPlacement => exact execKeyedPlacement_inv h
  case patrolScrub => exact h
  case sageQueuePush => exact execSageQueuePush_inv h
  case copyCommandStart => exact execCopyCommandStart_inv h
  case copyPiece => exact execCopyPiece_inv h
  case copyCommandComplete => exact execCopyCommandComplete_inv h
  case copyCounterFall => exact execCopyCounterFall_inv h
  case copyQueuePush => exact execCopyQueuePush_inv h
  case cpygEntryTake => exact execCpygEntryTake_inv h
  case homeWritePerform => exact execHomeWritePerform_inv h
  case homeRead => exact execHomeRead_inv h
  case replicaCreate | clearLastingMark | escapeWaitExpiry | budgetWindowRefill => exact inv_ite (inv_update h) h
  case replicaDrop => exact execReplicaDrop_inv h
  case lineEviction => exact inv_ite ((evictLine_kept ..).inv h) h
  case keySlotWrite => exact execKeySlotWrite_inv h
  case correctableError => exact inv_ite (correct_inv (logSite_inv (setUnit_inv h))) h
  case uncorrectableError => exact inv_ite (poison_inv (logSite_inv (setUnit_inv h))) h
  case deferredTrap => exact inv_ite (takeDeferred_inv h) h
  case thymeRoundResult => exact execThymeRoundResult_inv h
  case sbcDelivery => exact execSbcDelivery_inv h
  case preemptSignalIssue => exact execPreemptSignalIssue_inv h
  case preemptCapture | trapEntry => exact inv_ite (capture_inv h) h
  case thymeVoteError => exact execThymeVoteError_inv h
  case barrierPhaseComplete => exact inv_ite (completePhase_inv h) h
  case barrierWaiterResume => exact execBarrierWaiterResume_inv h
  case spareGrant => exact execSpareGrant_inv h
  case pathResolve => exact execPathResolve_inv h
  case gangFinish => exact inv_ite (finishGang_inv h) h
  case partnerStop => exact inv_ite (capture_inv h) (inv_ite (modGang_inv h) h)
  case resumeCommand => exact inv_ite (resumeHalted_inv h) (resumeTrapped_inv h)
  case haltCommand => exact modGang_inv h
  case stepCommand => exact execStepCommand_inv h
  case watchdogExpiry => exact inv_ite (latchTrap_inv h) h
  case recordSubmitWindow => exact inv_ite (modBank_inv h) h
  case recordAccept => exact execRecordAccept_inv h
  case overflowReturn => exact inv_ite (settleBank_inv (ringReturn_inv h)) h
  case tagDecrement => exact execTagDecrement_inv h
  case dispatchSelect => exact execDispatchSelect_inv h
  case teamStart => exact execTeamStart_inv h
  case teamSwitch => exact execTeamSwitch_inv h
  case switchThresholdExpiry => exact execSwitchThresholdExpiry_inv h
  case quantumExpiry => exact execQuantumExpiry_inv h
  case migrationSend => exact execMigrationSend_inv h
  case contextActivate => exact inv_ite (inv_ite (devSet_inv (devSet_inv (devSet_inv (devSet_inv h)))) (devSet_inv h)) h
  case contextEnd => exact endContext_inv h
  case unmapCommand => exact execUnmapCommand_inv h
  case unmapComplete => exact execUnmapComplete_inv h
  case faultRetry => exact inv_ite (freeEntry_inv h) h
  case faultAbort => exact inv_ite (endContext_inv h) h
  case remotePieceArrival => exact execRemotePieceArrival_inv h
  case linkFlitError => exact execLinkFlitError_inv h
  case deviceRegisterWrite => exact execDeviceRegisterWrite_inv h
  case startCommand => exact inv_ite (attempt_inv h) h
  case restartCommand => exact inv_ite (beginStop_inv h) (inv_ite (attempt_inv h) h)
  case startAttemptRetry => exact inv_ite (attempt_inv h) (inv_ite (runFrom_inv h) h)
  case firmwareImageUpdate => exact setMgmt_inv h
  case powerWarning => exact inv_ite (logErr_inv (devSet_inv h)) (devSet_inv h)
  case overlimitTrip => exact inv_ite (powerDown_inv (logErr_inv (storeReading_inv h))) (storeReading_inv h)
  case add | sub | and | or | xor | andn | shl | shr | sar | min | max | cmp | sel | popc | clz | mul | mulh | addi | li
      | lih | gany | gall | gcnt | gmsk | qid | csrr | qtop | qdie | vcmpf | vcmpi | plog | epset | vpld | vtwr | vpldSwap =>
    exact commit_inv h (inFlight_inv h)
  case div | rem | call | shset | ldm | ldmk | ldb | ldw => exact commit_inv h (modCur_inv (inFlight_inv h))
  case br => exact commit_inv h (inv_ite (modCur_inv h) h)
  case jmp | jmpr | mma | mmag | tzero | ttrn | tdec | cbld | fmtw | acfg | join | jins | adrn | afold | aspl | ard | awr
      | pred | pchk | dset | acq | ret | aclr => exact commit_inv h (modCur_inv h)
  case loop => exact commit_inv h (inv_ite h (modCur_inv (inFlight_inv h)))
  case trap | wait | waitr | synw | bkpt => exact commit_inv h h
  case gif =>
    exact commit_inv h (keepStall_inv (inv_ite h (inv_ite (modCurPath_inv (modCur_inv h))
      (inv_ite (pairSplit_inv h) (modCurPath_inv (pushEnt_inv h))))))
  case gelse => exact execGelse_inv h
  case goff => exact commit_inv h (retireEngines_inv h)
  case enq => exact execEnq_inv h
  case recd => exact execRecd_inv h
  case prio => exact commit_inv h (by split; exacts [modTeam_inv h, h])
  case csrw => exact execCsrw_inv h
  case lds => exact execLds_inv h
  case sts => exact execSts_inv h
  case amo | cas => exact commit_inv h (rmwIssue_inv h)
  case xli | xmov | xadd | xsub | xmul | xand | xxor | xshl | xshr | xpopc | xpfx | xsel | xldc | xadv | xhash =>
    exact commit_inv h (xWrite_inv h)
  case xcmpa =>
    exact commit_inv h (by split; exacts [inFlight_inv (inFlight_inv h), inFlight_inv (inFlight_inv (inFlight_inv h))])
  case vaddf | vsubf | vmulf | vfmaf | vminf | vmaxf | vrcp | vrsq | vex2 | vlg2 | vtanh | vaddi | vsubi | vmuli | vmulhi
      | vand | vor | vxor | vshl | vshr | vsar | vmini | vmaxi | vmov | vli | vbcs | vsel | vrot | vcvt | vqnt | vdqn | vred
      | vperm | vtrd => exact commit_inv h (vWrite_inv h)
  case gshf | gred | gbcst | gscan => exact commit_inv h (vWrite_inv (modCur_inv h))
  case gpsh => exact commit_inv h (by split; exacts [modCur_inv h, inFlight_inv (modCur_inv h)])
  case ldv | ldg | ldx => exact commit_inv h (vLoad_inv h)
  case stv | stm | stg | stmk | stx => exact commit_inv h (vStore_inv h)
  case cpy | cpyg | cmc | cprf | cfls | cinv | cfil => exact commit_inv h (enterCopy_inv h)
  case cpsh => exact commit_inv h (by split; exacts [enterCopy_inv h, inv_ite (addIlk_inv h) (addIlk_inv (enterCopy_inv h))])
  case bari => exact commit_inv h (by split; exacts [modTeam_inv (settleBar_inv h), h])
  case bara => exact commit_inv h (recordPhase_inv h)
  case barw => exact commit_inv h (modCurPath_inv (inv_ite (modCur_inv h) h))
  case barx => exact commit_inv h (modCurPath_inv (inv_ite h (recordPhase_inv h)))
  case syna => exact commit_inv h (thymeArrive_inv h)
  case sbc => exact commit_inv h (by split; exacts [h, inv_update h])
  case sbcRd | time => exact commit_inv h (addIlk_inv h)
  case sred => exact commit_inv h (addIlk_inv (thymeArrive_inv h))
  case fence => exact commit_inv h (modCur_inv (doRelease_inv h))
  case rel => exact commit_inv h (doRelease_inv h)
  case acqr => exact execAcqr_inv h
  case bundleFetch => exact execBundleFetch_inv h
  case apertureLoadReturn => exact execApertureLoadReturn_inv h
  case dieTemperatureWarning => exact inv_ite (logErr_inv (storeReading_inv h)) (storeReading_inv h)
  case preemptSignalDelivery => exact execPreemptSignalDelivery_inv h
  case packageTimeTick => exact execPackageTimeTick_inv h
  case priorityAgeing => exact foldl_inv (fun _ _ h => by split; exacts [switchTo_inv h, h]) (ageAll_inv h)
  case stopCommand => exact inv_ite (beginStop_inv h) h
  case immediateOff => exact powerDown_inv h
  case clearStepRecord => exact inv_ite (setMgmt_inv h) h
  case stopGraceExpiry | controlCoreStopAck => exact inv_ite (finishStop_inv h) h
  case mainPowerLoss => exact setMgmt_inv (mainOff_inv (inv_ite (failStep_inv h) h))
  case exit => exact commit_inv h (retireEngines_inv (modCur_inv h))
  case gend => exact execGend_inv h
  case gsplit => exact commit_inv h (inv_ite (requestSpare_inv h) h)
  case yield => exact commit_inv h (by split; exacts [by split; exacts [switchTo_inv h, h], h])
  case fencei => exact commit_inv h (modCur_inv (modPair_inv h))
  case errorLogClear => exact execErrorLogClear_inv h

/-! Issue and the clock. -/

theorem runFlow_inv {id : Nat} (h : Inv s) : Inv (runFlow id s) := by
  unfold runFlow
  dsimp only
  split
  · exact inv_update ((spendFlit_kept ..).inv h)
  · exact h

theorem runSlots_inv {go : Bool} {xs : List (Nat × Instr)} (h : Inv s) : OutInv (runSlots go xs s) := by
  induction xs generalizing s with
  | nil => exact h
  | cons x xs ih => exact after_inv (exec_inv h) (fun h => ih h)

theorem finishIssue_inv {p : PathSlot} {b : Bundle} (h : Inv s) : Inv (finishIssue p b s) :=
  modCur_inv (inv_ite h (popQueues_inv h))

theorem openTry_inv (h : Inv s) : Inv (openTry s) :=
  inv_update h

theorem markTried_inv {g : Nat} {ps : List PathSlot} (h : Inv s) : Inv (markTried g ps s) :=
  inv_update h

theorem curAt_inv {g : Nat} {p : PathSlot} {len : Nat} (h : Inv s) : Inv (curAt s g p len) :=
  inv_update h

theorem setCur_inv {g : Nat} {p : PathSlot} {b : Bundle} {len : Nat} (h : Inv s) : Inv (setCur s g p b len) :=
  inv_update (curAt_inv h)

theorem pathTrap_inv {g : Nat} {p : PathSlot} {cause : BitVec 8} {va : Nat} {opc : BitVec 8} {slot : Nat} (h : Inv s) :
    Inv (pathTrap g p cause va opc slot s) :=
  latchTrap_inv h

theorem encodingStop_inv {g : Nat} {p : PathSlot} {b : Bundle} {cause opc : BitVec 8} {slot : Nat} (h : Inv s) :
    OutInv (encodingStop g p b cause opc slot s) := by
  unfold encodingStop
  split
  · exact runSlots_inv h
  · exact pathTrap_inv h

theorem tryBroken_inv {g : Nat} {p : PathSlot} {b : Bundle} {cause opc : BitVec 8} {slot : Nat} (h : Inv s) :
    OutInv (tryBroken g p b cause opc slot s) := by
  have hc : Inv (setCur (earlyWrites s g) g p b 4) := setCur_inv (earlyWrites_inv h)
  unfold tryBroken
  dsimp only
  split
  · exact pathTrap_inv hc
  · exact encodingStop_inv hc

theorem issueBundle_inv {g : Nat} {p : PathSlot} {b : Bundle} (h : Inv s) : OutInv (issueBundle g p b s) :=
  after_inv (runSlots_inv (inv_update h)) (fun h => finishIssue_inv (markTried_inv h))

theorem gateIssue_inv {o : Outcome} (h : Inv s) (ho : OutInv o) : OutInv (gateIssue s o) :=
  after_inv ho (fun ht => inv_ite (inv_update ht) (holdPath_inv h))

theorem tryBundle_inv {g : Nat} {p : PathSlot} {b : Bundle} {len : Nat} (h : Inv s) : OutInv (tryBundle g p b len s) := by
  have hc : Inv (setCur (earlyWrites s g) g p b len) := setCur_inv (earlyWrites_inv h)
  unfold tryBundle
  dsimp only
  split
  · exact encodingStop_inv (markTried_inv hc)
  split
  · exact runSlots_inv (by split; exacts [holdPath_inv hc, hc])
  · exact runSlots_inv (inv_ite (markTried_inv hc) hc)
  · exact gateIssue_inv hc (issueBundle_inv hc)

theorem beginTry_inv {g : Nat} {p : PathSlot} (h : Inv s) : Inv (beginTry g p s) :=
  inv_ite (dropWalks_inv (openTry_inv (markTried_inv h))) (openTry_inv (markTried_inv h))

theorem tryPath_inv {g : Nat} {p : PathSlot} (h : Inv s) : OutInv (tryPath g p s) := by
  have hb : Inv (beginTry g p s) := beginTry_inv h
  unfold tryPath
  dsimp only
  generalize beginTry g p s = u at hb ⊢
  refine after_inv ?_ (fun h => inv_update h)
  cases chance u g p with
  | idle | held => exact holdPath_inv (curAt_inv hb)
  | absent => dsimp only [OutInv]; split; exacts [recordFault_inv (holdPath_inv (curAt_inv hb)), hb]
  | ends => dsimp only [OutInv]; split; exacts [endContext_inv hb, hb]
  | trap => exact pathTrap_inv (logTrap_inv (markTried_inv (curAt_inv hb)))
  | broken => exact tryBroken_inv (markTried_inv hb)
  | bundle => exact tryBundle_inv hb

theorem serve_inv (h : Inv s) : OutInv (serve s) := by
  unfold serve
  dsimp only
  split
  · exact h
  split
  · split
    · exact exec_inv h
    · exact runFlow_inv h
  · exact h

theorem perform_inv {i : Instr} (h : Inv s) : Inv (perform i s) := by
  have hi := exec_inv (i := i) h
  unfold perform
  cases he : exec i s with
  | next t => rw [he] at hi; exact hi
  | fault | refused => exact h

theorem notePhases_inv {g : Nat} (h : Inv s) : Inv (notePhases s g) := by
  unfold notePhases
  dsimp only
  split
  · exact modGang_inv h
  · exact h

theorem nextGangCycle_inv {g : Nat} (h : Inv s) : Inv (nextGangCycle s g) := by
  unfold nextGangCycle
  dsimp only
  refine inv_ite (perform_inv (modGang_inv h)) (inv_ite (modGang_inv (modGang_inv h)) ?_)
  have hn : ∀ {f k : Gang → Gang}, Inv (notePhases (giveUpSpare (modGang (modGang s g f) g k) g) g) :=
    notePhases_inv (giveUpSpare_inv (modGang_inv (modGang_inv h)))
  refine inv_ite (landOpX_inv ?_) ?_
  all_goals exact inv_ite (stepRuns_inv hn) hn

theorem agePkts_inv (h : Inv s) : Inv (agePkts s) :=
  inv_update h

theorem tickOver_inv (h : Inv s) : Inv (tickOver s) := by
  unfold tickOver
  split
  · exact perform_inv h
  next hsub =>
  have hlt : s.sub + 1 < 4 := by have := h.2.2; omega
  exact ⟨h.1, h.2.1, hlt⟩

theorem nextCycle_inv (h : Inv s) : Inv (nextCycle s) := by
  have ht : Inv (tickOver (flushPushes s)) := tickOver_inv (flushPushes_inv h)
  unfold nextCycle
  dsimp only
  refine inv_update (foldl_inv (fun _ _ h => modGang_inv h) (agePkts_inv ?_))
  exact foldl_inv (fun _ _ h => nextGangCycle_inv h) (inv_ite (perform_inv ht) ht)

/-- Every step keeps the invariant. -/
theorem step_inv (h : Inv s) : OutInv (step s) := by
  unfold step
  split
  · exact exec_inv h
  split
  · split
    · exact exec_inv h
    · exact h
  split
  · exact serve_inv h
  split
  · exact tryPath_inv h
  split
  · exact exec_inv h
  · exact nextCycle_inv h

end

end Sys2Proof.Machine

namespace Sys2Proof
open Machine

/-- Settles O57: every function of the state that a step calls keeps the invariant, the step's own branches last. -/
theorem stepKeepsInvariant : Obligations.StepKeepsInvariant := by
  intro s t h ht
  have hs := step_inv h
  rw [ht] at hs
  exact hs

end Sys2Proof
end

section
/-! What reset leaves (08 R205; 22 R436, R440). -/

namespace Sys2Proof.Machine

theorem inv_reset : Inv State.reset := ⟨reset_mem_wf, fun _ => rfl, Nat.zero_lt_succ 3⟩

/-- No context's block lies over the two words of the management window that reset leaves. -/
theorem ctxState_reset (c : Nat) : ctxState State.reset c = 0 := by
  have hword : (ctxBlock c - devBase) / 8 = 0x800 * c := by unfold ctxBlock; omega
  have h3 : 0x800 * c ≠ 0x0A000003 := by omega
  have h4 : 0x800 * c ≠ 0x0A000004 := by omega
  have hget : devGet State.reset (ctxBlock c) = 0 := by
    unfold devGet
    rw [hword]
    simp [State.reset, spGet, spFind, List.lookup, beq_eq_false_iff_ne.mpr h3, beq_eq_false_iff_ne.mpr h4]
  rw [ctxState, hget]
  rfl

end Sys2Proof.Machine

namespace Sys2Proof
open Machine

/-- Settles O58: the fields are reset's own, no context's block has a word at reset, and a step answers and keeps the invariant. -/
theorem resetState : Obligations.ResetState := by
  obtain ⟨t, ht⟩ := answers_step State.reset
  exact ⟨inv_reset, rfl, rfl, rfl, rfl, rfl, ctxState_reset, rfl, t, ht, stepKeepsInvariant _ _ inv_reset ht⟩

end Sys2Proof
end

section
/-! The bytes of a sector: a merge, and what memory holds of a sector as bytes (08 R198, R205). -/

namespace Sys2Proof.Machine

/-- A merged sector as one number: the old bits above the field, the field, the old bits below it. -/
theorem mergeBytes_toNat (old : BitVec 256) (off len v : Nat) :
    (mergeBytes old off len v).toNat =
      (2 ^ (8 * off) * (2 ^ (8 * len) * (old.toNat / 2 ^ (8 * off) / 2 ^ (8 * len)) + v % 2 ^ (8 * len)) +
        old.toNat % 2 ^ (8 * off)) % 2 ^ 256 := by
  unfold mergeBytes
  rw [BitVec.toNat_ofNat]
  congr 1
  generalize 2 ^ (8 * off) = lo
  generalize 2 ^ (8 * len) = w
  generalize old.toNat = n
  have hlow : lo * (n / lo) + n % lo = n := Nat.div_add_mod n lo
  have hmid : w * (n / lo / w) + n / lo % w = n / lo := Nat.div_add_mod _ w
  have hsplit : lo * (w * (n / lo / w)) + n / lo % w * lo + n % lo = n := by
    rw [Nat.mul_comm (n / lo % w), ← Nat.mul_add, hmid, hlow]
  rw [Nat.mul_add, Nat.mul_comm lo (v % w)]
  omega

theorem testBit_mergeBytes (old : BitVec 256) {off len : Nat} (v b : Nat) (h : off + len ≤ 32) :
    (mergeBytes old off len v).toNat.testBit b =
      if 8 * off ≤ b ∧ b < 8 * (off + len) then v.testBit (b - 8 * off) else old.toNat.testBit b := by
  rw [mergeBytes_toNat, Nat.testBit_mod_two_pow, Nat.testBit_two_pow_mul_add _ (Nat.mod_lt _ (Nat.two_pow_pos _)),
    Nat.testBit_two_pow_mul_add _ (Nat.mod_lt _ (Nat.two_pow_pos _))]
  by_cases hb : b < 256
  · by_cases hlo : b < 8 * off
    · rw [if_pos hlo, if_neg (by omega), Nat.testBit_mod_two_pow]
      simp [hlo, hb]
    · rw [if_neg hlo]
      by_cases hhi : b < 8 * (off + len)
      · rw [if_pos (by omega), if_pos (by omega), Nat.testBit_mod_two_pow]
        have hlen : b - 8 * off < 8 * len := by omega
        simp [hlen, hb]
      · rw [if_neg (by omega), if_neg (by omega), Nat.testBit_div_two_pow, Nat.testBit_div_two_pow,
          show b - 8 * off - 8 * len + 8 * len + 8 * off = b by omega]
        simp [hb]
  · have hout : ¬(8 * off ≤ b ∧ b < 8 * (off + len)) := by omega
    rw [if_neg hout, BitVec.testBit_toNat, BitVec.getLsbD_of_ge _ _ (by omega)]
    simp [hb]

/-- A whole sector written holds nothing of the old one. -/
theorem mergeBytes_whole (old old' : BitVec 256) (v : Nat) : mergeBytes old 0 32 v = mergeBytes old' 0 32 v := by
  apply BitVec.eq_of_toNat_eq
  apply Nat.eq_of_testBit_eq
  intro b
  rw [testBit_mergeBytes old v b (by omega), testBit_mergeBytes old' v b (by omega)]
  by_cases hb : b < 256
  · rw [if_pos (by omega), if_pos (by omega)]
  · rw [if_neg (by omega), if_neg (by omega), BitVec.testBit_toNat, BitVec.testBit_toNat, BitVec.getLsbD_of_ge _ _ (by omega),
      BitVec.getLsbD_of_ge _ _ (by omega)]

end Sys2Proof.Machine

namespace Sys2Proof
open Machine

/-- Settles O41: bit by bit, a merged sector has the value's bits in the field and the old ones elsewhere. -/
theorem mergedBytes : Obligations.MergedBytes := by
  intro old off len v i h hi
  have hbyte : ∀ n k j : Nat, (n / 2 ^ (8 * k) % 256).testBit j = (decide (j < 8) && n.testBit (j + 8 * k)) := fun n k j => by
    rw [show 256 = 2 ^ 8 from rfl, Nat.testBit_mod_two_pow, Nat.testBit_div_two_pow]
  apply Nat.eq_of_testBit_eq
  intro j
  rw [hbyte]
  by_cases hj : j < 8
  · rw [testBit_mergeBytes old v _ h]
    by_cases hin : off ≤ i ∧ i < off + len
    · rw [if_pos hin, if_pos (by omega), hbyte, show j + 8 * i - 8 * off = j + 8 * (i - off) by omega]
    · rw [if_neg hin, if_neg (by omega), hbyte]
  · split <;> simp [hbyte, hj]

end Sys2Proof
end

section
/-! A home's sectors, in the slice and in memory: what each operation of the shared level leaves of them (08 R198, R203–R205,
R211). -/

namespace Sys2Proof.Machine

/-! Memory's sectors. -/

theorem leBytes_length (n v : Nat) : (leBytes n v).length = n := by
  induction n generalizing v with
  | zero => rfl
  | succ n ih => simp [leBytes, ih]

theorem leNat_leBytes (n v : Nat) : leNat (leBytes n v) = v % 256 ^ n := by
  induction n generalizing v with
  | zero => simp [leBytes, leNat, Nat.mod_one]
  | succ n ih =>
    rw [leBytes, leNat, ih, BitVec.toNat_ofNat, show 2 ^ 8 = 256 from rfl, Nat.pow_succ, Nat.mul_comm (256 ^ n), Nat.mod_mul]

theorem memSector_memPutSector (s : State) (sec q : Nat) (v : BitVec 256) :
    memSector (memPutSector s sec v) q = if q = sec then v else memSector s q := by
  have hget : ∀ i, i < 32 → spGet 0 (memPutSector s sec v).mem (32 * q + i) =
      if q = sec then (leBytes 32 v.toNat).getD i 0 else spGet 0 s.mem (32 * q + i) := fun i hi => by
    simp only [memPutSector, spGet_spSetList, leBytes_length]
    by_cases hq : q = sec
    · subst hq
      rw [if_pos rfl, if_pos (by omega), Nat.add_sub_cancel_left]
    · rw [if_neg hq, if_neg (by omega)]
  unfold memSector
  rw [List.map_congr_left (fun i hi => hget i (List.mem_range.mp hi))]
  by_cases hq : q = sec
  · simp only [if_pos hq]
    have hlist : (List.range 32).map (fun i => (leBytes 32 v.toNat).getD i 0) = leBytes 32 v.toNat := by
      apply List.ext_getElem
      · simp [leBytes_length]
      · intro i h1 h2; simp [List.getD_eq_getElem?_getD, h2]
    rw [hlist, leNat_leBytes]
    apply BitVec.eq_of_toNat_eq
    have := v.isLt
    rw [BitVec.toNat_ofNat]; omega
  · simp only [if_neg hq]

@[simp] theorem memSector_slPut (s : State) (sec slice q : Nat) (x : SlSector) :
    memSector (slPut s sec slice x) q = memSector s q := rfl
@[simp] theorem memSector_slDrop (s : State) (sec slice q : Nat) : memSector (slDrop s sec slice) q = memSector s q := rfl
@[simp] theorem memSector_setMemBad (s : State) (sec q : Nat) (b : Bool) : memSector (setMemBad s sec b) q = memSector s q := rfl
@[simp] theorem memSector_dropReplicas (s : State) (line q : Nat) : memSector (dropReplicas s line) q = memSector s q := rfl

theorem mem_setMemBad (s : State) (sec q : Nat) (b : Bool) :
    q ∈ (setMemBad s sec b).memBad ↔ if q = sec then b = true else q ∈ s.memBad := by
  unfold setMemBad
  by_cases hq : q = sec
  · subst hq
    cases b <;> simp
    split <;> simp_all
  · cases b <;> simp [hq]
    split <;> simp_all

/-! The slice's sectors. -/

theorem slKey_inj {q sec k slice : Nat} (hk : k < 32) (hs : slice < 32) :
    slKey q k = slKey sec slice ↔ q = sec ∧ k = slice := by
  unfold slKey; omega

theorem slGet_slPut (s : State) {sec slice q k : Nat} (x : SlSector) (hk : k < 32) (hs : slice < 32) :
    slGet (slPut s sec slice x) q k = if q = sec ∧ k = slice then some x else slGet s q k := by
  simp only [slGet, slPut, spFind_spPut, slKey_inj hk hs]

theorem slGet_slDrop (s : State) {sec slice q k : Nat} (hk : k < 32) (hs : slice < 32) :
    slGet (slDrop s sec slice) q k = if q = sec ∧ k = slice then none else slGet s q k := by
  simp only [slGet, slDrop, spFind_spDel, slKey_inj hk hs]

@[simp] theorem slGet_memPutSector (s : State) (sec q k : Nat) (v : BitVec 256) :
    slGet (memPutSector s sec v) q k = slGet s q k := rfl
@[simp] theorem slGet_setMemBad (s : State) (sec q k : Nat) (b : Bool) : slGet (setMemBad s sec b) q k = slGet s q k := rfl
@[simp] theorem slGet_dropReplicas (s : State) (line q k : Nat) : slGet (dropReplicas s line) q k = slGet s q k := rfl
@[simp] theorem linePresent_dropReplicas (s : State) (n line slice : Nat) : 
    linePresent (dropReplicas s n) line slice = linePresent s line slice := rfl

theorem mem_lineSectors (line q : Nat) : q ∈ lineSectors line ↔ q / 8 = line := by
  simp only [lineSectors, List.mem_map, List.mem_range]
  constructor
  · rintro ⟨i, hi, rfl⟩; omega
  · intro h; exact ⟨q % 8, by omega, by omega⟩

/-- What an operation on the sectors of a set S leaves: memory and its poison marks outside S, and the state's other parts. -/
structure HomeKept (S : Nat → Prop) (s t : State) : Prop where
  sector : ∀ q, ¬S q → memSector t q = memSector s q ∧ (q ∈ t.memBad ↔ q ∈ s.memBad)
  priv : t.priv = s.priv
  dev : t.dev = s.dev
  gangs : t.gangs = s.gangs
  teams : t.teams = s.teams

theorem HomeKept.refl (S : Nat → Prop) (s : State) : HomeKept S s s := ⟨fun _ _ => ⟨rfl, .rfl⟩, rfl, rfl, rfl, rfl⟩

theorem HomeKept.trans {S : Nat → Prop} {s t u : State} (a : HomeKept S s t) (b : HomeKept S t u) : HomeKept S s u :=
  ⟨fun q hq => ⟨(b.sector q hq).1.trans (a.sector q hq).1, (b.sector q hq).2.trans (a.sector q hq).2⟩, b.priv.trans a.priv,
    b.dev.trans a.dev, b.gangs.trans a.gangs, b.teams.trans a.teams⟩

theorem HomeKept.mono {S S' : Nat → Prop} {s t : State} (h : ∀ q, S q → S' q) (a : HomeKept S s t) : HomeKept S' s t :=
  ⟨fun q hq => a.sector q (fun hS => hq (h q hS)), a.priv, a.dev, a.gangs, a.teams⟩

theorem slPut_homeKept {S : Nat → Prop} (s : State) (sec slice : Nat) (x : SlSector) : HomeKept S s (slPut s sec slice x) :=
  ⟨fun _ _ => ⟨rfl, .rfl⟩, rfl, rfl, rfl, rfl⟩

theorem slDrop_homeKept {S : Nat → Prop} (s : State) (sec slice : Nat) : HomeKept S s (slDrop s sec slice) :=
  ⟨fun _ _ => ⟨rfl, .rfl⟩, rfl, rfl, rfl, rfl⟩

theorem setMemBad_homeKept (s : State) (sec : Nat) (b : Bool) : HomeKept (· = sec) s (setMemBad s sec b) :=
  ⟨fun q hq => ⟨rfl, by rw [mem_setMemBad, if_neg hq]⟩, rfl, rfl, rfl, rfl⟩

theorem memPutSector_homeKept (s : State) (sec : Nat) (v : BitVec 256) : HomeKept (· = sec) s (memPutSector s sec v) :=
  ⟨fun q hq => ⟨by rw [memSector_memPutSector, if_neg hq], .rfl⟩, rfl, rfl, rfl, rfl⟩

theorem writeBack_homeKept (s : State) (sec slice : Nat) : HomeKept (· = sec) s (writeBack s sec slice) := by
  unfold writeBack
  split
  · split
    · exact ((memPutSector_homeKept ..).trans (setMemBad_homeKept ..)).trans (slPut_homeKept ..)
    · split
      · exact setMemBad_homeKept ..
      · exact .refl ..
  · exact .refl ..

theorem slGet_writeBack (s : State) {sec slice q k : Nat} (hk : k < 32) (hs : slice < 32) (hne : ¬(q = sec ∧ k = slice)) :
    slGet (writeBack s sec slice) q k = slGet s q k := by
  unfold writeBack
  split
  · split
    · rw [slGet_slPut _ _ hk hs, if_neg hne]; rfl
    · split <;> rfl
  · rfl

/-- The step of an eviction: a sector written back and dropped. -/
def evictSector (slice : Nat) (s : State) (q : Nat) : State := slDrop (writeBack s q slice) q slice

theorem evictLine_eq (s : State) (line slice : Nat) :
    evictLine s line slice = (lineSectors line).foldl (evictSector slice) s := rfl

theorem slGet_evictSector (s : State) {sec slice q k : Nat} (hk : k < 32) (hs : slice < 32) :
    slGet (evictSector slice s sec) q k = if q = sec ∧ k = slice then none else slGet s q k := by
  unfold evictSector
  rw [slGet_slDrop _ hk hs]
  split
  · rfl
  · rename_i hne; exact slGet_writeBack s hk hs hne

theorem slGet_evictSectors (s : State) {slice q k : Nat} (qs : List Nat) (hk : k < 32) (hs : slice < 32) :
    slGet (qs.foldl (evictSector slice) s) q k = if q ∈ qs ∧ k = slice then none else slGet s q k := by
  induction qs generalizing s with
  | nil => simp
  | cons p qs ih =>
    rw [List.foldl_cons, ih, slGet_evictSector s hk hs]
    by_cases hks : k = slice <;> by_cases hqp : q = p <;> simp [hks, hqp]

theorem slGet_evictLine (s : State) {line slice q k : Nat} (hk : k < 32) (hs : slice < 32) :
    slGet (evictLine s line slice) q k = if q / 8 = line ∧ k = slice then none else slGet s q k := by
  rw [evictLine_eq, slGet_evictSectors s _ hk hs]
  simp only [mem_lineSectors]

theorem evictSectors_homeKept (s : State) (line slice : Nat) (qs : List Nat) (hqs : ∀ q ∈ qs, q / 8 = line) :
    HomeKept (· / 8 = line) s (qs.foldl (evictSector slice) s) := by
  induction qs generalizing s with
  | nil => exact .refl ..
  | cons p qs ih =>
    have hp : p / 8 = line := hqs p List.mem_cons_self
    have hstep : HomeKept (· / 8 = line) s (evictSector slice s p) :=
      ((writeBack_homeKept s p slice).mono (fun q (hq : q = p) => by rw [hq]; exact hp)).trans (slDrop_homeKept ..)
    exact hstep.trans (ih _ (fun q hq => hqs q (List.mem_cons_of_mem _ hq)))

theorem evictLine_homeKept (s : State) (line slice : Nat) : HomeKept (· / 8 = line) s (evictLine s line slice) :=
  evictSectors_homeKept s line slice _ (fun q hq => (mem_lineSectors line q).mp hq)

/-! A line under a key slot. -/

/-- What a slice holds of a sector's line it holds under one key slot. -/
def HeldUnder (s : State) (sec slice key : Nat) : Prop :=
  ∀ q x, q ∈ lineSectors (sec / 8) → slGet s q slice = some x → x.key = key

theorem rekey_of_heldUnder {s : State} {sec slice key : Nat} (h : HeldUnder s sec slice key) : rekey s sec slice key = s := by
  unfold rekey
  rw [if_neg]
  simp only [List.any_eq_true, not_exists, not_and]
  intro q hq
  cases hx : slGet s q slice with
  | none => exact Bool.false_ne_true
  | some x => simp [h q x hq hx]

theorem heldUnder_rekey (s : State) {sec slice key : Nat} (hs : slice < 32) :
    HeldUnder (rekey s sec slice key) sec slice key := by
  intro q x hq hx
  unfold rekey at hx
  split at hx
  · rw [slGet_evictLine s hs hs, if_pos ⟨(mem_lineSectors _ q).mp hq, rfl⟩] at hx
    cases hx
  · rename_i hany
    simp only [List.any_eq_true, not_exists, not_and] at hany
    have := hany q hq
    rw [hx] at this
    simpa using this

theorem evictSector_withRepl (s : State) (R : List (Nat × Nat)) (slice q : Nat) :
    evictSector slice { s with repl := R } q = { evictSector slice s q with repl := R } := by
  have hget : slGet { s with repl := R } q slice = slGet s q slice := rfl
  unfold evictSector writeBack
  rw [hget]
  split
  · split
    · rfl
    · split <;> rfl
  · rfl

theorem evictSectors_withRepl (s : State) (R : List (Nat × Nat)) (slice : Nat) (qs : List Nat) :
    qs.foldl (evictSector slice) { s with repl := R } = { qs.foldl (evictSector slice) s with repl := R } := by
  induction qs generalizing s with
  | nil => rfl
  | cons q qs ih => rw [List.foldl_cons, evictSector_withRepl, ih]; rfl

/-- That replicas are invalidated first makes no difference to what a rekey does. -/
theorem rekey_withRepl (s : State) (R : List (Nat × Nat)) (sec slice key : Nat) :
    rekey { s with repl := R } sec slice key = { rekey s sec slice key with repl := R } := by
  have hget : ∀ q, slGet { s with repl := R } q slice = slGet s q slice := fun _ => rfl
  unfold rekey
  simp only [hget]
  split
  · exact evictSectors_withRepl ..
  · rfl

/-! A line's way in its set. -/

/-- A set with a way left for a line, or one that the line has. -/
def hasRoom (s : State) (slice line : Nat) : Prop :=
  linePresent s line slice = true ∨
    ((setLines s slice line).filter (· != line)).length < slWays s slice (homeBank (256 * line))

theorem mem_setLines_of_slGet {s : State} {q slice line : Nat} {x : SlSector} (hs : slice < 32) (hq : q / 8 = line)
    (hx : slGet s q slice = some x) : line ∈ setLines s slice line := by
  have hmem : (slKey q slice, x) ∈ s.sl := by
    obtain ⟨l₁, l₂, hl, -⟩ := List.lookup_eq_some_iff.mp hx
    rw [hl]; simp
  have hslice : slKey q slice % 32 = slice := by unfold slKey; omega
  have hline : slKey q slice / 32 / 8 = line := by unfold slKey; omega
  unfold setLines
  rw [List.mem_eraseDups]
  refine List.mem_map.mpr ⟨_, List.mem_filter.mpr ⟨hmem, ?_⟩, hline⟩
  simp [hslice, hline, sameSet]

theorem filter_ne_of_not_mem {ls : List Nat} {line : Nat} (h : line ∉ ls) : ls.filter (· != line) = ls :=
  List.filter_eq_self.mpr (fun x hx => by simpa using fun he : x = line => h (he ▸ hx))

theorem makeRoom_of_hasRoom {s : State} {slice line : Nat} (hs : slice < 32) (h : hasRoom s slice line) :
    makeRoom s slice line = s := by
  unfold makeRoom
  dsimp only
  rw [if_pos]
  by_cases hmem : line ∈ setLines s slice line
  · simp [hmem]
  rcases h with hp | hlen
  · simp only [linePresent, List.any_eq_true] at hp
    obtain ⟨q, hq, hx⟩ := hp
    obtain ⟨x, hx⟩ := Option.isSome_iff_exists.mp hx
    exact absurd (mem_setLines_of_slGet hs ((mem_lineSectors line q).mp hq) hx) hmem
  · rw [filter_ne_of_not_mem hmem] at hlen
    simp [hlen]

/-- What making room does: nothing to the sectors, or one other line of the set is written back and dropped. -/
structure RoomMade (gone : Option Nat) (slice : Nat) (s t : State) : Prop where
  kept : HomeKept (fun q => gone = some (q / 8)) s t
  held : ∀ q k, k < 32 → slGet t q k = slGet s q k ∨ (k = slice ∧ gone = some (q / 8) ∧ slGet t q k = none)

theorem makeRoom_roomMade (s : State) {slice line : Nat} (hs : slice < 32) :
    ∃ gone, (∀ l, gone = some l → l ∈ (setLines s slice line).filter (· != line) ∧ ¬hasRoom s slice line) ∧
      RoomMade gone slice s (makeRoom s slice line) := by
  by_cases hroom : hasRoom s slice line
  · exact ⟨none, fun _ h => (nomatch h), by rw [makeRoom_of_hasRoom hs hroom]; exact ⟨.refl .., fun _ _ _ => .inl rfl⟩⟩
  have hdraw : ∀ S, HomeKept S s (drawFree s).2 := fun _ => ⟨fun _ _ => ⟨rfl, .rfl⟩, rfl, rfl, rfl, rfl⟩
  unfold makeRoom
  dsimp only
  split
  · exact ⟨none, fun _ h => (nomatch h), .refl .., fun _ _ _ => .inl rfl⟩
  rename_i hfull
  split
  · rename_i l hl
    have hmem : l ∈ setLines s slice line := by
      have := List.mem_of_getElem? hl
      split at this
      · exact this
      · exact (List.mem_filter.mp this).1
    have hne : l ≠ line := by rintro rfl; simp [hmem] at hfull
    refine ⟨some l, fun k hk => ?_, ?_, fun q k hk => ?_⟩
    · obtain rfl := Option.some.inj hk
      exact ⟨List.mem_filter.mpr ⟨hmem, by simpa using hne⟩, hroom⟩
    · exact (hdraw _).trans ((evictLine_homeKept (drawFree s).2 l slice).mono (fun q hq => by simp only [← hq]))
    · rw [slGet_evictLine (drawFree s).2 hk hs]
      split
      · rename_i hq; exact .inr ⟨hq.2, by rw [hq.1], rfl⟩
      · exact .inl rfl
  · exact ⟨none, fun _ h => (nomatch h), hdraw _, fun _ _ _ => .inl rfl⟩

/-! A write at a home. -/

/-- What a write of a sector leaves of the others. -/
structure SectorWritten (sec slice : Nat) (s t : State) : Prop where
  kept : HomeKept (· = sec) s t
  held : ∀ q k, k < 32 → ¬(q = sec ∧ k = slice) → slGet t q k = slGet s q k

theorem SectorWritten.refl (sec slice : Nat) (s : State) : SectorWritten sec slice s s := ⟨.refl .., fun _ _ _ _ => rfl⟩

theorem slPut_sectorWritten (s : State) {sec slice : Nat} (x : SlSector) (hs : slice < 32) :
    SectorWritten sec slice s (slPut s sec slice x) :=
  ⟨slPut_homeKept .., fun q k hk hne => by rw [slGet_slPut s x hk hs, if_neg hne]⟩

theorem memWrite_sectorWritten (s : State) (sec slice : Nat) (v : BitVec 256) (b : Bool) :
    SectorWritten sec slice s (setMemBad (memPutSector s sec v) sec b) :=
  ⟨(memPutSector_homeKept ..).trans (setMemBad_homeKept ..), fun _ _ _ _ => rfl⟩

/-- A write whose line is held under its key writes its sector alone, once room is made for it. -/
theorem slWrite_sectorWritten {s : State} {slice sec off len v key cls : Nat} {byp : Bool} (hs : slice < 32)
    (h : HeldUnder s sec slice key) :
    let w := dropReplicas s (sec / 8)
    let t := slWrite s slice sec off len v key cls byp
    SectorWritten sec slice w t ∨ SectorWritten sec slice (makeRoom w slice (sec / 8)) t := by
  have hw : rekey (dropReplicas s (sec / 8)) sec slice key = dropReplicas s (sec / 8) := rekey_of_heldUnder h
  dsimp only
  unfold slWrite
  dsimp only
  rw [hw]
  split
  · left
    split
    · exact .refl ..
    · exact memWrite_sectorWritten ..
  split
  · left
    split
    · exact .refl ..
    · exact slPut_sectorWritten _ _ hs
  split
  · left
    split
    · exact .refl ..
    · exact memWrite_sectorWritten ..
  right
  split
  · exact slPut_sectorWritten _ _ hs
  · exact slPut_sectorWritten _ _ hs

/-- What a write whose line is held under its key changes beside its sector: a line that gives its way, if one does. -/
theorem slWrite_frame {s : State} {slice sec off len v key cls : Nat} {byp : Bool} (hs : slice < 32)
    (h : HeldUnder s sec slice key) :
    let t := slWrite s slice sec off len v key cls byp
    ∃ gone,
      (∀ l, gone = some l → l ∈ (setLines s slice (sec / 8)).filter (· != sec / 8) ∧ ¬hasRoom s slice (sec / 8)) ∧
      HomeKept (fun q => q = sec ∨ gone = some (q / 8)) s t ∧
      ∀ q k, k < 32 → ¬(q = sec ∧ k = slice) →
        slGet t q k = slGet s q k ∨ (k = slice ∧ gone = some (q / 8) ∧ slGet t q k = none) := by
  have hw : ∀ S, HomeKept S s (dropReplicas s (sec / 8)) := fun _ => ⟨fun _ _ => ⟨rfl, .rfl⟩, rfl, rfl, rfl, rfl⟩
  rcases slWrite_sectorWritten (off := off) (len := len) (v := v) (cls := cls) (byp := byp) hs h with ht | ht
  · exact ⟨none, fun _ h => (nomatch h), (hw _).trans (ht.kept.mono fun _ => .inl),
      fun q k hk hne => .inl (ht.held q k hk hne)⟩
  · obtain ⟨gone, hgone, hroom⟩ := makeRoom_roomMade (dropReplicas s (sec / 8)) (line := sec / 8) hs
    refine ⟨gone, hgone, (hw _).trans ((hroom.kept.mono fun _ => .inr).trans (ht.kept.mono fun _ => .inl)),
      fun q k hk hne => ?_⟩
    rw [ht.held q k hk hne]
    exact hroom.held q k hk

end Sys2Proof.Machine

namespace Sys2Proof
open Machine

/-- Settles O43: the write leaves every other sector of memory and of the slice, but for those of a line that gives its way. -/
theorem homeWriteFrame : Obligations.HomeWriteFrame := by
  intro s slice sec off len v key cls byp hs hheld
  dsimp only
  obtain ⟨gone, hgone, hkept, hget⟩ := slWrite_frame (off := off) (len := len) (v := v) (cls := cls) (byp := byp) hs hheld
  have hkeys := (slWrite_kept s slice sec off len v key cls byp).2.1
  have hne : ∀ {q k}, (q ≠ sec ∨ k ≠ slice) → ¬(q = sec ∧ k = slice) := by
    rintro q k h ⟨rfl, rfl⟩
    exact h.elim (· rfl) (· rfl)
  refine ⟨fun hroom => ?_, fun q hq hothers => ?_, fun hothers => ?_, fun q k hk h => ?_, hkept.priv, hkept.dev, hkept.gangs,
    hkept.teams, hkeys⟩
  · have hnone : gone = none := Option.eq_none_iff_forall_ne_some.mpr fun l hl => (hgone l hl).2 hroom
    subst hnone
    refine ⟨fun q hq => hkept.sector q (by simpa using hq), fun q k hk h => ?_⟩
    simpa using hget q k hk (hne h)
  · refine hkept.sector q ?_
    rintro (h | h)
    · exact hq h
    · exact hothers (hgone _ h).1
  · cases gone with
    | none =>
      obtain ⟨l, hl⟩ := List.exists_mem_of_ne_nil _ hothers
      refine ⟨l, hl, fun q hq _ => hkept.sector q (by simpa using hq), fun q k hk h => ?_⟩
      simpa using Or.inl (hget q k hk (hne h))
    | some l =>
      refine ⟨l, (hgone l rfl).1, fun q hq hl => hkept.sector q ?_, fun q k hk h => ?_⟩
      · simpa [hq, eq_comm] using hl
      · simpa [eq_comm] using hget q k hk (hne h)
  · rcases hget q k hk (hne h) with hsame | ⟨hk', hq, hnone⟩
    · exact .inl hsame
    · exact .inr ⟨hk', (hgone _ hq).1, hnone⟩

end Sys2Proof
end

section
/-! A write at a home is read back there (08 R198, R204, R211). -/

namespace Sys2Proof.Machine

theorem slRead_mem (s : State) (slice sec key : Nat) (byp : Bool) :
    slRead s slice sec key 3 byp = (memSector s sec, s.memBad.contains sec, s) := if_pos rfl

/-- A sector that the slice holds is read there. -/
theorem slRead_held {s : State} {slice sec key cls : Nat} {x : SlSector} (byp : Bool) (hcls : cls ≠ 3)
    (hx : slGet (rekey s sec slice key) sec slice = some x) :
    (slRead s slice sec key cls byp).1 = x.data ∧ (slRead s slice sec key cls byp).2.1 = x.poison := by
  unfold slRead
  rw [if_neg hcls]
  dsimp only
  rw [hx]
  exact ⟨rfl, rfl⟩

/-- A sector that the slice does not hold is read in memory, behind the cipher. -/
theorem slRead_notHeld {s : State} {slice sec key cls : Nat} (byp : Bool) (hcls : cls ≠ 3)
    (hx : slGet (rekey s sec slice key) sec slice = none) :
    let u := rekey s sec slice key
    (slRead s slice sec key cls byp).1 = openSector u slice key sec (memSector u sec) ∧
      (slRead s slice sec key cls byp).2.1 = u.memBad.contains sec := by
  unfold slRead
  rw [if_neg hcls]
  dsimp only
  rw [hx]
  cases byp <;> exact ⟨rfl, rfl⟩

/-- What is put at a sector whose line is held under its key is read back. -/
theorem slRead_slPut {s : State} {slice sec cls : Nat} {x : SlSector} (byp : Bool) (hs : slice < 32) (hcls : cls ≠ 3)
    (h : ∀ q y, q ∈ lineSectors (sec / 8) → slGet s q slice = some y → y.key = x.key) :
    (slRead (slPut s sec slice x) slice sec x.key cls byp).1 = x.data ∧
      (slRead (slPut s sec slice x) slice sec x.key cls byp).2.1 = x.poison := by
  have hheld : HeldUnder (slPut s sec slice x) sec slice x.key := fun q y hq hy => by
    rw [slGet_slPut s x hs hs] at hy
    split at hy
    · rw [← Option.some.inj hy]
    · exact h q y hq hy
  refine slRead_held byp hcls ?_
  rw [rekey_of_heldUnder hheld, slGet_slPut s x hs hs, if_pos ⟨rfl, rfl⟩]

theorem heldUnder_makeRoom {s : State} {sec slice key : Nat} (hs : slice < 32) (h : HeldUnder s sec slice key) (line : Nat) :
    HeldUnder (makeRoom s slice line) sec slice key := by
  obtain ⟨gone, -, hroom⟩ := makeRoom_roomMade s (line := line) hs
  intro q x hq hx
  rcases hroom.held q slice hs with he | ⟨-, -, he⟩
  · exact h q x hq (he ▸ hx)
  · rw [he] at hx; cases hx

/-- What is written to memory as it is read there, of a line that the slice does not hold or past the slice, is read back. -/
theorem slRead_memWrite {s : State} {slice sec key cls : Nat} {v : BitVec 256} (byp : Bool)
    (h : cls = 3 ∨ (key = 0 ∧ linePresent s (sec / 8) slice = false)) :
    (slRead (setMemBad (memPutSector s sec v) sec false) slice sec key cls byp).1 = v ∧
      (slRead (setMemBad (memPutSector s sec v) sec false) slice sec key cls byp).2.1 = false := by
  have hv : memSector (setMemBad (memPutSector s sec v) sec false) sec = v := by simp [memSector_memPutSector]
  have hbad : (setMemBad (memPutSector s sec v) sec false).memBad.contains sec = false := by
    rw [List.contains_eq_mem, decide_eq_false_iff_not, mem_setMemBad]
    simp
  by_cases hcls : cls = 3
  · rw [hcls, slRead_mem]
    exact ⟨hv, hbad⟩
  obtain ⟨rfl, habsent⟩ := h.resolve_left hcls
  have hnone : ∀ q, q ∈ lineSectors (sec / 8) → slGet s q slice = none := by
    simpa [linePresent] using habsent
  have hrekey : rekey (setMemBad (memPutSector s sec v) sec false) sec slice 0 = setMemBad (memPutSector s sec v) sec false :=
    rekey_of_heldUnder fun q x hq hx => by rw [slGet_setMemBad, slGet_memPutSector, hnone q hq] at hx; cases hx
  have hread := slRead_notHeld (key := 0) byp hcls (s := setMemBad (memPutSector s sec v) sec false) (sec := sec) (slice := slice)
    (by rw [hrekey]; exact hnone sec ((mem_lineSectors _ _).mpr rfl))
  dsimp only at hread
  rw [hrekey, hv, hbad] at hread
  exact hread

/-- The state that a write finds once its line is held under its key: `rekey`'s, with the line's replicas gone. -/
def writeStart (s : State) (slice sec key : Nat) : State :=
  { rekey s sec slice key with repl := (dropReplicas s (sec / 8)).repl }

theorem rekey_dropReplicas (s : State) (slice sec key : Nat) :
    rekey (dropReplicas s (sec / 8)) sec slice key = writeStart s slice sec key := rekey_withRepl ..

theorem mergeBytes_whole_or {old : BitVec 256} {off len v : Nat} (h : off + len ≤ 32) :
    mergeBytes (if len = 32 then 0 else old) off len v = mergeBytes old off len v := by
  split
  · obtain rfl : off = 0 := by omega
    subst len
    exact mergeBytes_whole ..
  · rfl

section
variable {s : State} {slice sec off len v key cls : Nat} {byp : Bool}

/-- A write of class 3 goes to memory, past the slice. -/
theorem slWrite_mem (hgood : (s.memBad.contains sec && !decide (len = 32)) = false) :
    slWrite s slice sec off len v key 3 byp =
      setMemBad (memPutSector (dropReplicas s (sec / 8)) sec (mergeBytes (memSector s sec) off len v)) sec false := by
  have hgood' : ((dropReplicas s (sec / 8)).memBad.contains sec && !decide (len = 32)) = false := hgood
  unfold slWrite
  dsimp only
  rw [if_pos rfl, hgood', if_neg Bool.false_ne_true]
  rfl

/-- A write of a sector that the slice holds goes there. -/
theorem slWrite_held {x : SlSector} (hcls : cls ≠ 3) (hx : slGet (writeStart s slice sec key) sec slice = some x)
    (hgood : (x.poison && !decide (len = 32)) = false) :
    slWrite s slice sec off len v key cls byp =
      slPut (writeStart s slice sec key) sec slice ⟨true, key, mergeBytes x.data off len v, false, cls⟩ := by
  unfold slWrite
  dsimp only
  rw [if_neg hcls, rekey_dropReplicas, hx]
  dsimp only
  rw [hgood, if_neg Bool.false_ne_true]

/-- A write of a sector that the slice does not hold goes to memory where a bypass finds no sector of its line, else the line
enters the slice. -/
theorem slWrite_notHeld (hcls : cls ≠ 3) (hlen : off + len ≤ 32) (hx : slGet (writeStart s slice sec key) sec slice = none)
    (hgood : ((writeStart s slice sec key).memBad.contains sec && !decide (len = 32)) = false) :
    let w := writeStart s slice sec key
    let new := mergeBytes (openSector w slice key sec (memSector w sec)) off len v
    slWrite s slice sec off len v key cls byp =
      if byp && !linePresent w (sec / 8) slice then setMemBad (memPutSector w sec (sealSector w slice key sec new)) sec false
      else slFill w sec slice ⟨true, key, new, false, cls⟩ := by
  unfold slWrite
  dsimp only
  rw [if_neg hcls, rekey_dropReplicas, hx]
  dsimp only
  rw [hgood, if_neg Bool.false_ne_true, if_neg Bool.false_ne_true, mergeBytes_whole_or hlen]

end

end Sys2Proof.Machine

namespace Sys2Proof
open Machine

/-- Settles O42: the cases are where the write leaves its sector: in memory past the slice, over a sector that the slice holds, in
memory in the clear, or in a line that enters the slice. -/
theorem homeWriteReadsBack : Obligations.HomeWriteReadsBack := by
  intro s slice sec off len v key cls byp b hs hlen hbyp hgood
  have hwhole : ∀ {c : Bool}, (c = false ∨ len = 32) → (c && !decide (len = 32)) = false := by
    rintro c (rfl | rfl) <;> simp
  by_cases hcls : cls = 3
  · subst hcls
    rw [slRead_mem] at hgood ⊢
    dsimp only at hgood ⊢
    rw [slWrite_mem (hwhole hgood)]
    have hr := slRead_memWrite (s := dropReplicas s (sec / 8)) (slice := slice) (sec := sec) (key := key) (cls := 3)
      (v := mergeBytes (memSector s sec) off len v) b (.inl rfl)
    exact hr
  have hheld : HeldUnder (writeStart s slice sec key) sec slice key := heldUnder_rekey s hs
  cases hx : slGet (rekey s sec slice key) sec slice with
  | some x =>
    obtain ⟨hdata, hpoison⟩ := slRead_held byp hcls hx
    rw [hpoison] at hgood
    rw [hdata, slWrite_held hcls hx (hwhole hgood)]
    exact slRead_slPut b hs hcls hheld
  | none =>
    obtain ⟨hdata, hpoison⟩ := slRead_notHeld byp hcls hx
    rw [hpoison] at hgood
    rw [hdata, slWrite_notHeld hcls hlen hx (hwhole hgood)]
    split
    · rename_i hmem
      simp only [Bool.and_eq_true, Bool.not_eq_true'] at hmem
      obtain rfl : key = 0 := hbyp.resolve_left (by simp [hmem.1])
      exact slRead_memWrite b (.inr ⟨rfl, hmem.2⟩)
    · exact slRead_slPut b hs hcls (heldUnder_makeRoom hs hheld _)

end Sys2Proof
end

section
/-! What an error leaves: the log's count, the unit's marks, and what the operations of memory leave alone (08 R208–R211; 22
R427–R434). -/

namespace Sys2Proof.Machine

/-! Operations of memory change the fields of memory and no other. -/

/-- The fields of memory: what it holds, the slices, replicas, versions not yet released, and the flits and free choices spent. -/
def MemOnly (s t : State) : Prop := ∃ mem memBad sl repl priv ntag free budget,
  t = { s with mem := mem, memBad := memBad, sl := sl, repl := repl, priv := priv, ntag := ntag, free := free, budget := budget }

theorem MemOnly.refl (s : State) : MemOnly s s := ⟨_, _, _, _, _, _, _, _, rfl⟩

theorem MemOnly.trans {s t u : State} (a : MemOnly s t) (b : MemOnly t u) : MemOnly s u := by
  obtain ⟨_, _, _, _, _, _, _, _, rfl⟩ := a
  obtain ⟨_, _, _, _, _, _, _, _, rfl⟩ := b
  exact ⟨_, _, _, _, _, _, _, _, rfl⟩

theorem MemOnly.foldl {α : Type} {f : State → α → State} (h : ∀ s x, MemOnly s (f s x)) (xs : List α) (s : State) :
    MemOnly s (xs.foldl f s) := by
  induction xs generalizing s with
  | nil => exact .refl s
  | cons x xs ih => exact (h s x).trans (ih (f s x))

theorem memPutSector_memOnly (s : State) (sec : Nat) (v : BitVec 256) : MemOnly s (memPutSector s sec v) :=
  ⟨_, _, _, _, _, _, _, _, rfl⟩
theorem setMemBad_memOnly (s : State) (sec : Nat) (b : Bool) : MemOnly s (setMemBad s sec b) := ⟨_, _, _, _, _, _, _, _, rfl⟩
theorem slPut_memOnly (s : State) (sec slice : Nat) (x : SlSector) : MemOnly s (slPut s sec slice x) :=
  ⟨_, _, _, _, _, _, _, _, rfl⟩
theorem slDrop_memOnly (s : State) (sec slice : Nat) : MemOnly s (slDrop s sec slice) := ⟨_, _, _, _, _, _, _, _, rfl⟩
theorem dropReplicas_memOnly (s : State) (line : Nat) : MemOnly s (dropReplicas s line) := ⟨_, _, _, _, _, _, _, _, rfl⟩
theorem drawFree_memOnly (s : State) : MemOnly s (drawFree s).2 := ⟨_, _, _, _, _, _, _, _, rfl⟩

theorem memWrite_memOnly (s : State) (sec : Nat) (v : BitVec 256) (b : Bool) :
    MemOnly s (setMemBad (memPutSector s sec v) sec b) := (memPutSector_memOnly ..).trans (setMemBad_memOnly ..)

theorem writeBack_memOnly (s : State) (sec slice : Nat) : MemOnly s (writeBack s sec slice) := by
  unfold writeBack
  split
  · split
    · exact (memWrite_memOnly ..).trans (slPut_memOnly ..)
    · split
      · exact setMemBad_memOnly ..
      · exact .refl s
  · exact .refl s

theorem evictLine_memOnly (s : State) (line slice : Nat) : MemOnly s (evictLine s line slice) :=
  .foldl (fun s q => (writeBack_memOnly s q slice).trans (slDrop_memOnly ..)) ..

theorem rekey_memOnly (s : State) (sec slice key : Nat) : MemOnly s (rekey s sec slice key) := by
  unfold rekey
  split
  · exact evictLine_memOnly ..
  · exact .refl s

theorem makeRoom_memOnly (s : State) (slice line : Nat) : MemOnly s (makeRoom s slice line) := by
  unfold makeRoom
  dsimp only
  split
  · exact .refl s
  · split
    · exact (drawFree_memOnly s).trans (evictLine_memOnly ..)
    · exact drawFree_memOnly s

theorem slFill_memOnly (s : State) (sec slice : Nat) (x : SlSector) : MemOnly s (slFill s sec slice x) :=
  (makeRoom_memOnly ..).trans (slPut_memOnly ..)

theorem slWrite_memOnly (s : State) (slice sec off len v key cls : Nat) (byp : Bool) :
    MemOnly s (slWrite s slice sec off len v key cls byp) := by
  have hd := dropReplicas_memOnly s (sec / 8)
  have hr := hd.trans (rekey_memOnly (dropReplicas s (sec / 8)) sec slice key)
  unfold slWrite
  dsimp only
  split
  · split
    · exact hd
    · exact hd.trans (memWrite_memOnly ..)
  split
  · split
    · exact hr
    · exact hr.trans (slPut_memOnly ..)
  split
  · split
    · exact hr
    · exact hr.trans (memWrite_memOnly ..)
  · split <;> exact hr.trans (slFill_memOnly ..)

theorem markBad_memOnly (s : State) (sec slice : Nat) : MemOnly s (markBad s sec slice) := by
  unfold markBad
  split
  · exact slPut_memOnly ..
  · exact setMemBad_memOnly ..

theorem publishOne_memOnly (s : State) (p : Priv) : MemOnly s (publishOne s p) := by
  have hp : MemOnly s { s with priv := s.priv.filter (fun q => q != p) } := ⟨_, _, _, _, _, _, _, _, rfl⟩
  have hw := hp.trans (slWrite_memOnly { s with priv := s.priv.filter (fun q => q != p) } p.slice p.sector 0 32 p.data.toNat p.key
    p.cls p.byp)
  unfold publishOne
  dsimp only
  split
  · exact hw.trans (markBad_memOnly ..)
  · exact hw

theorem publishTeam_memOnly (s : State) (team : Nat) : MemOnly s (publishTeam s team) := .foldl publishOne_memOnly ..

/-! The units' errors. -/

theorem unitErr_setUnit (s : State) (u : UnitId) (e : UnitErr) : unitErr (setUnit s u e) u = e := by
  show spGet UnitErr.clear (spSet UnitErr.clear s.units (unitKey u) e) (unitKey u) = e
  rw [spGet_spSet, if_pos rfl]

theorem unitErr_of_units {s t : State} (h : t.units = s.units) (u : UnitId) : unitErr t u = unitErr s u := by
  unfold unitErr
  rw [h]

/-! The error log. -/

theorem devGet_foldl_devSet (xs : List (DWord × Nat)) (base : Nat) (s : State) (b : Nat)
    (h : ∀ x ∈ xs, (b - devBase) / 8 ≠ (base + 8 * x.2 - devBase) / 8) :
    devGet (xs.foldl (fun s x => devSet s (base + 8 * x.2) x.1) s) b = devGet s b := by
  induction xs generalizing s with
  | nil => rfl
  | cons x xs ih =>
    rw [List.foldl_cons, ih _ (fun y hy => h y (List.mem_cons_of_mem _ hy)), devGet_devSet, if_neg (h x List.mem_cons_self)]

/-- The log's words, the interrupts raised and the Redfish events. -/
def LogOnly (s t : State) : Prop :=
  ∃ dev irqs evs, t = { s with dev := dev, irqs := irqs, mgmt := { s.mgmt with lastEvents := evs } }

theorem LogOnly.refl (s : State) : LogOnly s s := ⟨_, _, _, rfl⟩

theorem LogOnly.trans {s t u : State} (a : LogOnly s t) (b : LogOnly t u) : LogOnly s u := by
  obtain ⟨_, _, _, rfl⟩ := a
  obtain ⟨_, _, _, rfl⟩ := b
  exact ⟨_, _, _, rfl⟩

theorem LogOnly.foldl {α : Type} {f : State → α → State} (h : ∀ s x, LogOnly s (f s x)) (xs : List α) (s : State) :
    LogOnly s (xs.foldl f s) := by
  induction xs generalizing s with
  | nil => exact .refl s
  | cons x xs ih => exact (h s x).trans (ih (f s x))

theorem LogOnly.ite {c : Prop} [Decidable c] {s t u : State} (a : LogOnly s t) (b : LogOnly s u) :
    LogOnly s (if c then t else u) := by
  split
  · exact a
  · exact b

theorem devSet_logOnly (s : State) (a : Nat) (v : DWord) : LogOnly s (devSet s a v) := ⟨_, _, _, rfl⟩
theorem raiseIrq_logOnly (s : State) (i : Irq) : LogOnly s (raiseIrq s i) := ⟨_, _, _, rfl⟩
theorem event_logOnly (s : State) (evs : List (BitVec 16)) : LogOnly s { s with mgmt := { s.mgmt with lastEvents := evs } } :=
  ⟨_, _, _, rfl⟩

/-- What a logged error changes: words of the log, and what the cores and the controller are told. -/
theorem logErr_logOnly (s : State) (r : ErrRec) : LogOnly s (logErr s r) := by
  have hw : ∀ {xs : List (DWord × Nat)} {base : Nat}, LogOnly s (xs.foldl (fun s p => devSet s (base + 8 * p.2) p.1) s) :=
    .foldl (fun _ _ => devSet_logOnly ..) ..
  have hu : ∀ {c : Prop} [Decidable c] {t : State} {pa : Nat} {v : DWord}, LogOnly s t →
      LogOnly s (if c then devSet t pa v else t) := fun ht => .ite (ht.trans (devSet_logOnly ..)) ht
  have hi : ∀ {c : Prop} [Decidable c] {t : State} {q : Irq}, LogOnly s t → LogOnly s (if c then t else raiseIrq t q) :=
    fun ht => .ite ht (ht.trans (raiseIrq_logOnly ..))
  have ht : ∀ {xs : List (DWord × Nat)} {base : Nat} {v : DWord},
      LogOnly s (devSet (xs.foldl (fun s p => devSet s (base + 8 * p.2) p.1) s) logBase v) := hw.trans (devSet_logOnly ..)
  exact .ite ((hi (hu ht)).trans (event_logOnly ..)) (hi (hu ht))

/-- The words beside the records and the count of overwritten ones: the error count, and those that a logged error leaves. -/
theorem devGet_logErr (s : State) (r : ErrRec) {a : Nat} (hrec : ∀ j, j < 2 ^ 24 → (a - devBase) / 8 ≠ 0x08200000 + j)
    (hlost : (a - devBase) / 8 ≠ 0x08000003) :
    devGet (logErr s r) a = if (a - devBase) / 8 = 0x08000000 then devGet s logBase + 1 else devGet s a := by
  have hbase : (logBase - devBase) / 8 = 0x08000000 := by unfold logBase; omega
  have hover : (logBase + 24 - devBase) / 8 = 0x08000003 := by unfold logBase devBase; omega
  have hfold : ∀ n, devGet ((errWords s (n + 1) r).zipIdx.foldl
      (fun s p => devSet s (logBase + 0x01000000 + 64 * ((n + 1 - 1) % 2 ^ 21) + 8 * p.2) p.1) s) a = devGet s a := fun n => by
    generalize hb : logBase + 0x01000000 + 64 * ((n + 1 - 1) % 2 ^ 21) = base
    have hne : ∀ p ∈ (errWords s (n + 1) r).zipIdx, (a - devBase) / 8 ≠ (base + 8 * p.2 - devBase) / 8 := fun p hp => by
      have hp8 : p.2 < 8 := by
        have := List.snd_lt_of_mem_zipIdx hp
        rwa [errWords, List.length_map, List.length_range] at this
      have hdiv : (base + 8 * p.2 - devBase) / 8 = 0x08200000 + (8 * ((n + 1 - 1) % 2 ^ 21) + p.2) := by
        rw [← hb]; unfold logBase; omega
      rw [hdiv]
      exact hrec _ (by omega)
    exact devGet_foldl_devSet _ base s a hne
  have hcount : ∀ n : DWord, BitVec.ofNat 64 (n.toNat + 1) = n + 1 := fun n => by
    apply BitVec.eq_of_toNat_eq; simp [BitVec.toNat_add]
  have hset : ∀ {t : State}, devGet t a = devGet s a →
      devGet (devSet t logBase (BitVec.ofNat 64 ((devGet s logBase).toNat + 1))) a =
        if (a - devBase) / 8 = 0x08000000 then devGet s logBase + 1 else devGet s a := fun ht => by
    rw [devGet_devSet, hbase, hcount, ht]
  have hunread : ∀ {c : Prop} [Decidable c] {t : State} {v : DWord},
      devGet (if c then devSet t (logBase + 24) v else t) a = devGet t a := by
    intro c _ t v
    split
    · rw [devGet_devSet, hover, if_neg hlost]
    · rfl
  have hirq : ∀ {c : Prop} [Decidable c] {t : State} {q : Irq}, devGet (if c then t else raiseIrq t q) a = devGet t a := by
    intro c _ t q
    split <;> rfl
  unfold logErr
  dsimp only
  rw [← hset (hfold _)]
  split
  · exact hirq.trans hunread
  · exact hirq.trans hunread

theorem devGet_logErr_logBase (s : State) (r : ErrRec) : devGet (logErr s r) logBase = devGet s logBase + 1 := by
  have hbase : (logBase - devBase) / 8 = 0x08000000 := by unfold logBase; omega
  rw [devGet_logErr s r (by omega) (by omega), if_pos hbase]

theorem devGet_logErr_mgmtReg (s : State) (r : ErrRec) (off : Nat) :
    devGet (logErr s r) (mgmtReg off) = devGet s (mgmtReg off) := by
  have hreg : 0x0A000000 ≤ (mgmtReg off - devBase) / 8 := by unfold mgmtReg; omega
  rw [devGet_logErr s r (by omega) (by omega), if_neg (by omega)]

/-! Errors at their sites. -/

theorem logErr_gangs (s : State) (r : ErrRec) (g : Nat) : getGang (logErr s r) g = getGang s g := by
  obtain ⟨_, _, _, h⟩ := logErr_logOnly s r
  rw [h]; rfl
theorem logErr_units (s : State) (r : ErrRec) : (logErr s r).units = s.units := by
  obtain ⟨_, _, _, h⟩ := logErr_logOnly s r
  rw [h]
theorem logErr_tick (s : State) (r : ErrRec) : (logErr s r).tick = s.tick := by
  obtain ⟨_, _, _, h⟩ := logErr_logOnly s r
  rw [h]
theorem logErr_mgmt (s : State) (r : ErrRec) : ∃ evs, (logErr s r).mgmt = { s.mgmt with lastEvents := evs } := by
  obtain ⟨_, _, evs, h⟩ := logErr_logOnly s r
  exact ⟨evs, by rw [h]⟩

section
variable (s : State) (site : ErrSite) (lasting poison corr : Bool)

theorem devGet_logSite_logBase : devGet (logSite s site lasting poison corr) logBase = devGet s logBase + 1 :=
  devGet_logErr_logBase ..

theorem getGang_logSite (g : Nat) : getGang (logSite s site lasting poison corr) g = getGang s g :=
  logErr_gangs ..

/-- A record notes the error's frame with its unit, and leaves its mark. -/
theorem lasting_logSite :
    (unitErr (logSite s site lasting poison corr) (siteUnit site)).lasting = (unitErr s (siteUnit site)).lasting := by
  obtain ⟨frames, h⟩ : ∃ frames, (logSite s site lasting poison corr).units =
      (setUnit s (siteUnit site) { unitErr s (siteUnit site) with frames := frames }).units := ⟨_, logErr_units ..⟩
  rw [unitErr_of_units h, unitErr_setUnit]

end

theorem lasting_markLasting (s : State) (u : UnitId) : (unitErr (markLasting s u).1 u).lasting = true :=
  congrArg UnitErr.lasting (unitErr_setUnit ..)

/-- The fourth error in the window marks the unit. -/
theorem lasting_countError {s : State} {u : UnitId} (h : 3 ≤ windowCount s u) :
    (unitErr (countError s u).1 u).lasting = true := by
  refine (congrArg UnitErr.lasting (unitErr_setUnit ..)).trans ?_
  have hfour : 4 ≤ (s.tick :: (unitErr s u).ticks.filter (inWindow s.tick)).length := Nat.succ_le_succ h
  simp only [decide_eq_true hfour, Bool.or_true]

theorem mem_addOnce (x : Nat) (l : List Nat) : x ∈ addOnce x l := by
  unfold addOnce
  split
  · rename_i h; simpa using h
  · exact List.mem_cons_self

/-! What an error's exec is, at a site that the module has. -/

theorem exec_correctableError {s : State} {site : ErrSite} (hc : correctable site = true) (ht : siteThere s site = true) :
    exec (.correctableError site) s =
      .next (correct site (logSite (countError s (siteUnit site)).1 site (countError s (siteUnit site)).2 false true)) := by
  show execCorrectableError site s = _
  unfold execCorrectableError
  rw [hc, ht]; rfl

theorem exec_uncorrectableError {s : State} {site : ErrSite} (hc : uncorrectable site = true) (ht : siteThere s site = true) :
    exec (.uncorrectableError site) s = .next (poison site (logSite (markLasting s (siteUnit site)).1 site
      (markLasting s (siteUnit site)).2 (poisons s site) false)) := by
  show execUncorrectableError site s = _
  unfold execUncorrectableError
  rw [hc, ht]; rfl

/-! The units' errors through the end of a context. -/

/-- A state with these errors of units. -/
def UnitsAre (U : Sp UnitErr) (s : State) : Prop := s.units = U

section
variable {U : Sp UnitErr} {s : State}

theorem UnitsAre.foldl {α : Type} {f : State → α → State} {xs : List α} (hf : ∀ s x, UnitsAre U s → UnitsAre U (f s x))
    (h : UnitsAre U s) : UnitsAre U (xs.foldl f s) := by
  induction xs generalizing s with
  | nil => exact h
  | cons x xs ih => exact ih (hf s x h)

theorem UnitsAre.ite {c : Prop} [Decidable c] {t u : State} (ht : UnitsAre U t) (hu : UnitsAre U u) :
    UnitsAre U (if c then t else u) := by
  split
  · exact ht
  · exact hu

theorem UnitsAre.memOnly {t : State} (h : UnitsAre U s) (hm : MemOnly s t) : UnitsAre U t := by
  obtain ⟨_, _, _, _, _, _, _, _, rfl⟩ := hm
  exact h

theorem devSet_unitsAre {a : Nat} {v : DWord} (h : UnitsAre U s) : UnitsAre U (devSet s a v) := h
theorem modGang_unitsAre {g : Nat} {f : Gang → Gang} (h : UnitsAre U s) : UnitsAre U (modGang s g f) := h
theorem modDie_unitsAre {d : Nat} {f : GDie → GDie} (h : UnitsAre U s) : UnitsAre U (modDie s d f) := h
theorem modPair_unitsAre {p : Nat} {f : Pair → Pair} (h : UnitsAre U s) : UnitsAre U (modPair s p f) := h
theorem raiseIrq_unitsAre {i : Irq} (h : UnitsAre U s) : UnitsAre U (raiseIrq s i) := h

theorem keepSpare_unitsAre {g : Nat} (h : UnitsAre U s) : UnitsAre U (keepSpare g s) := by
  unfold keepSpare
  dsimp only
  split
  · exact .ite (modPair_unitsAre h) h
  · exact h

theorem fbWrite_unitsAre {d n : Nat} {v : BitVec 256} (h : UnitsAre U s) : UnitsAre U (fbWrite s d n v) :=
  .foldl (fun _ _ h => devSet_unitsAre h) h

theorem freeEntry_unitsAre {d n : Nat} (h : UnitsAre U s) : UnitsAre U (freeEntry s d n) := by
  unfold freeEntry grantEntry
  split
  · exact raiseIrq_unitsAre (modDie_unitsAre (fbWrite_unitsAre (modDie_unitsAre (fbWrite_unitsAre h))))
  · exact fbWrite_unitsAre h

theorem endAdmission_unitsAre {t : Nat} (h : UnitsAre U s) : UnitsAre U (endAdmission s t) := by
  unfold endAdmission
  split
  · exact h
  · have hteams : ∀ {u : State} {ts : Sp Team} {xs : List Signal}, UnitsAre U u →
        UnitsAre U { u with teams := ts, signals := xs } := fun hu => hu
    exact hteams (.foldl (fun _ _ h => devSet_unitsAre (modGang_unitsAre (.ite (keepSpare_unitsAre h) h))) h)

theorem unbindAll_unitsAre {c : Nat} (h : UnitsAre U s) : UnitsAre U (unbindAll s c) := by
  have hrounds : ∀ {u : State} {rs : List Round} {bs : List Sbc}, UnitsAre U u → UnitsAre U { u with rounds := rs, sbcs := bs } :=
    fun hu => hu
  exact hrounds (.foldl (fun _ _ h => devSet_unitsAre h) h)

theorem endContext_unitsAre {c : Nat} {cause : BitVec 8} {va loc : Nat} (h : UnitsAre U s) :
    UnitsAre U (endContext s c cause va loc) := by
  have hteams : ∀ {ts : List Nat}, UnitsAre U (ts.foldl (fun s t => endAdmission (publishTeam s t) t)
      { s with left := s.left.filter (fun x => x.ctx != c) }) :=
    .foldl (fun s t h => endAdmission_unitsAre (UnitsAre.memOnly h (publishTeam_memOnly s t))) h
  have hdies : ∀ {u : State} {ds : Sp GDie}, UnitsAre U u → UnitsAre U { u with dies := ds } := fun hu => hu
  unfold endContext
  dsimp only
  refine .ite h (raiseIrq_unitsAre (devSet_unitsAre (devSet_unitsAre (devSet_unitsAre ?_))))
  exact .foldl (fun _ _ h => .foldl (fun _ _ h => .ite (freeEntry_unitsAre h) h) h) (unbindAll_unitsAre (hdies hteams))

theorem loseMessage_unitsAre {n : Nat} (h : UnitsAre U s) : UnitsAre U (loseMessage s n) := by
  unfold loseMessage
  dsimp only
  split
  · exact h
  · split <;> exact h

end

/-! Links. -/

/-- A link's flit error that does not take it down is counted and logged. -/
theorem exec_linkFlitError {s : State} {link fails : Nat} (hl : linkThere link = true) (h0 : s.mgmt.side ≠ 0)
    (h4 : s.mgmt.side ≠ 4) :
    let u := linkUnit link
    let v := logUnit (countError s u).1 u 0x0A (countError s u).2 true
    let w := logUnit (setMgmt (fun m => { m with deadLinks := addOnce link m.deadLinks }) v) u 0x0A false false
    exec (.linkFlitError link fails) s = .next (if fails < 16 then v
      else if w.mgmt.side = 2 || (w.mgmt.side = 1 && !w.mgmt.retry) then beginStop none w else w) := by
  show execLinkFlitError link fails s = _
  unfold execLinkFlitError
  dsimp only
  rw [if_neg (by simp [hl, h0, h4])]

/-- What a link that 16 replays take down leaves before the main side stops: its mark, and the rest of the controller's record. -/
theorem deadLink_mgmt (s : State) (link : Nat) :
    let u := linkUnit link
    let v := logUnit (countError s u).1 u 0x0A (countError s u).2 true
    let w := logUnit (setMgmt (fun m => { m with deadLinks := addOnce link m.deadLinks }) v) u 0x0A false false
    (∃ evs, w.mgmt = { s.mgmt with deadLinks := addOnce link s.mgmt.deadLinks, lastEvents := evs }) ∧ w.tick = s.tick ∧
      ∀ off, devGet w (mgmtReg off) = devGet s (mgmtReg off) := by
  dsimp only
  generalize hv : logUnit (countError s (linkUnit link)).1 (linkUnit link) 0x0A (countError s (linkUnit link)).2 true = v
  have hvm : ∃ evs, v.mgmt = { s.mgmt with lastEvents := evs } := hv ▸ logErr_mgmt ..
  have hvt : v.tick = s.tick := hv ▸ logErr_tick ..
  have hvd : ∀ off, devGet v (mgmtReg off) = devGet s (mgmtReg off) := fun off => hv ▸ devGet_logErr_mgmtReg ..
  obtain ⟨evs, hvm⟩ := hvm
  obtain ⟨evs', hw⟩ := logErr_mgmt (setMgmt (fun m => { m with deadLinks := addOnce link m.deadLinks }) v)
    ⟨0x0A, (linkUnit link).uclass, (linkUnit link).uidx, (linkUnit link).site, 0,
      windowCount (setMgmt (fun m => { m with deadLinks := addOnce link m.deadLinks }) v) (linkUnit link), none, false,
      false, false, 0, 0⟩
  refine ⟨⟨evs', hw.trans ?_⟩, (logErr_tick ..).trans hvt, fun off => (devGet_logErr_mgmtReg ..).trans (hvd off)⟩
  simp only [setMgmt, hvm]

/-! What an error's exec leaves, by its kind. -/

section
variable {s : State} {site : ErrSite}

theorem devGet_correct (s : State) (site : ErrSite) (a : Nat) : devGet (correct site s) a = devGet s a := by
  cases site <;> rfl

theorem devGet_correctable (s : State) (site : ErrSite) (lasting : Bool) :
    devGet (correct site (logSite (countError s (siteUnit site)).1 site lasting false true)) logBase = devGet s logBase + 1 :=
  (devGet_correct ..).trans (devGet_logSite_logBase ..)

theorem correctable_logged (hc : correctable site = true) (ht : siteThere s site = true) :
    ∃ t, exec (.correctableError site) s = .next t ∧ devGet t logBase = devGet s logBase + 1 :=
  ⟨_, exec_correctableError hc ht, devGet_correctable ..⟩

/-- The fourth error of a unit of storage that freezes its gang marks the unit. -/
theorem acc_lasting {g e n : Nat} (ht : siteThere s (.acc g e n) = true) (hfour : 3 ≤ windowCount s (gangUnit g)) :
    ∃ t, exec (.correctableError (.acc g e n)) s = .next t ∧ devGet t logBase = devGet s logBase + 1 ∧
      (unitErr t (gangUnit g)).lasting = true :=
  ⟨_, exec_correctableError rfl ht, devGet_correctable .., (lasting_logSite ..).trans (lasting_countError hfour)⟩

theorem spad_freezes {g e n : Nat} (ht : siteThere s (.spad g e n) = true) :
    ∃ t, exec (.correctableError (.spad g e n)) s = .next t ∧ devGet t logBase = devGet s logBase + 1 ∧
      (getGang t g).freezes = (getGang s g).freezes + 1 := by
  refine ⟨_, exec_correctableError rfl ht, devGet_correctable .., ?_⟩
  have hg : ∀ lasting, getGang (logSite (countError s (gangUnit g)).1 (.spad g e n) lasting false true) g = getGang s g :=
    fun _ => getGang_logSite ..
  simp only [correct, siteUnit, getGang_modGang, if_pos, hg]

/-- An uncorrectable error of a gang's storage leaves what `f` makes of the engine's record, and a lasting mark. -/
theorem gang_poisoned {g k : Nat} {f : EngineHw → EngineHw} (hu : uncorrectable site = true) (ht : siteThere s site = true)
    (hf : ∀ u, poison site u = modGang u g (fun G => modHw G k f)) :
    ∃ t, exec (.uncorrectableError site) s = .next t ∧ devGet t logBase = devGet s logBase + 1 ∧
      getHw (getGang t g) k = f (getHw (getGang s g) k) ∧ (unitErr t (siteUnit site)).lasting = true := by
  refine ⟨_, exec_uncorrectableError hu ht, ?_, ?_, ?_⟩
  · rw [hf]
    exact devGet_logSite_logBase ..
  · have hg : ∀ lasting poison, getGang (logSite (markLasting s (siteUnit site)).1 site lasting poison false) g = getGang s g :=
      fun _ _ => getGang_logSite ..
    simp only [hf, getGang_modGang, if_pos, getHw_modHw, hg]
  · rw [hf]
    exact (lasting_logSite ..).trans (lasting_markLasting ..)

/-- An uncorrectable error of a sector of memory poisons it there. -/
theorem sector_poisoned {n : Nat} (hu : uncorrectable site = true) (ht : siteThere s site = true)
    (hf : ∀ u, poison site u = setMemBad u n true) :
    ∃ t, exec (.uncorrectableError site) s = .next t ∧ devGet t logBase = devGet s logBase + 1 ∧ n ∈ t.memBad := by
  refine ⟨_, exec_uncorrectableError hu ht, ?_, ?_⟩
  · rw [hf]
    exact devGet_logSite_logBase ..
  · rw [hf, mem_setMemBad, if_pos rfl]

end

theorem vote_logged {s : State} {node : Nat} (h : node < 20 ∨ (32 ≤ node ∧ node < 52)) :
    ∃ t, exec (.thymeVoteError node true) s = .next t ∧ devGet t logBase = devGet s logBase + 1 := by
  have hn : (decide (node < 20) || decide (32 ≤ node) && decide (node < 52)) = true := by simpa using h
  refine ⟨logUnit (countError s (nodeUnit node)).1 (nodeUnit node) 0x0B (countError s (nodeUnit node)).2 true, ?_,
    devGet_logErr_logBase ..⟩
  show execThymeVoteError node true s = _
  unfold execThymeVoteError
  dsimp only
  rw [hn, if_neg (by decide), if_pos rfl]

theorem vote_lasting {s : State} {node : Nat} (h : node < 20 ∨ (32 ≤ node ∧ node < 52)) :
    ∃ t, exec (.thymeVoteError node false) s = .next t ∧ (unitErr t (nodeUnit node)).lasting = true := by
  have hlog : UnitsAre (markLasting s (nodeUnit node)).1.units (logUnit (markLasting s (nodeUnit node)).1 (nodeUnit node) 0x0B
      (markLasting s (nodeUnit node)).2 false) := logErr_units ..
  have hend : ∀ {cs : List Nat}, UnitsAre (markLasting s (nodeUnit node)).1.units
      (cs.foldl (fun s c => endContext s c 0x0F 0 0) (loseMessage (logUnit (markLasting s (nodeUnit node)).1 (nodeUnit node) 0x0B
        (markLasting s (nodeUnit node)).2 false) node)) :=
    .foldl (fun _ _ h => endContext_unitsAre h) (loseMessage_unitsAre hlog)
  have hn : (decide (node < 20) || decide (32 ≤ node) && decide (node < 52)) = true := by simpa using h
  refine ⟨_, ?_, (congrArg UnitErr.lasting (unitErr_of_units (hend (cs := ((s.rounds.filter (roundThrough s node)).map
    (·.ctx)).eraseDups)) (nodeUnit node))).trans (lasting_markLasting ..)⟩
  show execThymeVoteError node false s = _
  unfold execThymeVoteError
  dsimp only
  rw [hn, if_neg (by decide), if_neg Bool.false_ne_true]

theorem link_logged {s : State} {link fails : Nat} (hl : linkThere link = true) (h0 : s.mgmt.side ≠ 0) (h4 : s.mgmt.side ≠ 4)
    (hf : fails < 16) : ∃ t, exec (.linkFlitError link fails) s = .next t ∧ devGet t logBase = devGet s logBase + 1 := by
  refine ⟨_, exec_linkFlitError hl h0 h4, ?_⟩
  rw [if_pos hf]
  exact devGet_logErr_logBase ..

theorem link_dead {s : State} {link fails : Nat} (hl : linkThere link = true) (h0 : s.mgmt.side ≠ 0) (h4 : s.mgmt.side ≠ 4)
    (hf : 16 ≤ fails) : ∃ t, exec (.linkFlitError link fails) s = .next t ∧ link ∈ t.mgmt.deadLinks ∧
      (s.mgmt.side = 2 ∨ (s.mgmt.side = 1 ∧ s.mgmt.retry = false) → t.mgmt.side = 3 ∧ t.mgmt.grace = s.tick + graceTicks s) := by
  refine ⟨_, exec_linkFlitError hl h0 h4, ?_⟩
  rw [if_neg (by omega)]
  obtain ⟨⟨evs, hm⟩, htick, hdev⟩ := deadLink_mgmt s link
  dsimp only at hm htick hdev
  generalize logUnit (setMgmt _ (logUnit _ _ _ _ _)) (linkUnit link) 0x0A false false = w at hm htick hdev ⊢
  have hlinks : link ∈ w.mgmt.deadLinks := by rw [hm]; exact mem_addOnce ..
  have hside : w.mgmt.side = s.mgmt.side := by rw [hm]
  have hretry : w.mgmt.retry = s.mgmt.retry := by rw [hm]
  have hgrace : graceTicks w = graceTicks s := by unfold graceTicks; rw [hdev]
  rw [hside, hretry]
  split
  · exact ⟨hlinks, fun _ => ⟨rfl, by show w.tick + graceTicks w = _; rw [htick, hgrace]⟩⟩
  · rename_i hn
    exact ⟨hlinks, fun h => absurd h (by simpa using hn)⟩

/-- The words of the device that clearing the log leaves: those below its base, and those of the next window. -/
def besideLog (w : Nat) : Bool := decide (w < (logBase - devBase) / 8) || decide ((logBase - devBase) / 8 + 2 ^ 25 ≤ w)

theorem devGet_errorLogClear (s : State) (a : Nat) :
    devGet { s with dev := s.dev.filter (fun w => besideLog w.1) } a = if besideLog ((a - devBase) / 8) then devGet s a else 0 := by
  unfold devGet spGet spFind
  rw [lookup_filter_key]
  split <;> rfl

theorem errorLogClear_clears (s : State) : ∃ t, exec .errorLogClear s = .next t ∧ devGet t logBase = 0 ∧
    ∀ a, a < logBase → devBase ≤ a → devGet t a = devGet s a := by
  refine ⟨_, rfl, ?_, fun a ha hb => ?_⟩
  · refine (devGet_errorLogClear s logBase).trans (if_neg ?_)
    simp [besideLog]
  · refine (devGet_errorLogClear s a).trans (if_pos ?_)
    have hlt : (a - devBase) / 8 < (logBase - devBase) / 8 := by unfold logBase at ha ⊢; omega
    simp [besideLog, hlt]

end Sys2Proof.Machine

namespace Sys2Proof
open Machine

/-- Settles O45: each error's exec is written out, and the log's count, the marks and the poison are read off. -/
theorem errorEvents : Obligations.ErrorEvents := by
  intro s g e n node link fails
  dsimp only
  refine ⟨fun hg he hn => ?_, fun hg he hn => ?_, fun r hg => ?_, fun ht => sector_poisoned rfl ht fun _ => rfl,
    fun ht => sector_poisoned rfl ht fun _ => rfl, fun ht => ?_,
    fun hn h8 => correctable_logged rfl (by simp [siteThere, hn, h8]),
    vote_logged, vote_lasting, fun hl h0 h4 => ⟨link_logged hl h0 h4, link_dead hl h0 h4⟩, errorLogClear_clears s⟩
  · have ht : siteThere s (.spad g e n) = true := by simpa [siteThere, hg, he] using hn
    refine ⟨spad_freezes ht, ?_⟩
    obtain ⟨t, hexec, hlog, hbad, hlast⟩ :=
      gang_poisoned (f := fun H => { H with spadBad := addOnce n H.spadBad }) rfl ht fun _ => rfl
    exact ⟨t, hexec, hlog, by rw [hbad]; exact mem_addOnce .., hlast⟩
  · have ht : siteThere s (.acc g e n) = true := by simpa [siteThere, hg, he] using hn
    refine ⟨?_, acc_lasting ht⟩
    obtain ⟨t, hexec, hlog, hbad, -⟩ :=
      gang_poisoned (f := fun H => { H with accBad := addOnce n H.accBad }) rfl ht fun _ => rfl
    exact ⟨t, hexec, hlog, by rw [hbad]; exact mem_addOnce ..⟩
  · obtain ⟨t, hexec, hlog, hbad, -⟩ := gang_poisoned (site := .reg g r)
      (f := fun H => { H with regBad := if H.regBad.contains r then H.regBad else r :: H.regBad }) rfl
      (by simp [siteThere, hg]) fun _ => rfl
    refine ⟨t, hexec, hlog, ?_⟩
    rw [hbad]
    dsimp only
    split
    · rename_i h; simpa using h
    · exact List.mem_cons_self
  · show execUncorrectableError (.near e n) s = _
    unfold execUncorrectableError
    rw [ht, Bool.and_false]
    rfl

end Sys2Proof
end

section
/-! The steps of a gang beside its bundles, those that change the gang's own record: freezes, deferred traps, the partner, the
spare, the finish, halts and the watchdog (08 R209; 13 R305–R310; 14 R325; 21 R412–R416, R425). -/

namespace Sys2Proof.Machine

theorem MemOnly.getGang {s t : State} (h : MemOnly s t) (g : Nat) : getGang t g = getGang s g := by
  obtain ⟨_, _, _, _, _, _, _, _, rfl⟩ := h
  rfl

theorem areaPut_memOnly (s : State) (pa len v : Nat) : MemOnly s (areaPut s pa len v) := slWrite_memOnly ..

/-! Freezes. -/

/-- What a result of Thyme changes in a member: its acquires, the register or latch that it waits for, and what is still held. -/
def ThymeOnly (G H : Gang) : Prop := ∃ l1 txns i j ilks latch fresh held, H = { G with
  l1 := l1, txns := txns, a := { G.a with acqId := i }, b := { G.b with acqId := j }, ilks := ilks, latch := latch, fresh := fresh
  heldThyme := held }

theorem ThymeOnly.trans {G H K : Gang} (a : ThymeOnly G H) (b : ThymeOnly H K) : ThymeOnly G K := by
  obtain ⟨_, _, _, _, _, _, _, _, rfl⟩ := a
  obtain ⟨_, _, _, _, _, _, _, _, rfl⟩ := b
  exact ⟨_, _, _, _, _, _, _, _, rfl⟩

theorem takeRound_thymeOnly (ch num : Nat) (v : Option Word) (G : Gang) : ThymeOnly G (takeRound ch num v G) :=
  ⟨_, _, _, _, _, _, _, _, rfl⟩

theorem takeSbc_thymeOnly (ch : Nat) (v : DWord) (G : Gang) : ThymeOnly G (takeSbc ch v G) := ⟨_, _, _, _, _, _, _, _, rfl⟩

theorem takeHeld_thymeOnly (G : Gang) : ThymeOnly G (takeHeld G) := by
  have hfold : ∀ (hs : List Held) (H : Gang), ThymeOnly G H → ThymeOnly G (hs.foldl (fun G h => match h with
      | .round ch num v => takeRound ch num v G
      | .sbc ch v => takeSbc ch v G) H) := by
    intro hs
    induction hs with
    | nil => exact fun _ h => h
    | cons h hs ih =>
      intro H hH
      refine ih _ (hH.trans ?_)
      cases h with
      | round => exact takeRound_thymeOnly ..
      | sbc => exact takeSbc_thymeOnly ..
  exact hfold _ _ ⟨_, _, _, _, _, _, _, _, rfl⟩

theorem frozen_takeHeld (G : Gang) : (takeHeld G).frozen = G.frozen := by
  obtain ⟨_, _, _, _, _, _, _, _, h⟩ := takeHeld_thymeOnly G
  rw [h]

theorem freezeEnd_thaws {s : State} {g : Nat} (h : (getGang s g).frozen = 1) (h0 : (getGang s g).freezes = 0) :
    ∃ t, exec (.freezeEnd g) s = .next t ∧ (getGang t g).frozen = 0 := by
  refine ⟨_, congrArg Host.Outcome.next (if_pos h), ?_⟩
  simp only [getGang_modGang, if_pos, beginFreeze, h0, Nat.lt_irrefl, and_false, if_false]
  split
  · rw [frozen_takeHeld]
  · rfl

theorem freezeEnd_refreezes {s : State} {g : Nat} (h : (getGang s g).frozen = 1) (h0 : 0 < (getGang s g).freezes) :
    ∃ t, exec (.freezeEnd g) s = .next t ∧ (getGang t g).frozen = 48 ∧ (getGang t g).freezes + 1 = (getGang s g).freezes := by
  refine ⟨_, congrArg Host.Outcome.next (if_pos h), ?_⟩
  simp [beginFreeze, h0, Nat.sub_add_cancel h0]

/-! Traps taken at a boundary. -/

/-- A trap latched where there is none is the gang's cause, and the gang stops for it. -/
theorem getGang_latchTrap {s : State} {g : Nat} {c : Cause} (h : (getGang s g).cause = none) :
    (getGang (latchTrap s g c) g).cause = some c ∧ (getGang (latchTrap s g c) g).stopReq = some .trap := by
  unfold latchTrap
  dsimp only
  split <;> simp [h]

theorem deferredTrap_taken {s : State} {g : Nat} {c : Cause} (h : deferredReady (getGang s g) = true)
    (hc : (getGang s g).defCause = some c) : ∃ t, exec (.deferredTrap g) s = .next t ∧
      (getGang t g).cause = some (placeCause (getGang s g) c) ∧ (getGang t g).defCause = none := by
  have hnone : (getGang s g).cause = none := by
    simp only [deferredReady, Bool.and_eq_true, Option.isNone_iff_eq_none] at h
    obtain ⟨⟨-, hnone⟩, -⟩ := h
    exact hnone
  have ht : exec (.deferredTrap g) s = .next (takeDeferred s g) := congrArg Host.Outcome.next (if_pos h)
  refine ⟨_, ht, ?_⟩
  unfold takeDeferred
  dsimp only
  rw [hc]
  simp [getGang_latchTrap hnone]

theorem watchdog_traps {s : State} {g : Nat} (h : watchdogReady s g = true) (hc : (getGang s g).cause = none) :
    ∃ t, exec (.watchdogExpiry g) s = .next t ∧ (∃ x, (getGang t g).cause = some x ∧ x.cause = 0x0E) ∧
      (getGang t g).stopReq = some .trap := by
  have ht : exec (.watchdogExpiry g) s = .next (watchdogTrap s g) := congrArg Host.Outcome.next (if_pos h)
  let p : PathSlot := if (getGang s g).a.live then .A else .B
  obtain ⟨hcause, hstop⟩ := getGang_latchTrap hc (c :=
    { cause := 0x0E, va := 0, pc := (getPath (getGang s g) p).pc, emask := 0, code := 0, opc := 0, slot := 0
      deferred := false, path := p })
  exact ⟨_, ht, ⟨_, hcause, rfl⟩, hstop⟩

/-! Stop requests. -/

/-- A gang that runs and has no request takes one at its next boundary. -/
theorem getGang_stopGang {s : State} {g : Nat} {r : Reason} (hrun : (getGang s g).run = .run ∨ (getGang s g).run = .finishing)
    (hreq : (getGang s g).stopReq = none) :
    getGang (stopGang s g r) g = { getGang s g with stopReq := some r, stopAt := (getGang s g).gc + 1 } := by
  unfold stopGang
  rw [getGang_modGang, if_pos rfl, if_pos (by simpa using hrun), hreq]

theorem partnerStop_asks {s : State} {g : Nat} (hc : captureReady s g (· == .partner) = false) (h : partnerAsks s g = true) :
    ∃ t, exec (.partnerStop g) s = .next t ∧ (getGang t g).stopReq = some .partner ∧
      (getGang t g).stopAt = (getGang s g).gc + 1 := by
  have ht : exec (.partnerStop g) s = .next (stopGang s g .partner) := by
    show Host.Outcome.next (if _ then _ else if _ then _ else _) = _
    rw [hc, h]; rfl
  simp only [partnerAsks, Bool.and_eq_true, Bool.or_eq_true, beq_iff_eq, Option.isNone_iff_eq_none] at h
  obtain ⟨⟨hrun, hreq⟩, -⟩ := h
  exact ⟨_, ht, by rw [getGang_stopGang hrun hreq], by rw [getGang_stopGang hrun hreq]⟩

theorem haltCommand_asks {s : State} {die gang : Nat} (hrun : (getGang s (gangAt die gang)).run = .run)
    (hreq : (getGang s (gangAt die gang)).stopReq = none) :
    ∃ t, exec (.haltCommand die gang) s = .next t ∧ (getGang t (gangAt die gang)).stopReq = some .halt ∧
      (getGang t (gangAt die gang)).stopAt = (getGang s (gangAt die gang)).gc + 1 ∧
      SameRegs (getGang s (gangAt die gang)) (getGang t (gangAt die gang)) := by
  refine ⟨_, rfl, ?_⟩
  rw [getGang_stopGang (.inl hrun) hreq]
  exact ⟨rfl, rfl, SameRegs.refl _⟩

/-! The spare. -/

/-- The flags of a pair entry stand in the stack, or in the spill region. -/
theorem getGang_setPair (s : State) (g : Nat) (f : StkEnt → StkEnt) :
    ∃ st, getGang (setPair s g f) g = { getGang s g with stack := st } := by
  unfold setPair
  split
  · unfold setAny
    dsimp only
    split
    · exact ⟨_, (getGang_modGang ..).trans (if_pos rfl)⟩
    split
    · exact ⟨_, rfl⟩
    split
    · exact ⟨_, (areaPut_memOnly ..).getGang g⟩
    · exact ⟨_, rfl⟩
  · exact ⟨_, rfl⟩

theorem spareGrant_grants {s : State} {pair g : Nat} (h : spareWinner s pair = some g) :
    ∃ t, exec (.spareGrant pair) s = .next t ∧ (getGang t g).spare = true ∧
      (getGang t g).handoverEnd = some ((getGang s g).gc + 6) ∧ (getGang t g).b.onspare = true ∧
      (getGang t g).spareReq = false := by
  have ht : exec (.spareGrant pair) s = .next (grantSpare g s) := by
    show Host.Outcome.next (match spareWinner s pair with | some g => grantSpare g s | none => s) = _
    rw [h]
  refine ⟨_, ht, ?_⟩
  unfold grantSpare
  dsimp only
  obtain ⟨st, hst⟩ := getGang_setPair (modGang s g (fun G => { G with
    spare := true, spareFreeAt := none, spareReq := false, handoverEnd := some (G.gc + 6), b := { G.b with onspare := true }
    divSpare := max G.divSpare (G.gc + ((getGang s (partnerOf g)).divSpare - (getGang s (partnerOf g)).gc)) })) g
    (fun e => { e with split := true, spreq := false })
  rw [hst]
  simp

theorem spareHandoverEnd_ends {s : State} {g : Nat} (h : handoverDue (getGang s g) = true) :
    ∃ t, exec (.spareHandoverEnd g) s = .next t ∧ (getGang t g).handoverEnd = none ∧
      SameRegs (getGang s g) (getGang t g) := by
  refine ⟨_, congrArg Host.Outcome.next (if_pos h), ?_⟩
  rw [getGang_modGang, if_pos rfl]
  exact ⟨rfl, SameRegs.refl _⟩

/-! The finish. -/

/-- A gang without a team stays so. -/
def Teamless (g : Nat) (s : State) : Prop := (getGang s g).team = none

section
variable {g : Nat} {s : State}

theorem Teamless.foldl {α : Type} {f : State → α → State} {xs : List α} (hf : ∀ s x, Teamless g s → Teamless g (f s x))
    (h : Teamless g s) : Teamless g (xs.foldl f s) := by
  induction xs generalizing s with
  | nil => exact h
  | cons x xs ih => exact ih (hf s x h)

theorem Teamless.ite {c : Prop} [Decidable c] {t u : State} (ht : Teamless g t) (hu : Teamless g u) :
    Teamless g (if c then t else u) := by
  split
  · exact ht
  · exact hu

theorem devSet_teamless {a : Nat} {v : DWord} (h : Teamless g s) : Teamless g (devSet s a v) := h
theorem modDie_teamless {d : Nat} {f : GDie → GDie} (h : Teamless g s) : Teamless g (modDie s d f) := h
theorem modTeam_teamless {t : Nat} {f : Team → Team} (h : Teamless g s) : Teamless g (modTeam s t f) := by
  rwa [Teamless, getGang_modTeam]

theorem keepSpare_teamless {k : Nat} (h : Teamless g s) : Teamless g (keepSpare k s) := by
  unfold keepSpare
  dsimp only
  split
  · exact .ite h h
  · exact h

/-- Ending a team's admission takes the team from its gangs alone, and gives none. -/
theorem endAdmission_teamless {t : Nat} (h : Teamless g s) : Teamless g (endAdmission s t) := by
  unfold endAdmission
  split
  · exact h
  · have hteams : ∀ {u : State} {ts : Sp Team} {xs : List Signal}, Teamless g u →
        Teamless g { u with teams := ts, signals := xs } := fun hu => hu
    refine hteams (.foldl (fun u k hu => devSet_teamless ?_) h)
    have hk : Teamless g (if (getGang u k).team = some t then keepSpare k u else u) := .ite (keepSpare_teamless hu) hu
    unfold Teamless at hk ⊢
    rw [getGang_modGang]
    split
    · rename_i hgk
      subst hgk
      simp [hk]
    · exact hk

theorem unbindGrid_teamless {c grid : Nat} (h : Teamless g s) : Teamless g (unbindGrid s c grid) := by
  have hrounds : ∀ {u : State} {rs : List Round} {bs : List Sbc}, Teamless g u →
      Teamless g { u with rounds := rs, sbcs := bs } := fun hu => hu
  exact hrounds (.foldl (fun _ _ h => .ite (devSet_teamless h) h) h)

theorem completeRecord_teamless {die bank id : Nat} (h : Teamless g s) : Teamless g (completeRecord s die bank id) := by
  unfold completeRecord sendSignal
  dsimp only
  split
  · exact h
  · refine .ite (.ite (unbindGrid_teamless (modDie_teamless h)) (modDie_teamless h)) ?_
    split
    · exact modDie_teamless (.ite (unbindGrid_teamless (modDie_teamless h)) (modDie_teamless h))
    · exact .ite (unbindGrid_teamless (modDie_teamless h)) (modDie_teamless h)

theorem completeTeam_teamless {t : Nat} (h : Teamless g s) : Teamless g (completeTeam s t) := by
  unfold completeTeam
  dsimp only
  split
  · exact h
  · have hrec : ∀ {die bank id : Nat} {f : Rec → Rec}, Teamless g (modRec (endAdmission s t) die bank id f) :=
      modDie_teamless (endAdmission_teamless h)
    split
    · exact .ite (completeRecord_teamless hrec) hrec
    · exact hrec

theorem finishGang_teamless (h : (getGang s g).team.isSome = true) : Teamless g (finishGang s g) := by
  obtain ⟨t, ht⟩ := Option.isSome_iff_exists.mp h
  have hidle : ∀ {u : State}, Teamless g (modTeam (modGang u g idleGang) t (fun T => { T with done := g :: T.done })) := by
    refine modTeam_teamless ?_
    unfold Teamless
    rw [getGang_modGang, if_pos rfl]
    rfl
  unfold finishGang
  dsimp only
  rw [ht]
  dsimp only
  split
  · exact .ite (completeTeam_teamless hidle) hidle
  · exact hidle

end

theorem gangFinish_leaves {s : State} {g : Nat} (h : finishReady (getGang s g) = true) :
    ∃ t, exec (.gangFinish g) s = .next t ∧ (getGang t g).team = none := by
  have ht : exec (.gangFinish g) s = .next (finishGang s g) := congrArg Host.Outcome.next (if_pos h)
  simp only [finishReady, Bool.and_eq_true] at h
  exact ⟨_, ht, finishGang_teamless h.2⟩

end Sys2Proof.Machine
end

section
/-! The fields of a cause record and of a path record (21 R419, R420). -/

namespace Sys2Proof.Machine

theorem b2n_eq (b : Bool) (k : Nat) : b2n b k = b.toNat * 2 ^ k := by
  cases b <;> simp [b2n]

theorem testBit_eq_of_div_mod {v k : Nat} {b : Bool} (h : v / 2 ^ k % 2 = b.toNat) : v.testBit k = b := by
  rw [Nat.testBit_eq_decide_div_mod_eq, h]
  cases b <;> rfl

/-- The fields of a cause record, from its low bits up. -/
theorem causeRec_fields (s : State) (c : Cause) :
    let v := causeRec s (some c)
    nbits v 1 0 = 1 ∧ nbits v 63 2 = 0 ∧ nbits v 95 64 = (ptime s).toNat % 2 ^ 32 ∧ nbits v 103 96 = c.cause.toNat ∧
      v.testBit 106 = (c.path == .B) ∧ v.testBit 107 = c.deferred ∧ nbits v 111 108 = c.slot.toNat ∧
      nbits v 119 112 = c.opc.toNat ∧
      nbits v 135 120 = c.code.toNat ∧ nbits v 151 136 = c.emask.toNat ∧ nbits v 203 152 = c.pc.toNat ∧
      nbits v 255 204 = c.va.toNat := by
  have ht : (ptime s).toNat % 2 ^ 32 < 2 ^ 32 := Nat.mod_lt _ (by decide)
  have hcause := c.cause.isLt
  have hpath := (c.path == .B).toNat_le
  have hdef := c.deferred.toNat_le
  have hslot := c.slot.isLt
  have hopc := c.opc.isLt
  have hcode := c.code.isLt
  have hmask := c.emask.isLt
  have hpc := c.pc.isLt
  have hva := c.va.isLt
  dsimp only
  unfold causeRec
  simp only [b2n_eq]
  generalize (ptime s).toNat % 2 ^ 32 = t at ht ⊢
  unfold nbits
  refine ⟨?_, ?_, ?_, ?_, testBit_eq_of_div_mod ?_, testBit_eq_of_div_mod ?_, ?_, ?_, ?_, ?_, ?_, ?_⟩ <;> omega

/-- The fields of a path record that a resume takes back. -/
theorem pathRec_fields (s : State) (g : Nat) (p : PathSlot) (c : Nat) :
    let P := getPath (getGang s g) p
    let v := pathRec s g p c
    v < 2 ^ 256 ∧ nbits v 255 204 = P.pc.toNat ∧ nbits v 203 152 = P.lnk.toNat ∧ nbits v 151 136 = P.mask.toNat ∧
      nbits v 119 118 = enteringNo P.entering ∧ v.testBit 117 = P.live ∧ v.testBit 116 = P.onspare ∧
      v.testBit 115 = ((getGang s g).turn == p) := by
  dsimp only
  have hent : enteringNo (getPath (getGang s g) p).entering < 3 := by cases (getPath (getGang s g) p).entering <;> decide
  have hturn := ((getGang s g).turn == p).toNat_le
  have hwrem : pathWrem s g p c ≤ 127 := Nat.min_le_left ..
  unfold pathRec
  dsimp only
  generalize getPath (getGang s g) p = P at hent ⊢
  have hon := P.onspare.toNat_le
  have hlive := P.live.toNat_le
  have hpc := P.pc.isLt
  have hlnk := P.lnk.isLt
  have hmask := P.mask.isLt
  simp only [b2n_eq]
  unfold nbits
  refine ⟨?_, ?_, ?_, ?_, ?_, testBit_eq_of_div_mod ?_, testBit_eq_of_div_mod ?_, testBit_eq_of_div_mod ?_⟩ <;> omega

end Sys2Proof.Machine
end

section
/-! The save area of a gang, as the capture writes it (21 R418–R422): bytes of fields, 0 elsewhere. -/

namespace Sys2Proof.Machine

theorem homeSlice_lt (s : State) (pa : Nat) : homeSlice s pa < 32 := by
  unfold homeSlice
  dsimp only
  cases h : nthBit (homeMask s pa) 20 (fold16 (pa / 256) % popCount (homeMask s pa) 20) with
  | none => decide
  | some b =>
    have hb : b ∈ List.range 20 := List.mem_of_mem_filter (List.mem_of_getElem? h)
    have := List.mem_range.mp hb
    simp only [Option.getD_some]
    omega

/-! Fields as bytes. -/

/-- A field holds a byte of the area. -/
def Covers (f : Field) (i : Nat) : Prop := f.1 ≤ i ∧ i < f.1 + f.2.1
/-- Two fields share no byte. -/
def Apart (x y : Field) : Prop := x.1 + x.2.1 ≤ y.1 ∨ y.1 + y.2.1 ≤ x.1
def byteOf (f : Field) (i : Nat) : Byte := BitVec.ofNat 8 (f.2.2 / 256 ^ (i - f.1))

theorem leBytes_getD (n v j : Nat) (h : j < n) : (leBytes n v).getD j 0 = BitVec.ofNat 8 (v / 256 ^ j) := by
  induction n generalizing v j with
  | zero => omega
  | succ n ih =>
    cases j with
    | zero => simp [leBytes]
    | succ j =>
      rw [leBytes, List.getD_cons_succ, ih _ _ (by omega), Nat.div_div_eq_div_mul, Nat.pow_succ, Nat.mul_comm]

/-- The fields written over a memory. -/
def putFields (pa : Nat) (m : Sp Byte) (fs : List Field) : Sp Byte :=
  fs.foldl (fun m f => if f.2.2 = 0 then m else spSetList 0 m (pa + f.1) (leBytes f.2.1 f.2.2)) m

theorem foldl_areaWrite (pa : Nat) (fs : List Field) (s : State) :
    fs.foldl (fun s f => if f.2.2 = 0 then s else areaWrite s (pa + f.1) (leBytes f.2.1 f.2.2)) s =
      { s with mem := putFields pa s.mem fs } := by
  induction fs generalizing s with
  | nil => rfl
  | cons f fs ih =>
    rw [List.foldl_cons, ih]
    unfold putFields
    rw [List.foldl_cons]
    by_cases hf : f.2.2 = 0
    · simp only [if_pos hf]
    · simp only [if_neg hf]; rfl

theorem spGet_putField (pa : Nat) (m : Sp Byte) (f : Field) (i : Nat) :
    spGet 0 (if f.2.2 = 0 then m else spSetList 0 m (pa + f.1) (leBytes f.2.1 f.2.2)) (pa + i) =
      if f.2.2 ≠ 0 ∧ f.1 ≤ i ∧ i < f.1 + f.2.1 then byteOf f i else spGet 0 m (pa + i) := by
  by_cases hf : f.2.2 = 0
  · simp [hf]
  rw [if_neg hf, spGet_spSetList, leBytes_length]
  by_cases hc : f.1 ≤ i ∧ i < f.1 + f.2.1
  · rw [if_pos (by omega), if_pos ⟨hf, hc⟩, leBytes_getD _ _ _ (by omega), show pa + i - (pa + f.1) = i - f.1 by omega]
    rfl
  · rw [if_neg (by omega), if_neg (fun h => hc h.2)]

/-- Where the fields that hold a byte agree on it, it is what they hold, or what was there before. -/
theorem spGet_putFields {pa i : Nat} {b : Byte} (fs : List Field) (m : Sp Byte)
    (hagree : ∀ x ∈ fs, x.2.2 ≠ 0 → Covers x i → byteOf x i = b)
    (hsome : spGet 0 m (pa + i) = b ∨ ∃ x ∈ fs, x.2.2 ≠ 0 ∧ Covers x i) :
    spGet 0 (putFields pa m fs) (pa + i) = b := by
  induction fs generalizing m with
  | nil =>
    rcases hsome with h | ⟨x, hx, -⟩
    · exact h
    · cases hx
  | cons f fs ih =>
    refine ih _ (fun x hx => hagree x (List.mem_cons_of_mem _ hx)) ?_
    rw [spGet_putField]
    by_cases hf : f.2.2 ≠ 0 ∧ f.1 ≤ i ∧ i < f.1 + f.2.1
    · rw [if_pos hf]
      exact .inl (hagree f List.mem_cons_self hf.1 hf.2)
    · rw [if_neg hf]
      rcases hsome with h | ⟨x, hx, hx0, hxi⟩
      · exact .inl h
      · rcases List.mem_cons.mp hx with rfl | hx
        · exact absurd ⟨hx0, hxi⟩ hf
        · exact .inr ⟨x, hx, hx0, hxi⟩

/-! The area's bytes. -/

theorem slGet_areaClear (s : State) {pa len q k : Nat} (hk : k < 32) (hlo : pa / 32 ≤ q) (hhi : q < (pa + len) / 32) :
    slGet (areaClear s pa len) q k = none := by
  have hkey : slKey q k / 32 = q := by unfold slKey; omega
  unfold slGet spFind areaClear
  dsimp only
  rw [lookup_filter_key s.sl (fun i => !(decide (pa / 32 ≤ i / 32) && decide (i / 32 < (pa + len) / 32)))]
  simp [hkey, hlo, hhi]

theorem MemOnly.spendFlit (pa cls : Nat) (s : State) : MemOnly s (spendFlit pa cls s) := by
  unfold Machine.spendFlit
  dsimp only
  split <;> exact ⟨_, _, _, _, _, _, _, _, rfl⟩

theorem areaClear_mem (s : State) (pa len : Nat) : (areaClear s pa len).mem = spClear s.mem pa len := rfl

theorem areaByte_notHeld {s : State} {pa : Nat} (h : slGet s (pa / 32) (homeSlice s pa) = none) :
    areaByte s pa = spGet 0 s.mem pa := by
  unfold areaByte
  rw [h]

/-- A byte of the area that the fields write: of the cleared area with the fields over it. -/
theorem areaByte_writeArea (s : State) (g : Nat) {pa : Nat} (r : Reason) (c tw : Nat) {i : Nat} (hpa : pa % 2 ^ 16 = 0)
    (hi : i < 0x60000) : ∃ m, spGet 0 m (pa + i) = 0 ∧
      areaByte (writeArea s g pa r c tw) (pa + i) = spGet 0 (putFields pa m (gangFields s g r c tw)) (pa + i) := by
  unfold writeArea
  dsimp only
  rw [foldl_areaWrite]
  have hlo : pa / 32 ≤ (pa + i) / 32 := by omega
  have hhi : (pa + i) / 32 < (pa + 0x60000) / 32 := by omega
  have hnone : ∀ k, k < 32 → slGet (areaClear (spendArea pa s) pa 0x60000) ((pa + i) / 32) k = none := fun k hk => by
    rw [slGet_areaClear (spendArea pa s) hk hlo hhi]
  have hzero : spGet 0 (areaClear (spendArea pa s) pa 0x60000).mem (pa + i) = 0 := by
    rw [areaClear_mem, spGet_spClear, if_pos (by omega)]
  generalize areaClear (spendArea pa s) pa 0x60000 = u at hnone hzero ⊢
  exact ⟨u.mem, hzero, areaByte_notHeld (hnone _ (homeSlice_lt ..))⟩

theorem areaNat_of_bytes {s : State} {p len v : Nat} (h : ∀ k, k < len → areaByte s (p + k) = BitVec.ofNat 8 (v / 256 ^ k)) :
    areaNat s p len = v % 256 ^ len := by
  have hbytes : (List.range len).map (fun i => areaByte s (p + i)) = leBytes len v := by
    apply List.ext_getElem
    · simp [leBytes_length]
    · intro k h1 h2
      have hk : k < len := by simpa using h1
      have hget := leBytes_getD len v k hk
      rw [List.getD_eq_getElem?_getD, List.getElem?_eq_getElem h2, Option.getD_some] at hget
      rw [List.getElem_map, List.getElem_range, h k hk, hget]
  unfold areaNat
  rw [hbytes, leNat_leBytes]

/-- A field of the area reads back where no other one that is not 0 shares a byte with it. -/
theorem areaNat_writeArea {s : State} {g pa : Nat} {r : Reason} {c tw : Nat} {f : Field} (hpa : pa % 2 ^ 16 = 0)
    (hf : f ∈ gangFields s g r c tw) (hend : f.1 + f.2.1 ≤ 0x60000)
    (hapart : ∀ x ∈ gangFields s g r c tw, x.2.2 ≠ 0 → x = f ∨ Apart x f) :
    areaNat (writeArea s g pa r c tw) (pa + f.1) f.2.1 = f.2.2 % 256 ^ f.2.1 := by
  refine areaNat_of_bytes fun k hk => ?_
  obtain ⟨m, hm, hbyte⟩ := areaByte_writeArea s g r c tw hpa (show f.1 + k < 0x60000 by omega)
  rw [Nat.add_assoc, hbyte]
  refine spGet_putFields _ _ (fun x hx hx0 hc => ?_) ?_
  · unfold Covers at hc
    rcases hapart x hx hx0 with rfl | ha
    · rw [byteOf, Nat.add_sub_cancel_left]
    · unfold Apart at ha; omega
  · by_cases h0 : f.2.2 = 0
    · left; rw [hm, h0, Nat.zero_div]; rfl
    · right; exact ⟨f, hf, h0, by unfold Covers; omega⟩

/-- What a save area holds after it is written, where its fields fit and share no byte. -/
theorem writeArea_holds {s : State} {g pa : Nat} {why : Reason} {k tw : Nat} (hpa : pa % 2 ^ 16 = 0)
    (hpair : ((gangFields s g why k tw).filter (fun f => f.2.2 != 0)).Pairwise Apart)
    (hfit : ∀ f ∈ (gangFields s g why k tw).filter (fun f => f.2.2 != 0), f.2.2 < 2 ^ (8 * f.2.1) ∧ f.1 + f.2.1 ≤ 0x60000) :
    (∀ f ∈ (gangFields s g why k tw).filter (fun f => f.2.2 != 0),
      areaNat (writeArea s g pa why k tw) (pa + f.1) f.2.1 = f.2.2) ∧
    ∀ i, i < 0x60000 → (∀ f ∈ (gangFields s g why k tw).filter (fun f => f.2.2 != 0), i < f.1 ∨ f.1 + f.2.1 ≤ i) →
      areaByte (writeArea s g pa why k tw) (pa + i) = 0 := by
  have hmem : ∀ x ∈ gangFields s g why k tw, x.2.2 ≠ 0 → x ∈ (gangFields s g why k tw).filter (fun f => f.2.2 != 0) :=
    fun x hx hx0 => List.mem_filter.mpr ⟨hx, by simpa using hx0⟩
  refine ⟨fun f hf => ?_, fun i hi hout => ?_⟩
  · obtain ⟨hlt, hend⟩ := hfit f hf
    rw [areaNat_writeArea hpa (List.mem_filter.mp hf).1 hend fun x hx hx0 => ?_]
    · rw [show 256 = 2 ^ 8 from rfl, ← Nat.pow_mul]
      exact Nat.mod_eq_of_lt hlt
    · by_cases hxf : x = f
      · exact .inl hxf
      · have : Std.Symm Apart := ⟨fun _ _ h => Or.symm h⟩
        exact .inr (hpair.forall (hmem x hx hx0) hf hxf)
  · obtain ⟨m, hm, hbyte⟩ := areaByte_writeArea s g why k tw hpa hi
    rw [hbyte]
    refine spGet_putFields _ _ (fun x hx hx0 hc => ?_) (.inl hm)
    have := hout x (hmem x hx hx0)
    unfold Covers at hc
    omega

end Sys2Proof.Machine
end

section
/-! The layout of a gang's save area below the stack: which fields stand there, and that they share no byte (21 R418–R422). -/

namespace Sys2Proof.Machine

/-- Fields that stand from an offset on. -/
def FieldsFrom (b : Nat) (l : List Field) : Prop := ∀ f ∈ l, b ≤ f.1

@[simp] theorem fieldsFrom_nil (b : Nat) : FieldsFrom b [] := fun _ h => nomatch h
@[simp] theorem fieldsFrom_cons (b : Nat) (f : Field) (l : List Field) : FieldsFrom b (f :: l) ↔ b ≤ f.1 ∧ FieldsFrom b l :=
  List.forall_mem_cons
@[simp] theorem fieldsFrom_append (b : Nat) (l m : List Field) : FieldsFrom b (l ++ m) ↔ FieldsFrom b l ∧ FieldsFrom b m :=
  List.forall_mem_append
@[simp] theorem fieldsFrom_map {α : Type} (b : Nat) (h : α → Field) (l : List α) :
    FieldsFrom b (l.map h) ↔ ∀ x ∈ l, b ≤ (h x).1 := List.forall_mem_map
theorem fieldsFrom_flatMap {α : Type} {b : Nat} {h : α → List Field} {l : List α} (hl : ∀ x ∈ l, FieldsFrom b (h x)) :
    FieldsFrom b (l.flatMap h) := by
  intro f hf
  obtain ⟨x, hx, hfx⟩ := List.mem_flatMap.mp hf
  exact hl x hx f hfx
theorem FieldsFrom.mono {b b' : Nat} {l : List Field} (hb : b ≤ b') (h : FieldsFrom b' l) : FieldsFrom b l :=
  fun f hf => hb.trans (h f hf)

theorem snapFields_from (c land k : Nat) (p : PathSlot) (x : Snap) : FieldsFrom 0x1000 (snapFields c p land k x) := by
  unfold snapFields
  rw [fieldsFrom_cons]
  refine ⟨by omega, fieldsFrom_flatMap fun y _ => ?_⟩
  simp only [fieldsFrom_cons, fieldsFrom_nil, and_true]
  omega

theorem snapAll_from (c k : Nat) (fs : List Flight) : FieldsFrom 0x1000 (snapAll c k fs) := by
  induction fs generalizing k with
  | nil => exact fieldsFrom_nil _
  | cons x fs ih => exact (fieldsFrom_append ..).mpr ⟨fieldsFrom_flatMap fun y _ => snapFields_from _ _ _ _ _, ih _⟩

theorem engFields_from (b : Nat) (E : Engine) : FieldsFrom b (engFields b E) := by
  simp only [engFields, fieldsFrom_append, fieldsFrom_map, fieldsFrom_cons, fieldsFrom_nil, and_true]
  and_intros
  all_goals intros; omega

theorem joinFields_from (b : Nat) (G : Gang) (e : Nat) : FieldsFrom b (joinFields b G e) := by
  unfold joinFields
  split
  · exact fieldsFrom_nil _
  rw [fieldsFrom_append]
  constructor
  · simp
  split
  · exact fieldsFrom_nil _
  · simp only [fieldsFrom_append, fieldsFrom_map, fieldsFrom_cons, fieldsFrom_nil, and_true]
    and_intros
    all_goals intros; omega

theorem sageFields_from (b c : Nat) (G : Gang) (e : Nat) : FieldsFrom b (sageFields b c G e) := by
  unfold sageFields
  split
  · exact fieldsFrom_nil _
  · simp only [fieldsFrom_append, fieldsFrom_map, fieldsFrom_cons, fieldsFrom_nil, and_true]
    and_intros
    all_goals intros; omega

/-- The fields that the capture of a trap is read by, and where the others stand. -/
inductive LowField (s : State) (g : Nat) (why : Reason) (c : Nat) : Field → Prop
  | cause : LowField s g why c (0, 32, causeRec s (if why = .trap then (getGang s g).cause else none))
  | stackBase : LowField s g why c (0x20, 8, (getGang s g).stkb)
  | reason : LowField s g why c (0x28, 8, reasonNo why + b2n ((getGang s g).preempted && why != .halt) 8
      + snapCount (landOrder (getGang s g).flight) * 2 ^ 16)
  | reg (x : Nat × DWord) : x ∈ (getGang s g).s → LowField s g why c (0x100 + 8 * x.1, 8, x.2.toNat)
  | loop (x : Nat × Word) : x ∈ (getGang s g).lc → LowField s g why c (0x300 + 4 * x.1, 4, x.2.toNat)
  | counts (f : Field) : 0x310 ≤ f.1 → f.1 + f.2.1 ≤ 0x340 → LowField s g why c f
  | path (p : PathSlot) : LowField s g why c (pathOff p, 32, pathRec s g p c)
  | above (f : Field) : 0x380 ≤ f.1 → LowField s g why c f

theorem lowField_of_mem (s : State) (g : Nat) (why : Reason) (c tw : Nat) :
    ∀ f ∈ gangFields s g why c tw, LowField s g why c f := by
  have hup : ∀ {l : List Field}, FieldsFrom 0x380 l → ∀ f ∈ l, LowField s g why c f := fun h f hf => .above f (h f hf)
  have hcounts : ∀ {off v : Nat}, 0x310 ≤ off → off + 8 ≤ 0x340 → LowField s g why c (off, 8, v) := fun h h' => .counts _ h h'
  have heng : ∀ e, FieldsFrom 0x380 (engFields (0x10000 + 0x5000 * e) (getEng (getGang s g) e) ++
      (if why = .halt then [] else joinFields (0x10000 + 0x5000 * e) (getGang s g) e ++
        sageFields (0x10000 + 0x5000 * e) c (getGang s g) e)) := fun e => by
    have hb : 0x380 ≤ 0x10000 + 0x5000 * e := by omega
    rw [fieldsFrom_append]
    refine ⟨(engFields_from _ _).mono hb, ?_⟩
    split
    · exact fieldsFrom_nil _
    · exact (fieldsFrom_append ..).mpr ⟨(joinFields_from _ _ _).mono hb, (sageFields_from _ _ _ _).mono hb⟩
  unfold gangFields
  dsimp only
  simp only [List.forall_mem_append]
  refine ⟨⟨⟨⟨⟨⟨⟨⟨⟨⟨⟨?_, ?_⟩, ?_⟩, ?_⟩, ?_⟩, ?_⟩, ?_⟩, ?_⟩, ?_⟩, ?_⟩, ?_⟩, ?_⟩
  · simp only [List.forall_mem_cons]
    exact ⟨.cause, .stackBase, .reason, fun _ h => nomatch h⟩
  · exact List.forall_mem_map.mpr fun x hx => .reg x hx
  · exact List.forall_mem_map.mpr fun x hx => .loop x hx
  · simp only [List.forall_mem_cons]
    exact ⟨hcounts (by decide) (by decide), hcounts (by decide) (by decide), hcounts (by decide) (by decide), .path .A,
        .path .B, fun _ h => nomatch h⟩
  · exact hup ((fieldsFrom_map ..).mpr fun _ _ => by omega)
  · exact hup ((fieldsFrom_map ..).mpr fun _ _ => by omega)
  · exact hup (fieldsFrom_flatMap fun k _ => (fieldsFrom_map ..).mpr fun _ _ => by omega)
  · exact hup (by simp only [fieldsFrom_cons, fieldsFrom_nil, and_true]; omega)
  · exact hup ((fieldsFrom_map ..).mpr fun _ _ => by omega)
  · exact hup (by simp only [fieldsFrom_cons, fieldsFrom_nil, and_true]; omega)
  · exact hup ((snapAll_from _ _ _).mono (by decide))
  · exact hup (fieldsFrom_flatMap fun e _ => heng e)

/-! Those that a trap's capture is read by are fields of the area, and share no byte with another. -/

theorem mem_gangFields_cause (s : State) (g : Nat) (why : Reason) (c tw : Nat) :
    (0, 32, causeRec s (if why = .trap then (getGang s g).cause else none)) ∈ gangFields s g why c tw := by
  unfold gangFields
  simp only [List.mem_append, List.mem_cons, true_or]

theorem mem_gangFields_reason (s : State) (g : Nat) (why : Reason) (c tw : Nat) :
    (0x28, 8, reasonNo why + b2n ((getGang s g).preempted && why != .halt) 8
      + snapCount (landOrder (getGang s g).flight) * 2 ^ 16) ∈ gangFields s g why c tw := by
  unfold gangFields
  simp only [List.mem_append, List.mem_cons, true_or, or_true]

theorem mem_gangFields_reg {s : State} {g : Nat} {x : Nat × DWord} (why : Reason) (c tw : Nat) (hx : x ∈ (getGang s g).s) :
    (0x100 + 8 * x.1, 8, x.2.toNat) ∈ gangFields s g why c tw := by
  have hmem := List.mem_map_of_mem (f := fun x : Nat × DWord => ((0x100 + 8 * x.1, 8, x.2.toNat) : Field)) hx
  unfold gangFields
  simp only [List.mem_append, hmem, true_or, or_true]

theorem mem_gangFields_path (s : State) (g : Nat) (why : Reason) (c tw : Nat) (p : PathSlot) :
    (pathOff p, 32, pathRec s g p c) ∈ gangFields s g why c tw := by
  unfold gangFields
  cases p <;> simp only [pathOff, List.mem_append, List.mem_cons, true_or, or_true]

section
variable {s : State} {g : Nat} {why : Reason} {c : Nat} {x : Field}

theorem pathOff_eq (p : PathSlot) : pathOff p = 0x340 ∨ pathOff p = 0x360 := by
  cases p
  · exact .inl rfl
  · exact .inr rfl

theorem apart_cause (h : LowField s g why c x) :
    x = (0, 32, causeRec s (if why = .trap then (getGang s g).cause else none)) ∨
      Apart x (0, 32, causeRec s (if why = .trap then (getGang s g).cause else none)) := by
  unfold Apart
  cases h with
  | cause => exact .inl rfl
  | stackBase | reason | counts _ h | above _ h => dsimp only; omega
  | reg y hy | loop y hy => dsimp only; omega
  | path p => have := pathOff_eq p; dsimp only; omega

theorem apart_reason (h : LowField s g why c x) :
    let f : Field := (0x28, 8, reasonNo why + b2n ((getGang s g).preempted && why != .halt) 8
      + snapCount (landOrder (getGang s g).flight) * 2 ^ 16)
    x = f ∨ Apart x f := by
  unfold Apart
  cases h with
  | reason => exact .inl rfl
  | cause | stackBase | counts _ h | above _ h => dsimp only; omega
  | reg y hy | loop y hy => dsimp only; omega
  | path p => have := pathOff_eq p; dsimp only; omega

theorem apart_reg (hs : ∀ y ∈ (getGang s g).s, y.1 < 64) (hnd : ((getGang s g).s.map (·.1)).Nodup) {r : Nat × DWord}
    (hr : r ∈ (getGang s g).s) (h : LowField s g why c x) :
    x = (0x100 + 8 * r.1, 8, r.2.toNat) ∨ Apart x (0x100 + 8 * r.1, 8, r.2.toNat) := by
  have hr64 := hs r hr
  unfold Apart
  cases h with
  | reg y hy =>
    by_cases heq : y.1 = r.1
    · left; rw [List.inj_on_of_nodup_map hnd hy hr heq]
    · right; dsimp only; omega
  | cause | stackBase | reason | counts _ h | above _ h => right; dsimp only; omega
  | loop y hy => right; dsimp only; omega
  | path p => have := pathOff_eq p; right; dsimp only; omega

theorem apart_path (hs : ∀ y ∈ (getGang s g).s, y.1 < 64) (hlc : ∀ y ∈ (getGang s g).lc, y.1 < 4) (q : PathSlot)
    (h : LowField s g why c x) : x = (pathOff q, 32, pathRec s g q c) ∨ Apart x (pathOff q, 32, pathRec s g q c) := by
  have hq := pathOff_eq q
  unfold Apart
  cases h with
  | path p =>
    by_cases heq : p = q
    · left; rw [heq]
    · right; cases p <;> cases q <;> simp [pathOff] at heq ⊢
  | cause | stackBase | reason | counts _ h | above _ h => right; dsimp only; omega
  | reg y hy => have := hs y hy; right; dsimp only; omega
  | loop y hy => have := hlc y hy; right; dsimp only; omega

end

end Sys2Proof.Machine
end

section
/-! The capture of a trap: what the save area then holds (21 R413, R418–R420). -/

namespace Sys2Proof.Machine

theorem causeRec_lt (s : State) (c : Option Cause) : causeRec s c < 256 ^ 32 := by
  have ht : (ptime s).toNat % 2 ^ 32 < 2 ^ 32 := Nat.mod_lt _ (by decide)
  unfold causeRec
  dsimp only
  generalize (ptime s).toNat % 2 ^ 32 = t at ht ⊢
  cases c with
  | none => dsimp only; omega
  | some c =>
    have hcause := c.cause.isLt
    have hpath := (c.path == .B).toNat_le
    have hdef := c.deferred.toNat_le
    have hslot := c.slot.isLt
    have hopc := c.opc.isLt
    have hcode := c.code.isLt
    have hmask := c.emask.isLt
    have hpc := c.pc.isLt
    have hva := c.va.isLt
    simp only [b2n_eq]
    omega

/-- What the area of a stopped gang holds of its cause, its reason, its registers and its paths. -/
theorem writeArea_trap {s : State} {g pa c tw : Nat} (hpa : pa % 2 ^ 16 = 0) (hs : ∀ x ∈ (getGang s g).s, x.1 < 64)
    (hlc : ∀ x ∈ (getGang s g).lc, x.1 < 4) (hnd : ((getGang s g).s.map (·.1)).Nodup) :
    let u := writeArea s g pa .trap c tw
    areaNat u pa 32 = causeRec s (getGang s g).cause ∧ areaNat u (pa + 0x28) 8 % 8 = 2 ∧
      (∀ x ∈ (getGang s g).s, areaNat u (pa + 0x100 + 8 * x.1) 8 = x.2.toNat) ∧
      ∀ q, areaNat u (pa + pathOff q) 32 = pathRec s g q c := by
  have hlow := lowField_of_mem s g .trap c tw
  dsimp only
  refine ⟨?_, ?_, fun x hx => ?_, fun q => ?_⟩
  · have h := areaNat_writeArea (tw := tw) hpa (mem_gangFields_cause s g .trap c tw) (by dsimp only; omega)
      (fun x hx _ => apart_cause (hlow x hx))
    exact h.trans (Nat.mod_eq_of_lt (causeRec_lt ..))
  · have h := areaNat_writeArea (tw := tw) hpa (mem_gangFields_reason s g .trap c tw) (by dsimp only; omega)
      (fun x hx _ => apart_reason (hlow x hx))
    rw [h]
    simp only [b2n_eq, reasonNo]
    omega
  · have hx64 := hs x hx
    have h := areaNat_writeArea (tw := tw) hpa (mem_gangFields_reg .trap c tw hx) (by dsimp only; omega)
      (fun y hy _ => apart_reg hs hnd hx (hlow y hy))
    rw [Nat.add_assoc, h]
    exact Nat.mod_eq_of_lt (lt_of_lt_of_le x.2.isLt (show 2 ^ 64 ≤ 256 ^ 8 by decide))
  · have hq := pathOff_eq q
    have h := areaNat_writeArea (tw := tw) hpa (mem_gangFields_path s g .trap c tw q) (by dsimp only; omega)
      (fun y hy _ => apart_path hs hlc q (hlow y hy))
    exact h.trans (Nat.mod_eq_of_lt (pathRec_fields s g q c).1)

/-! What reads an area's bytes: memory, the slices, and the home of an address. -/

theorem areaNat_congr {s t : State} (hsl : t.sl = s.sl) (hmem : t.mem = s.mem) (hdev : t.dev = s.dev) (pa len : Nat) :
    areaNat t pa len = areaNat s pa len := by
  have hbyte : ∀ p, areaByte t p = areaByte s p := fun p => by
    have hslice : homeSlice t p = homeSlice s p := by
      unfold homeSlice homeMask devGet
      rw [hdev]
    unfold areaByte slGet
    rw [hslice, hsl, hmem]
  unfold areaNat
  simp only [hbyte]

/-! What the capture leaves before and after the area is written. -/

theorem evictLine_priv (s : State) (line slice : Nat) : (evictLine s line slice).priv = s.priv := (evictLine_homeKept ..).priv

theorem rekey_priv (s : State) (sec slice key : Nat) : (rekey s sec slice key).priv = s.priv := by
  unfold rekey
  split
  · exact evictLine_priv ..
  · rfl

theorem slFill_priv (s : State) (sec slice : Nat) (x : SlSector) : (slFill s sec slice x).priv = s.priv := by
  show (makeRoom s slice (sec / 8)).priv = s.priv
  unfold makeRoom
  dsimp only
  split
  · rfl
  · split
    · exact evictLine_priv ..
    · rfl

theorem slWrite_priv (s : State) (slice sec off len v key cls : Nat) (byp : Bool) :
    (slWrite s slice sec off len v key cls byp).priv = s.priv := by
  have hr : (rekey (dropReplicas s (sec / 8)) sec slice key).priv = s.priv := rekey_priv ..
  unfold slWrite
  dsimp only
  split
  · split <;> rfl
  split
  · split <;> exact hr
  split
  · split <;> exact hr
  · split <;> exact (slFill_priv ..).trans hr

/-- What flags written in a pair entry leave: the gang's own stack, or a spill region, holds them. -/
structure PairWritten (g : Nat) (s t : State) : Prop where
  tick : t.tick = s.tick
  dev : t.dev = s.dev
  priv : t.priv = s.priv
  teams : t.teams = s.teams
  gang : ∃ st, getGang t g = { getGang s g with stack := st }

theorem PairWritten.refl (g : Nat) (s : State) : PairWritten g s s := ⟨rfl, rfl, rfl, rfl, _, rfl⟩

theorem areaPut_pairWritten (g : Nat) (s : State) (pa len v : Nat) : PairWritten g s (areaPut s pa len v) := by
  have hpriv : (areaPut s pa len v).priv = s.priv := slWrite_priv ..
  have hgang := (areaPut_memOnly s pa len v).getGang g
  obtain ⟨_, _, _, _, _, _, _, _, h⟩ := areaPut_memOnly s pa len v
  exact ⟨by rw [h], by rw [h], hpriv, by rw [h], _, hgang⟩

theorem setPair_pairWritten (g : Nat) (s : State) (f : StkEnt → StkEnt) : PairWritten g s (setPair s g f) := by
  unfold setPair
  split
  · unfold setAny
    dsimp only
    split
    · exact ⟨rfl, rfl, rfl, rfl, _, (getGang_modGang ..).trans (if_pos rfl)⟩
    split
    · exact .refl g s
    split
    · exact areaPut_pairWritten ..
    · exact .refl g s
  · exact .refl g s

theorem loseSpare_pairWritten (g : Nat) (s : State) : PairWritten g s (loseSpare g s) := by
  unfold loseSpare
  split
  · exact setPair_pairWritten ..
  · exact .refl g s

/-- Two gangs that differ in their engines alone. -/
def EngOnly (G H : Gang) : Prop := ∃ eng, H = { G with eng := eng }

theorem EngOnly.foldl {α : Type} {G H : Gang} {f : Gang → α → Gang} {xs : List α} (hf : ∀ H x, EngOnly G H → EngOnly G (f H x))
    (h : EngOnly G H) : EngOnly G (xs.foldl f H) := by
  induction xs generalizing H with
  | nil => exact h
  | cons x xs ih => exact ih (hf H x h)

theorem modEng_engOnly {G H : Gang} {e : Nat} {f : Engine → Engine} (h : EngOnly G H) : EngOnly G (modEng H e f) := by
  obtain ⟨_, rfl⟩ := h
  exact ⟨_, rfl⟩

theorem stoppedMasks_engOnly (c : Nat) (G : Gang) : EngOnly G (stoppedMasks c G) := by
  refine .foldl (fun _ _ h => .foldl (fun _ w h => ?_) h) ⟨_, rfl⟩
  cases w with
  | predMask => exact modEng_engOnly h
  | _ => exact h

/-! The capture, from the boundary to the team. -/

theorem bringLoads_of_none {s : State} {g : Nat} (h : (getGang s g).txns = []) : bringLoads s g = s := by
  unfold bringLoads
  rw [h]
  rfl

theorem publishTeam_of_none {s : State} (t : Nat) (h : s.priv = []) : publishTeam s t = s := by
  unfold publishTeam publishWhere
  rw [h]
  rfl

theorem spendArea_memOnly (pa : Nat) (s : State) : MemOnly s (spendArea pa s) :=
  (MemOnly.spendFlit ..).trans (.foldl (fun s _ => MemOnly.spendFlit _ _ s) ..)

theorem areaClear_memOnly (s : State) (pa len : Nat) : MemOnly s (areaClear s pa len) := ⟨_, _, _, _, _, _, _, _, rfl⟩

theorem areaClear_priv {s : State} (pa len : Nat) (h : s.priv = []) : (areaClear s pa len).priv = [] := by
  unfold areaClear
  dsimp only
  rw [h]
  rfl

/-- A cleared and written area leaves the rest of the state. -/
theorem writeArea_memOnly (s : State) (g pa : Nat) (r : Reason) (c tw : Nat) : MemOnly s (writeArea s g pa r c tw) := by
  have hmem : ∀ (u : State) (m : Sp Byte), MemOnly u { u with mem := m } := fun u m => ⟨_, _, _, _, _, _, _, _, rfl⟩
  unfold writeArea
  dsimp only
  rw [foldl_areaWrite]
  exact ((spendArea_memOnly pa s).trans (areaClear_memOnly ..)).trans (hmem ..)

theorem spendArea_priv (pa : Nat) (s : State) : (spendArea pa s).priv = s.priv := by
  have hflit : ∀ pa cls s, (spendFlit pa cls s).priv = s.priv := fun pa cls s => by
    unfold spendFlit
    dsimp only
    split <;> rfl
  have hfold : ∀ (es : List Nat) (u : State),
      (es.foldl (fun s e => spendFlit (pa + 0x10000 + 0x5000 * e) 3 s) u).priv = u.priv := by
    intro es
    induction es with
    | nil => exact fun _ => rfl
    | cons e es ih => exact fun u => (ih _).trans (hflit ..)
  exact (hfold ..).trans (hflit ..)

theorem writeArea_priv {s : State} (g pa : Nat) (r : Reason) (c tw : Nat) (h : s.priv = []) :
    (writeArea s g pa r c tw).priv = [] := by
  unfold writeArea
  dsimp only
  rw [foldl_areaWrite]
  have hclear := areaClear_priv pa 0x60000 ((spendArea_priv pa s).trans h)
  generalize areaClear (spendArea pa s) pa 0x60000 = u at hclear ⊢
  exact hclear

end Sys2Proof.Machine
end

section
/-! A trap's capture leaves the area as it is written (21 R413, R415, R418). -/

namespace Sys2Proof.Machine

/-- Two states whose areas read alike. -/
structure AreaSame (s t : State) : Prop where
  sl : t.sl = s.sl
  mem : t.mem = s.mem
  dev : t.dev = s.dev

theorem AreaSame.refl (s : State) : AreaSame s s := ⟨rfl, rfl, rfl⟩
theorem AreaSame.trans {s t u : State} (a : AreaSame s t) (b : AreaSame t u) : AreaSame s u :=
  ⟨b.sl.trans a.sl, b.mem.trans a.mem, b.dev.trans a.dev⟩
theorem AreaSame.areaNat {s t : State} (h : AreaSame s t) (pa len : Nat) : areaNat t pa len = areaNat s pa len :=
  areaNat_congr h.sl h.mem h.dev pa len
theorem AreaSame.foldl {α : Type} {f : State → α → State} (hf : ∀ s x, AreaSame s (f s x)) (xs : List α) (s : State) :
    AreaSame s (xs.foldl f s) := by
  induction xs generalizing s with
  | nil => exact .refl s
  | cons x xs ih => exact (hf s x).trans (ih _)

theorem setGang_areaSame (s : State) (g : Nat) (G : Gang) : AreaSame s (setGang s g G) := ⟨rfl, rfl, rfl⟩
theorem modGang_areaSame (s : State) (g : Nat) (f : Gang → Gang) : AreaSame s (modGang s g f) := ⟨rfl, rfl, rfl⟩
theorem modTeam_areaSame (s : State) (t : Nat) (f : Team → Team) : AreaSame s (modTeam s t f) :=
  ⟨modTeam_sl .., modTeam_mem .., modTeam_dev ..⟩
theorem raiseIrq_areaSame (s : State) (i : Irq) : AreaSame s (raiseIrq s i) := ⟨rfl, rfl, rfl⟩
theorem keepSpare_areaSame (g : Nat) (s : State) : AreaSame s (keepSpare g s) := by
  unfold keepSpare
  dsimp only
  split
  · split
    · exact ⟨rfl, rfl, rfl⟩
    · exact .refl s
  · exact .refl s

theorem keepSpare_gangs_teams (g : Nat) (s : State) : (keepSpare g s).gangs = s.gangs ∧ (keepSpare g s).teams = s.teams := by
  unfold keepSpare
  dsimp only
  split
  · split
    · exact ⟨rfl, rfl⟩
    · exact ⟨rfl, rfl⟩
  · exact ⟨rfl, rfl⟩

/-- A team of which a gang is saved for a trap is trapped or waits for its other gang: no area changes. -/
theorem settleTeam_areaSame {s : State} {t : Nat} {T : Team} (hT : getTeam s t = some T)
    (hr : savedReason T (fun r => r == .trap || r == .partner) = true) : AreaSame s (settleTeam s t) := by
  unfold settleTeam
  rw [hT]
  dsimp only
  split
  · refine (modTeam_areaSame ..).trans (.foldl (fun u k => ?_) ..)
    split
    · exact raiseIrq_areaSame ..
    · exact .refl u
  · exact .refl s

theorem savedReason_spPut {T : Team} {g : Nat} {S : Gang} {r : Reason} {f : Reason → Bool}
    (hS : S.run = .stopped r) (hf : f r = true) :
    savedReason { T with saved := spPut T.saved g S } f = true := by
  have hmem : (g, S) ∈ spPut T.saved g S := by
    have hfind : spFind (spPut T.saved g S) g = some S := by rw [spFind_spPut, if_pos rfl]
    obtain ⟨l₁, l₂, hl, -⟩ := List.lookup_eq_some_iff.mp hfind
    rw [hl]; simp
  refine List.any_eq_true.mpr ⟨_, hmem, ?_⟩
  rw [hS]
  exact hf

theorem markWaited_run (s : State) (g : Nat) (p : PathSlot) (G : Gang) : (markWaited s g p G).run = G.run := by
  cases p <;> rfl

/-- What a trap's capture makes of a state whose area is written: the gang's context goes to its team, and the gang is idle. -/
def parkGang (w : State) (g t : Nat) : State :=
  let k := keepSpare g (publishTeam (modGang w g (fun G => markWaited w g .A (markWaited w g .B G))) t)
  setGang (modTeam k t (fun T => { T with
    saved := spPut T.saved g { getGang k g with hw := marksOnly (getGang k g).hw, l1 := [], spare := false } })) g
    (idleGang (getGang k g))

theorem captureGang_trap {s : State} {g t : Nat} {T : Team} (hteam : (getGang s g).team = some t) (hT : getTeam s t = some T)
    (htx : (getGang s g).txns = []) :
    let v := drawFree (modGang (loseSpare g s) g (stoppedMasks (getGang s g).stopAt))
    captureGang s g .trap = parkGang (writeArea v.2 g (savePa v.2 g T.slot) .trap (getGang s g).stopAt
      (if T.gangs.all (fun h => decide (g ≤ h)) then v.1 else 0)) g t := by
  have hbring := bringLoads_of_none htx
  dsimp only
  unfold captureGang
  rw [hteam]
  dsimp only
  rw [hT]
  dsimp only
  rw [hbring]
  rfl

/-- After the area is written a trap's capture changes none. -/
theorem settleTeam_parkGang_areaSame {w : State} {g t : Nat} {T : Team} (hT : getTeam w t = some T) (hp : w.priv = [])
    (hrun : (getGang w g).run = .stopped .trap) : AreaSame w (settleTeam (parkGang w g t) t) := by
  have hpublish : publishTeam (modGang w g (fun G => markWaited w g .A (markWaited w g .B G))) t =
      modGang w g (fun G => markWaited w g .A (markWaited w g .B G)) := publishTeam_of_none t hp
  unfold parkGang
  dsimp only
  rw [hpublish]
  have hk := (modGang_areaSame w g (fun G => markWaited w g .A (markWaited w g .B G))).trans (keepSpare_areaSame g _)
  obtain ⟨hgangs, hteams⟩ := keepSpare_gangs_teams g (modGang w g (fun G => markWaited w g .A (markWaited w g .B G)))
  have hkrun : (getGang (keepSpare g (modGang w g (fun G => markWaited w g .A (markWaited w g .B G)))) g).run =
      .stopped .trap := by
    unfold getGang
    rw [hgangs]
    have hmod := getGang_modGang w g g (fun G => markWaited w g .A (markWaited w g .B G))
    rw [if_pos rfl] at hmod
    exact (congrArg Gang.run hmod).trans (((markWaited_run ..).trans (markWaited_run ..)).trans hrun)
  have hkteam : getTeam (keepSpare g (modGang w g (fun G => markWaited w g .A (markWaited w g .B G)))) t = some T := by
    unfold getTeam
    rw [hteams]
    exact hT
  generalize keepSpare g (modGang w g (fun G => markWaited w g .A (markWaited w g .B G))) = k at hk hkrun hkteam ⊢
  refine (hk.trans ((modTeam_areaSame ..).trans (setGang_areaSame ..))).trans (settleTeam_areaSame (T := { T with
    saved := spPut T.saved g { getGang k g with hw := marksOnly (getGang k g).hw, l1 := [], spare := false } }) ?_ ?_)
  · refine (getTeam_modTeam ..).trans ?_
    rw [if_pos rfl, hkteam]
    rfl
  · exact savedReason_spPut (r := .trap) hkrun rfl

/-- The area after a trap's capture is the one written at it. -/
theorem capture_trap {s : State} {g t : Nat} {T : Team} (hrun : (getGang s g).run = .stopped .trap)
    (hteam : (getGang s g).team = some t) (hT : getTeam s t = some T) (htx : (getGang s g).txns = []) (hp : s.priv = []) :
    ∃ v tw, v.tick = s.tick ∧ (∃ eng st, getGang v g = { getGang s g with eng := eng, stack := st }) ∧
      ∀ pa len, areaNat (capture s g) pa len =
        areaNat (writeArea v g (savePa s g T.slot) .trap (getGang s g).stopAt tw) pa len := by
  have hpair := loseSpare_pairWritten g s
  obtain ⟨st, hst⟩ := hpair.gang
  obtain ⟨eng, heng⟩ := stoppedMasks_engOnly (getGang s g).stopAt (getGang (loseSpare g s) g)
  have hcapture : capture s g = settleTeam (captureGang s g .trap) t := by
    unfold capture stopReason
    rw [hrun, hteam]
  have hpark := captureGang_trap hteam hT htx
  dsimp only at hpark
  rw [hcapture, hpark]
  have hgang : getGang (modGang (loseSpare g s) g (stoppedMasks (getGang s g).stopAt)) g =
      { getGang s g with eng := eng, stack := st } := by
    rw [getGang_modGang, if_pos rfl, heng, hst]
  have hsave : savePa (modGang (loseSpare g s) g (stoppedMasks (getGang s g).stopAt)) g T.slot = savePa s g T.slot := by
    unfold savePa devGet
    rw [modGang_dev, hpair.dev]
  have hteams : getTeam (modGang (loseSpare g s) g (stoppedMasks (getGang s g).stopAt)) t = some T := by
    unfold getTeam at hT ⊢
    rw [modGang_teams, hpair.teams, hT]
  have htick : (modGang (loseSpare g s) g (stoppedMasks (getGang s g).stopAt)).tick = s.tick := hpair.tick
  have hpriv : (modGang (loseSpare g s) g (stoppedMasks (getGang s g).stopAt)).priv = [] := hpair.priv.trans hp
  generalize modGang (loseSpare g s) g (stoppedMasks (getGang s g).stopAt) = v at hgang hsave hteams htick hpriv ⊢
  generalize (if T.gangs.all (fun h => decide (g ≤ h)) then (drawFree v).1 else 0) = tw
  refine ⟨(drawFree v).2, tw, htick, ⟨eng, st, hgang⟩, fun pa len => ?_⟩
  rw [show savePa (drawFree v).2 g T.slot = savePa s g T.slot from hsave]
  have hwonly := writeArea_memOnly (drawFree v).2 g (savePa s g T.slot) .trap (getGang s g).stopAt tw
  have hwpriv := writeArea_priv (s := (drawFree v).2) g (savePa s g T.slot) .trap (getGang s g).stopAt tw hpriv
  generalize writeArea (drawFree v).2 g (savePa s g T.slot) .trap (getGang s g).stopAt tw = w at hwonly hwpriv ⊢
  have hwgang : getGang w g = getGang v g := hwonly.getGang g
  refine AreaSame.areaNat (settleTeam_parkGang_areaSame (T := T) ?_ hwpriv ?_) pa len
  · obtain ⟨_, _, _, _, _, _, _, _, rfl⟩ := hwonly
    exact hteams
  · rw [hwgang, hgang]
    exact hrun

end Sys2Proof.Machine
end

section
/-! What a trap's capture writes (21 R418–R420, R422). -/

namespace Sys2Proof.Machine

theorem run_of_captureReady_trap {s : State} {g : Nat} (h : captureReady s g (· == .trap) = true) :
    (getGang s g).run = .stopped .trap := by
  unfold captureReady at h
  dsimp only at h
  split at h
  next r hr =>
    obtain ⟨htrap, -⟩ := Bool.and_eq_true_iff.mp h
    rw [hr, beq_iff_eq.mp htrap]
  next => exact absurd h Bool.false_ne_true

theorem execTrapEntry_of_ready {s : State} {g : Nat} (h : captureReady s g (· == .trap) = true) :
    exec (.trapEntry g) s = .next (capture s g) := congrArg Host.Outcome.next (if_pos h)

theorem causeRec_congr {s v : State} (h : v.tick = s.tick) (c : Option Cause) : causeRec v c = causeRec s c := by
  unfold causeRec ptime
  rw [h]

theorem trapEntry_writes {s : State} {g t : Nat} {T : Team} (hready : captureReady s g (· == .trap) = true)
    (hteam : (getGang s g).team = some t) (hT : getTeam s t = some T) (htx : (getGang s g).txns = []) (hp : s.priv = [])
    (hpa : savePa s g T.slot % 2 ^ 16 = 0) (hs : ∀ x, x ∈ (getGang s g).s → x.1 < 64) (hlc : ∀ x, x ∈ (getGang s g).lc → x.1 < 4)
    (hnd : ((getGang s g).s.map (·.1)).Nodup) :
    let G := getGang s g
    let pa := savePa s g T.slot
    ∃ u, exec (.trapEntry g) s = .next u ∧ areaNat u pa 32 = causeRec s G.cause ∧ areaNat u (pa + 0x28) 8 % 8 = 2 ∧
      (∀ x, x ∈ G.s → areaNat u (pa + 0x100 + 8 * x.1) 8 = x.2.toNat) ∧
      (∀ q, let P := getPath G q
        let v := areaNat u (pa + pathOff q) 32
        nbits v 255 204 = P.pc.toNat ∧ nbits v 203 152 = P.lnk.toNat ∧ nbits v 151 136 = P.mask.toNat ∧
        nbits v 119 118 = enteringNo P.entering ∧ v.testBit 117 = P.live ∧ v.testBit 116 = P.onspare ∧
        v.testBit 115 = (G.turn == q)) := by
  obtain ⟨v, tw, htick, ⟨eng, st, hgang⟩, harea⟩ := capture_trap (run_of_captureReady_trap hready) hteam hT htx hp
  have hwritten := writeArea_trap (s := v) (g := g) (c := (getGang s g).stopAt) (tw := tw) hpa (by rw [hgang]; exact hs)
    (by rw [hgang]; exact hlc) (by rw [hgang]; exact hnd)
  dsimp only at hwritten ⊢
  obtain ⟨hcause, hreason, hregs, hpaths⟩ := hwritten
  refine ⟨_, execTrapEntry_of_ready hready, ?_, ?_, fun x hx => ?_, fun q => ?_⟩
  · rw [harea, hcause, causeRec_congr htick, hgang]
  · rw [harea, hreason]
  · rw [harea]
    exact hregs x (by rw [hgang]; exact hx)
  · have hpath : getPath (getGang v g) q = getPath (getGang s g) q := by rw [hgang]; cases q <;> rfl
    have hturn : (getGang v g).turn = (getGang s g).turn := by rw [hgang]
    have hfields := pathRec_fields v g q (getGang s g).stopAt
    dsimp only at hfields
    rw [hpath, hturn] at hfields
    rw [harea, hpaths]
    exact hfields.2

end Sys2Proof.Machine
end

section
/-! What a resume reads from a save area (21 R424). -/

namespace Sys2Proof.Machine

/-- What a resume takes from the area and keeps through the gang's start. -/
structure ContextSame (G H : Gang) : Prop where
  team : H.team = G.team
  abase : H.abase = G.abase
  s : H.s = G.s
  lc : H.lc = G.lc
  eng : H.eng = G.eng
  path : ∀ q, (getPath H q).pc = (getPath G q).pc ∧ (getPath H q).lnk = (getPath G q).lnk ∧
    (getPath H q).mask = (getPath G q).mask ∧ (getPath H q).live = (getPath G q).live

theorem ContextSame.refl (G : Gang) : ContextSame G G := ⟨rfl, rfl, rfl, rfl, rfl, fun _ => ⟨rfl, rfl, rfl, rfl⟩⟩

theorem ContextSame.trans {G H K : Gang} (a : ContextSame G H) (b : ContextSame H K) : ContextSame G K :=
  ⟨b.team.trans a.team, b.abase.trans a.abase, b.s.trans a.s, b.lc.trans a.lc, b.eng.trans a.eng, fun q => by
    obtain ⟨hpc, hlnk, hmask, hlive⟩ := a.path q
    obtain ⟨kpc, klnk, kmask, klive⟩ := b.path q
    exact ⟨kpc.trans hpc, klnk.trans hlnk, kmask.trans hmask, klive.trans hlive⟩⟩

/-- The context of a gang put into a team, field by field. -/
theorem ContextSame.of_team {Q R : Gang} {t : Nat} (h : ContextSame { Q with team := some t } R) :
    R.team = some t ∧ R.abase = Q.abase ∧ R.s = Q.s ∧ R.lc = Q.lc ∧ R.eng = Q.eng ∧
      ∀ q, (getPath R q).pc = (getPath Q q).pc ∧ (getPath R q).lnk = (getPath Q q).lnk ∧
        (getPath R q).mask = (getPath Q q).mask ∧ (getPath R q).live = (getPath Q q).live :=
  ⟨h.team, h.abase, h.s, h.lc, h.eng, fun q => by cases q <;> exact h.path _⟩

theorem ThymeOnly.contextSame {G H : Gang} (h : ThymeOnly G H) : ContextSame G H := by
  obtain ⟨_, _, _, _, _, _, _, _, rfl⟩ := h
  exact ⟨rfl, rfl, rfl, rfl, rfl, fun q => by cases q <;> exact ⟨rfl, rfl, rfl, rfl⟩⟩

theorem deferCause_context (s : State) (g : Nat) (c : Cause) : ContextSame (getGang s g) (getGang (deferCause s g c) g) := by
  unfold deferCause
  rw [getGang_modGang, if_pos rfl]
  exact ⟨rfl, rfl, rfl, rfl, rfl, fun q => by cases q <;> exact ⟨rfl, rfl, rfl, rfl⟩⟩

theorem getGang_sendFlow (g pa h : Nat) (back : Bool) (s : State) : getGang (sendFlow g pa back s) h = getGang s h := rfl

theorem readBack_context (g : Nat) (s : State) : ContextSame (getGang s g) (getGang (readBack g s) g) := by
  unfold readBack
  dsimp only
  split
  · exact .refl _
  · split
    · exact deferCause_context ..
    · rw [getGang_modGang, if_pos rfl, getGang_sendFlow]
      exact ⟨rfl, rfl, rfl, rfl, rfl, fun q => by cases q <;> exact ⟨rfl, rfl, rfl, rfl⟩⟩

theorem refillStack_context (g : Nat) (s : State) : ContextSame (getGang s g) (getGang (refillStack g s) g) := by
  unfold refillStack
  generalize List.range 8 = rounds
  induction rounds generalizing s with
  | nil => exact .refl _
  | cons r rs ih => exact (readBack_context g s).trans (ih _)

theorem resumeGang_context {s : State} {g t : Nat} {S : Gang} {T : Team} (hT : getTeam s t = some T)
    (hbad : areaBad s (savePa s g T.slot) 0x60000 = false)
    (hrsv : areaRsv ⟨s, savePa s g T.slot⟩ (T.gangs.any (fun h => decide (h < g))) = false) :
    ContextSame { readGang ⟨s, savePa s g T.slot⟩ S with team := some t } (getGang (resumeGang s g t S) g) := by
  unfold resumeGang
  rw [hT]
  dsimp only
  rw [if_neg (by rw [hbad]; exact Bool.false_ne_true), if_neg (by rw [hrsv]; exact Bool.false_ne_true), getGang_modTeam]
  generalize readGang ⟨s, savePa s g T.slot⟩ S = R
  refine ContextSame.trans ?_ (refillStack_context g _)
  rw [getGang_setGang, if_pos rfl]
  refine ContextSame.trans ?_ (takeHeld_thymeOnly _).contextSame
  exact ⟨rfl, rfl, rfl, rfl, rfl, fun q => by cases q <;> exact ⟨rfl, rfl, rfl, rfl⟩⟩

/-! Registers of the area. -/

theorem spGet_foldl_spSet {n : Nat} (f : Nat → BitVec n) (off count k : Nat) :
    spGet 0 ((List.range count).foldl (fun m i => spSet 0 m (i + off) (f i)) []) k =
      if off ≤ k ∧ k < count + off then f (k - off) else 0 := by
  induction count with
  | zero => rw [if_neg (by omega)]; rfl
  | succ c ih =>
    rw [List.range_succ, List.foldl_append, List.foldl_cons, List.foldl_nil, spGet_spSet, ih]
    by_cases hk : k = c + off
    · subst hk
      rw [if_pos rfl, if_pos (by omega), Nat.add_sub_cancel]
    · rw [if_neg hk]
      exact if_congr (by omega) rfl rfl

theorem spGet_rdSp {n : Nat} (A : Area) (base stride len count : Nat) {r : Nat} (h : r < count) :
    spGet 0 (rdSp A base stride len count : Sp (BitVec n)) r = BitVec.ofNat n (rd A (base + stride * r) len) := by
  have hread := spGet_foldl_spSet (fun k => BitVec.ofNat n (rd A (base + stride * k) len)) 0 count r
  rw [if_pos ⟨Nat.zero_le r, h⟩] at hread
  exact hread

/-! The fields of what is read back, each as the area holds it. -/

theorem readGang_s (A : Area) (S : Gang) : (readGang A S).s = rdSp A 0x100 8 8 64 := by unfold readGang; dsimp only
theorem readGang_lcs (A : Area) (S : Gang) : (readGang A S).lc = rdSp A 0x300 4 4 4 := by unfold readGang; dsimp only
theorem readGang_abase (A : Area) (S : Gang) : (readGang A S).abase = BitVec.ofNat 52 (rd A 0x310 8) := by
  unfold readGang; dsimp only
theorem rdEng_vs (A : Area) (b : Nat) (E : Engine) : (rdEng A b E).v = rdSp A b 64 64 32 := by unfold rdEng; dsimp only
theorem rdEng_ms (A : Area) (b : Nat) (E : Engine) : (rdEng A b E).m = rdSp A (b + 0x800) 64 64 128 := by unfold rdEng; dsimp only
theorem rdEng_xs (A : Area) (b : Nat) (E : Engine) : (rdEng A b E).x = rdSp A (b + 0x2800) 4 4 16 := by unfold rdEng; dsimp only
theorem rdEng_ps (A : Area) (b : Nat) (E : Engine) : (rdEng A b E).p =
    (List.range 7).foldl (fun m k => spSet 0 m (k + 1) (BitVec.ofNat 16 (rd A (b + 0x2842 + 2 * k) 2))) [] := by
  unfold rdEng; dsimp only

theorem readGang_sReg (A : Area) (S : Gang) {r : Nat} (h : r < 64) :
    sReg (readGang A S) r = BitVec.ofNat 64 (rd A (0x100 + 8 * r) 8) := by
  unfold sReg
  rw [readGang_s, spGet_rdSp A 0x100 8 8 64 h]

theorem readGang_lc (A : Area) (S : Gang) {r : Nat} (h : r < 4) :
    spGet 0 (readGang A S).lc r = BitVec.ofNat 32 (rd A (0x300 + 4 * r) 4) := by
  rw [readGang_lcs, spGet_rdSp A 0x300 4 4 4 h]

theorem readGang_path (A : Area) (S : Gang) (q : PathSlot) :
    let v := rd A (pathOff q) 32
    let P := getPath (readGang A S) q
    P.pc = BitVec.ofNat 52 (nbits v 255 204) ∧ P.lnk = BitVec.ofNat 52 (nbits v 203 152) ∧
      P.mask = BitVec.ofNat 16 (nbits v 151 136) ∧ P.live = v.testBit 117 := by
  cases q <;> exact ⟨rfl, rfl, rfl, rfl⟩

theorem getEng_readGang (A : Area) (S : Gang) {e : Nat} (h : e < 16) :
    getEng (readGang A S) e = rdEng A (0x10000 + 0x5000 * e) (getEng S e) := by
  have hlookup := List.lookup_graph (fun e => rdEng A (0x10000 + 0x5000 * e) (getEng S e)) (List.mem_range.mpr h)
  exact congrArg (fun o => o.getD Engine.start) hlookup

theorem rdEng_v (A : Area) (b : Nat) (E : Engine) {r : Nat} (h : r < 32) :
    vRegE (rdEng A b E) r = BitVec.ofNat 512 (rd A (b + 64 * r) 64) := by
  unfold vRegE
  rw [rdEng_vs, spGet_rdSp A b 64 64 32 h]

theorem rdEng_m (A : Area) (b : Nat) (E : Engine) {r : Nat} (h : r < 128) :
    mRow (rdEng A b E) (r / 16) (r % 16) = BitVec.ofNat 512 (rd A (b + 0x800 + 64 * r) 64) := by
  unfold mRow
  rw [Nat.div_add_mod, rdEng_ms, spGet_rdSp A (b + 0x800) 64 64 128 h]

theorem rdEng_x (A : Area) (b : Nat) (E : Engine) {r : Nat} (h : r < 16) :
    xRegE (rdEng A b E) r = BitVec.ofNat 32 (rd A (b + 0x2800 + 4 * r) 4) := by
  unfold xRegE
  rw [rdEng_xs, spGet_rdSp A (b + 0x2800) 4 4 16 h]

theorem rdEng_p (A : Area) (b : Nat) (E : Engine) {r : Nat} (h0 : 0 < r) (h : r < 8) :
    pRegE (rdEng A b E) r = BitVec.ofNat 16 (rd A (b + 0x2840 + 2 * r) 2) := by
  have hread := spGet_foldl_spSet (fun k => BitVec.ofNat 16 (rd A (b + 0x2842 + 2 * k) 2)) 1 7 r
  rw [if_pos (by omega), show b + 0x2842 + 2 * (r - 1) = b + 0x2840 + 2 * r by omega] at hread
  unfold pRegE
  rw [if_neg (by omega), rdEng_ps]
  exact hread

/-- A gang resumes with the registers, engines and path records of its save area. -/
theorem resumeGang_reads {s : State} {g t : Nat} {S : Gang} {T : Team} (hT : getTeam s t = some T) :
    let pa := savePa s g T.slot
    let R := getGang (resumeGang s g t S) g
    areaBad s pa 0x60000 = false → areaRsv ⟨s, pa⟩ (T.gangs.any (fun h => decide (h < g))) = false →
    R.team = some t ∧ R.abase = BitVec.ofNat 52 (areaNat s (pa + 0x310) 8) ∧
    (∀ r, r < 64 → sReg R r = BitVec.ofNat 64 (areaNat s (pa + 0x100 + 8 * r) 8)) ∧
    (∀ r, r < 4 → spGet 0 R.lc r = BitVec.ofNat 32 (areaNat s (pa + 0x300 + 4 * r) 4)) ∧
    (∀ q, let v := areaNat s (pa + pathOff q) 32
      (getPath R q).pc = BitVec.ofNat 52 (nbits v 255 204) ∧ (getPath R q).lnk = BitVec.ofNat 52 (nbits v 203 152) ∧
      (getPath R q).mask = BitVec.ofNat 16 (nbits v 151 136) ∧ (getPath R q).live = v.testBit 117) ∧
    ∀ e r, e < 16 →
      let b := pa + 0x10000 + 0x5000 * e
      (r < 32 → vRegE (getEng R e) r = BitVec.ofNat 512 (areaNat s (b + 64 * r) 64)) ∧
      (r < 128 → mRow (getEng R e) (r / 16) (r % 16) = BitVec.ofNat 512 (areaNat s (b + 0x800 + 64 * r) 64)) ∧
      (r < 16 → xRegE (getEng R e) r = BitVec.ofNat 32 (areaNat s (b + 0x2800 + 4 * r) 4)) ∧
      (0 < r → r < 8 → pRegE (getEng R e) r = BitVec.ofNat 16 (areaNat s (b + 0x2840 + 2 * r) 2)) := by
  dsimp only
  intro hbad hrsv
  obtain ⟨hteam, habase, hs, hlc, heng, hpath⟩ := (resumeGang_context (S := S) hT hbad hrsv).of_team
  generalize getGang (resumeGang s g t S) g = R at hteam habase hs hlc heng hpath ⊢
  generalize savePa s g T.slot = pa at habase hs hlc heng hpath ⊢
  refine ⟨hteam, habase.trans (readGang_abase ⟨s, pa⟩ S), fun r hr => ?_, fun r hr => ?_, fun q => ?_, fun e r he => ?_⟩
  · have h := readGang_sReg ⟨s, pa⟩ S hr
    unfold sReg at h ⊢
    simp only [hs, h, rd, Nat.add_assoc]
  · have h := readGang_lc ⟨s, pa⟩ S hr
    simp only [hlc, h, rd, Nat.add_assoc]
  · have h := readGang_path ⟨s, pa⟩ S q
    obtain ⟨hpc, hlnk, hmask, hlive⟩ := hpath q
    obtain ⟨kpc, klnk, kmask, klive⟩ := h
    exact ⟨hpc.trans kpc, hlnk.trans klnk, hmask.trans kmask, hlive.trans klive⟩
  · have hread : getEng R e = rdEng ⟨s, pa⟩ (0x10000 + 0x5000 * e) (getEng S e) :=
      (congrArg (fun m => (spFind m e).getD Engine.start) heng).trans (getEng_readGang ⟨s, pa⟩ S he)
    rw [hread]
    refine ⟨fun hr => ?_, fun hr => ?_, fun hr => ?_, fun h0 hr => ?_⟩
    · simp only [rdEng_v _ _ _ hr, rd, Nat.add_assoc]
    · simp only [rdEng_m _ _ _ hr, rd, Nat.add_assoc]
    · simp only [rdEng_x _ _ _ hr, rd, Nat.add_assoc]
    · simp only [rdEng_p _ _ _ h0 hr, rd, Nat.add_assoc]

end Sys2Proof.Machine
end

section
/-! The steps whose guard picks the one function that makes them. -/

namespace Sys2Proof.Machine

theorem pathResolve_resolves {s : State} {g a : Nat} {p : PathSlot} (ha : (getPath (getGang s g) p).resolveAt = some a)
    (h : resolveReady (getGang s g) p = true) : exec (.pathResolve g p) s = .next (recheckTeam (resolveLoop g p a 300 s) g) := by
  have hexec : exec (.pathResolve g p) s = execPathResolve g p s := rfl
  rw [hexec, execPathResolve, ha]
  exact congrArg Host.Outcome.next (if_pos h)

theorem stepCommand_halted {s : State} {die gang : Nat} (h : (getGang s (gangAt die gang)).run = .halted) :
    exec (.stepCommand die gang) s = .next (
      let h := gangAt die gang
      let u := resumeHalted s h
      if (getGang u h).run != .run then u else if (stepPaths (getGang u h)).isEmpty then stopGang u h .halt
      else modGang u h (fun G => { G with stepLeft := some (stepPaths (getGang u h)) })) :=
  congrArg Host.Outcome.next (if_pos h)

end Sys2Proof.Machine

namespace Sys2Proof
open Machine

/-- Settles O46: a step of its own for each event, the area's bytes written field by field, and a resume that reads them back. -/
theorem gangEvents : Obligations.GangEvents := by
  unfold Obligations.GangEvents
  intro s g pair die gang p c
  dsimp only
  refine ⟨fun pa why k tw hpa hapart hfit => ?writeArea,
    fun t T hready hteam hT htx hp hpa hs hlc hnd => trapEntry_writes hready hteam hT htx hp hpa hs hlc hnd,
    fun v hv => ?causeRec, fun t T S hT => resumeGang_reads hT, freezeEnd_thaws, freezeEnd_refreezes, deferredTrap_taken,
    fun h => congrArg Host.Outcome.next (if_pos h), execTrapEntry_of_ready, fun h => congrArg Host.Outcome.next (if_pos h),
    partnerStop_asks, spareGrant_grants, spareHandoverEnd_ends, fun a => pathResolve_resolves,
    fun h => congrArg Host.Outcome.next (if_pos h), gangFinish_leaves, fun h => congrArg Host.Outcome.next (if_pos h),
    fun h => congrArg Host.Outcome.next (if_neg h), haltCommand_asks, stepCommand_halted,
    fun h => congrArg Host.Outcome.next (if_neg h), watchdog_traps⟩
  case writeArea => exact writeArea_holds hpa hapart hfit
  case causeRec =>
    subst hv
    exact causeRec_fields s c

end Sys2Proof
end
